-- ==== Sys2Proof/Word.lean ====
section
/-! DEFINITION. The word types of the Sorrak-4 and their plainest arithmetic: bit fields, extension,
and the type of sparse maps that every file, memory and table of the machine is kept in. -/

namespace Sys2Proof

/-- One byte of memory (00 R2). -/
abbrev Byte := BitVec 8
/-- The 32-bit value of one lane of a varying register (01 R19). -/
abbrev LaneWord := BitVec 32
/-- The 64-bit value of a uniform register (01 R19). -/
abbrev Word := BitVec 64

/-- A sparse map: pairs of a key and a value, keys strictly rising, no value equal to what an
unlisted key reads as. -/
abbrev SMap (α : Type) := List (Nat × α)

/-- Whether bit `i` of a mask is set. -/
abbrev hasBit (m : Word) (i : Nat) : Bool := m.getLsbD i

end Sys2Proof
end

