-- ==== Sys2Proof/Syntax.lean ====
section
/-! DEFINITION. The instructions, host commands, register writes and steps of the Sorrak-4: one
constructor of `Instr` for each row of spec/opcode_table.json. Fields are those of the encodings
(03 R49, R52; 19 R373); a step's operands name the unit it happens at. -/

namespace Sys2Proof

/-- The fields of the long and extended formats (03 R52); `ext` is LEN 0b11, `lit` the literal. -/
structure Fields where
  ext : Bool
  lit : BitVec 32
  c : BitVec 7
  b : BitVec 7
  bk : BitVec 2
  a : BitVec 7
  ak : BitVec 2
  d : BitVec 7
  ck : BitVec 2
  mo : BitVec 2
  rs : BitVec 3
  ov : Bool
  et : BitVec 4
  fc : BitVec 2
  neg : Bool
  pm : BitVec 3
  ahead : BitVec 4
  deriving DecidableEq, Repr

/-- The fields of the short format (03 R49). `lead` is LEN 0b01: the short leads a pair, and `fol`
is the parcel of its follower (R59); `fol` is zero when the short stands alone. -/
structure ShortFields where
  lead : Bool
  hi : BitVec 16
  bf : BitVec 2
  d : BitVec 5
  df : BitVec 2
  fol : BitVec 32
  deriving DecidableEq, Repr

/-- A host command entry without its OP (19 R373); `opnd` is bytes 8 to 63. -/
structure CmdEntry where
  ctx : BitVec 8
  flags : BitVec 16
  tag : BitVec 32
  opnd : BitVec 448
  deriving DecidableEq, Repr

/-- What arrives over a Gorfel link, with the GTS stamped when it was sent (01 R25; 19 R379, R380): a destination sector of
a peer's copy, or a peer's contribution to a collective. -/
inductive Remote where
  | write (stamp : Word) (ctx va : Nat) (tag : BitVec 4) (bytes : List (Nat × Byte))
  | contribution (stamp : Word) (ctx comm seq dev : Nat) (desc : List Byte) (data : List Byte) (poison : Bool)
  deriving DecidableEq, Repr

/-- A soft error found in storage (17 R344, R346), by the item it strikes. -/
inductive SoftError where
  | corrected (ctx : Nat)
  | sector (key : Nat)
  | laneWord (tid slot lane : Nat)
  | sReg (tid slot : Nat)
  | aReg (tid slot : Nat)
  | tileRow (tid t row : Nat)
  | accRow (tid z row : Nat)
  | returnBuffer (core burst lane : Nat)
  | control (tid : Nat)
  | table (ctx : Nat)
  | engine (cmd : Nat)
  deriving DecidableEq, Repr

/-- The operations and events of the part, one constructor for each row of the opcode table. -/
inductive Instr where
  | nop (f : Fields) -- NOP, R63
  | bra (f : Fields) -- BRA, R79
  | brc (f : Fields) -- BRC, R79
  | loop (f : Fields) -- LOOP, R79
  | jtab (f : Fields) -- JTAB, R80
  | call (f : Fields) -- CALL, R81
  | calli (f : Fields) -- CALLI, R81
  | ret (f : Fields) -- RET, R81
  | enter (f : Fields) -- ENTER, R82
  | classFirst (f : Fields) -- CLASS, R83
  | classAsc (f : Fields) -- CLASS_ASC, R83
  | classM (f : Fields) -- CLASS_M, R83
  | nextc (f : Fields) -- NEXTC, R84
  | leave (f : Fields) -- LEAVE, R85
  | exit (f : Fields) -- EXIT, R85
  | uput (f : Fields) -- UPUT, R86
  | yield (f : Fields) -- YIELD, R87
  | iadd (f : Fields) -- IADD, R124
  | isub (f : Fields) -- ISUB, R124
  | imul (f : Fields) -- IMUL, R124
  | imulh (f : Fields) -- IMULH, R124
  | imad (f : Fields) -- IMAD, R124
  | imin (f : Fields) -- IMIN, R124
  | imax (f : Fields) -- IMAX, R124
  | iabs (f : Fields) -- IABS, R124
  | ineg (f : Fields) -- INEG, R124
  | iadds (f : Fields) -- IADDS, R124
  | isubs (f : Fields) -- ISUBS, R124
  | andB (f : Fields) -- AND, R125
  | orB (f : Fields) -- OR, R125
  | xorB (f : Fields) -- XOR, R125
  | notB (f : Fields) -- NOT, R125
  | shl (f : Fields) -- SHL, R125
  | shr (f : Fields) -- SHR, R125
  | sar (f : Fields) -- SAR, R125
  | rol (f : Fields) -- ROL, R125
  | popc (f : Fields) -- POPC, R125
  | clz (f : Fields) -- CLZ, R125
  | brev (f : Fields) -- BREV, R125
  | bfx (f : Fields) -- BFX, R126
  | bfi (f : Fields) -- BFI, R126
  | sel (f : Fields) -- SEL, R128
  | icmp (f : Fields) -- ICMP, R127
  | addmin (f : Fields) -- ADDMIN, R132
  | fadd (f : Fields) -- FADD, R129
  | fsub (f : Fields) -- FSUB, R129
  | fmul (f : Fields) -- FMUL, R129
  | ffma (f : Fields) -- FFMA, R129
  | fmin (f : Fields) -- FMIN, R129
  | fmax (f : Fields) -- FMAX, R129
  | fcmp (f : Fields) -- FCMP, R127
  | frcp (f : Fields) -- FRCP, R130
  | frsq (f : Fields) -- FRSQ, R130
  | fexp2 (f : Fields) -- FEXP2, R130
  | flog2 (f : Fields) -- FLOG2, R130
  | fsin (f : Fields) -- FSIN, R130
  | fcos (f : Fields) -- FCOS, R130
  | ftanh (f : Fields) -- FTANH, R130
  | hfma2 (f : Fields) -- HFMA2, R129
  | aadd (f : Fields) -- AADD, R133
  | asub (f : Fields) -- ASUB, R133
  | amul (f : Fields) -- AMUL, R133
  | ashl (f : Fields) -- ASHL, R133
  | amov (f : Fields) -- AMOV, R133
  | mand (f : Fields) -- MAND, R136
  | mor (f : Fields) -- MOR, R136
  | mxor (f : Fields) -- MXOR, R136
  | mnot (f : Fields) -- MNOT, R136
  | mcount (f : Fields) -- MCOUNT, R137
  | many (f : Fields) -- MANY, R137
  | mall (f : Fields) -- MALL, R137
  | mfirst (f : Fields) -- MFIRST, R137
  | cvt (f : Fields) -- CVT, R131
  | vfrom (f : Fields) -- VFROM, R134
  | sfrom (f : Fields) -- SFROM, R135
  | sfromChk (f : Fields) -- SFROM_CHK, R135
  | shfl (f : Fields) -- SHFL, R138
  | shflup (f : Fields) -- SHFLUP, R138
  | shfldn (f : Fields) -- SHFLDN, R138
  | shflx (f : Fields) -- SHFLX, R138
  | qswap (f : Fields) -- QSWAP, R138
  | qbcast (f : Fields) -- QBCAST, R138
  | matchV (f : Fields) -- MATCH, R139
  | vscan (f : Fields) -- VSCAN, R140
  | vred (f : Fields) -- VRED, R140
  | tshape (f : Fields) -- TSHAPE, R147
  | tzero (f : Fields) -- TZERO, R148
  | tload (f : Fields) -- TLOAD, R150
  | tstore (f : Fields) -- TSTORE, R150
  | tzload (f : Fields) -- TZLOAD, R151
  | tzstore (f : Fields) -- TZSTORE, R151
  | tmma (f : Fields) -- TMMA, R154
  | tmmaFb (f : Fields) -- TMMA_FB, R154
  | tzrow (f : Fields) -- TZROW, R156
  | qpack (f : Fields) -- QPACK, R157
  | qunpk (f : Fields) -- QUNPK, R158
  | xsect (f : Fields) -- XSECT, R159
  | nzscan (f : Fields) -- NZSCAN, R160
  | ld (f : Fields) -- LD, R175
  | st (f : Fields) -- ST, R176
  | ldh (f : Fields) -- LDH, R177
  | sth (f : Fields) -- STH, R177
  | stag (f : Fields) -- STAG, R180
  | ltag (f : Fields) -- LTAG, R180
  | waitld (f : Fields) -- WAITLD, R179
  | bcopy (f : Fields) -- BCOPY, R185
  | bcopyR (f : Fields) -- BCOPY_R, R185
  | bcopyS (f : Fields) -- BCOPY_S, R187
  | bstore (f : Fields) -- BSTORE, R188
  | hread (f : Fields) -- HREAD, R190
  | hreadV (f : Fields) -- HREAD_V, R195
  | hret (f : Fields) -- HRET, R194
  | atom (f : Fields) -- ATOM, R205
  | atomh (f : Fields) -- ATOMH, R205
  | fence (f : Fields) -- FENCE, R206
  | bar (f : Fields) -- BAR, R207
  | sbar (f : Fields) -- SBAR, R207
  | waitv (f : Fields) -- WAITV, R209
  | txalloc (f : Fields) -- TXALLOC, R211
  | txexpect (f : Fields) -- TXEXPECT, R211
  | txarrive (f : Fields) -- TXARRIVE, R211
  | txwait (f : Fields) -- TXWAIT, R211
  | txfree (f : Fields) -- TXFREE, R211
  | publ (f : Fields) -- PUBL, R213
  | gnode (f : Fields) -- GNODE, R216
  | gedge (f : Fields) -- GEDGE, R217
  | garm (f : Fields) -- GARM, R217
  | coll (f : Fields) -- COLL, R219
  | collw (f : Fields) -- COLLW, R221
  | trap (f : Fields) -- TRAP, R334
  | sret (f : Fields) -- SRET, R334
  | csrr (f : Fields) -- CSRR, R335
  | csrw (f : Fields) -- CSRW, R335
  | trapvec (f : Fields) -- TRAPVEC, R336
  | mappg (f : Fields) -- MAPPG, R337
  | tlbinv (f : Fields) -- TLBINV, R337
  | mark (f : Fields) -- MARK, R338
  | nopShort (f : ShortFields) -- NOP_SHORT, R63
  | iaddShort (f : ShortFields) -- IADD_SHORT, R50
  | isubShort (f : ShortFields) -- ISUB_SHORT, R50
  | imulShort (f : ShortFields) -- IMUL_SHORT, R50
  | iminShort (f : ShortFields) -- IMIN_SHORT, R50
  | imaxShort (f : ShortFields) -- IMAX_SHORT, R50
  | andShort (f : ShortFields) -- AND_SHORT, R50
  | orShort (f : ShortFields) -- OR_SHORT, R50
  | xorShort (f : ShortFields) -- XOR_SHORT, R50
  | shlShort (f : ShortFields) -- SHL_SHORT, R50
  | shrShort (f : ShortFields) -- SHR_SHORT, R50
  | sarShort (f : ShortFields) -- SAR_SHORT, R50
  | rolShort (f : ShortFields) -- ROL_SHORT, R50
  | iaddsShort (f : ShortFields) -- IADDS_SHORT, R50
  | isubsShort (f : ShortFields) -- ISUBS_SHORT, R50
  | faddShort (f : ShortFields) -- FADD_SHORT, R50
  | fsubShort (f : ShortFields) -- FSUB_SHORT, R50
  | fmulShort (f : ShortFields) -- FMUL_SHORT, R50
  | fminShort (f : ShortFields) -- FMIN_SHORT, R50
  | fmaxShort (f : ShortFields) -- FMAX_SHORT, R50
  | aaddShort (f : ShortFields) -- AADD_SHORT, R50
  | asubShort (f : ShortFields) -- ASUB_SHORT, R50
  | amulShort (f : ShortFields) -- AMUL_SHORT, R50
  | ashlShort (f : ShortFields) -- ASHL_SHORT, R50
  | amovShort (f : ShortFields) -- AMOV_SHORT, R50
  | inegShort (f : ShortFields) -- INEG_SHORT, R50
  | notShort (f : ShortFields) -- NOT_SHORT, R50
  | popcShort (f : ShortFields) -- POPC_SHORT, R50
  | clzShort (f : ShortFields) -- CLZ_SHORT, R50
  | createCtx (e : CmdEntry) -- CREATE_CTX, R375
  | destroyCtx (e : CmdEntry) -- DESTROY_CTX, R375
  | mapPages (e : CmdEntry) -- MAP, R375
  | unmapPages (e : CmdEntry) -- UNMAP, R375
  | loadImage (e : CmdEntry) -- LOAD_IMAGE, R44
  | launch (e : CmdEntry) -- LAUNCH, R377
  | graphSubmit (e : CmdEntry) -- GRAPH_SUBMIT, R375
  | queryDevice (e : CmdEntry) -- QUERY_DEVICE, R375
  | queryFaultRing (e : CmdEntry) -- QUERY_FAULT_RING, R348
  | queryCounters (e : CmdEntry) -- QUERY_COUNTERS, R367
  | querySolderSlots (e : CmdEntry) -- QUERY_SOLDER_SLOTS, R308
  | queryObservation (e : CmdEntry) -- QUERY_OBSERVATION, R359
  | queryCoresched (e : CmdEntry) -- QUERY_CORESCHED, R267
  | queryFenceRefusals (e : CmdEntry) -- QUERY_FENCE_REFUSALS, R303
  | queryLinkPorts (e : CmdEntry) -- QUERY_LINK_PORTS, R380
  | queryContext (e : CmdEntry) -- QUERY_CONTEXT, R274
  | dump (e : CmdEntry) -- DUMP, R353
  | installPatch (e : CmdEntry) -- INSTALL_PATCH, R316
  | attest (e : CmdEntry) -- ATTEST, R307
  | setBudget (e : CmdEntry) -- SET_BUDGET, R267
  | setHandle (e : CmdEntry) -- SET_HANDLE, R301
  | setTag (e : CmdEntry) -- SET_TAG, R300
  | stopCtx (e : CmdEntry) -- STOP, R375
  | observe (e : CmdEntry) -- OBSERVE, R359
  | debugWriteSlots (e : CmdEntry) -- DEBUG_WRITE_SLOTS, R363
  | debugHalt (e : CmdEntry) -- DEBUG_HALT, R365
  | debugResume (e : CmdEntry) -- DEBUG_RESUME, R365
  | debugStep (e : CmdEntry) -- DEBUG_STEP, R365
  | debugFocus (e : CmdEntry) -- DEBUG_FOCUS, R366
  | debugEnd (e : CmdEntry) -- DEBUG_END, R365
  | setComm (e : CmdEntry) -- SET_COMM, R375
  | hostWindow (e : CmdEntry) -- HOST_WINDOW, R375
  | devstatGo (v : Bool) -- DEVSTAT_GO, R384
  | devstatMode (v : Bool) -- DEVSTAT_MODE, R384
  | pwrctlWrite (v : Word) -- PWRCTL_WRITE, R382
  | fenceWindowWrite (port win reg : Nat) (v : Word) -- FENCE_WINDOW_WRITE, R303
  | devnumWrite (v : BitVec 12) -- DEVNUM_WRITE, R379
  | registerWrite (off : Nat) (v : Word) -- REGISTER_WRITE, R372
  | linkTraining (gtsMax : Word) (up : BitVec 12) -- LINK_TRAINING, R383
  | cxlMemAccess (win off : Nat) (wr : Option (BitVec 512)) -- CXL_MEM_ACCESS, R371
  | remoteTransaction (r : Remote) -- REMOTE_TRANSACTION, R380
  | linkFailure (port : Nat) -- LINK_FAILURE, R380
  | softError (e : SoftError) -- SOFT_ERROR, R344
  | waitvReread (tid : Nat) -- WAITV_REREAD, R209
  | sample (core part : Nat) -- SAMPLE, R361
  | budgetLower (core : Nat) -- BUDGET_LOWER, R268
  | budgetRaise (core : Nat) -- BUDGET_RAISE, R268
  | dieOvertemp (die : Nat) -- DIE_OVERTEMP, R381
  | swapOut (team : Nat) -- SWAP_OUT, R272
  | swapOutComplete (team : Nat) -- SWAP_OUT_COMPLETE, R273
  | readmission (team : Nat) -- READMISSION, R275
  | contextTimeslice (core : Nat) -- CONTEXT_TIMESLICE, R397
  | contextSwitch (core : Nat) -- CONTEXT_SWITCH, R350
  | contextRestore (core : Nat) -- CONTEXT_RESTORE, R350
  | handlerInstructionLimit (tid : Nat) -- HANDLER_INSTRUCTION_LIMIT, R193
  | emulationLimit (tid : Nat) -- EMULATION_LIMIT, R311
  | supervisorWatchdog (tid : Nat) -- SUPERVISOR_WATCHDOG, R340
  | starvationGuard (core part : Nat) -- STARVATION_GUARD, R269
  | placeTeam (die : Nat) -- PLACE_TEAM, R260
  | placeSpan (die : Nat) -- PLACE_SPAN, R260
  | loadDataReturn (tid : Nat) -- LOAD_DATA_RETURN, R179
  | resultWriteback (tid : Nat) -- RESULT_WRITEBACK, R57
  | storePerform (tid : Nat) -- STORE_PERFORM, R172
  | engineCommandStart (cmd : Nat) -- ENGINE_COMMAND_START, R181
  | copySectorPerform (cmd : Nat) -- COPY_SECTOR_PERFORM, R185
  | engineCompletionArrival (cmd : Nat) -- ENGINE_COMPLETION_ARRIVAL, R211
  | engineFault (cmd : Nat) -- ENGINE_FAULT, R189
  | hailBurstRequest (cmd : Nat) -- HAIL_BURST_REQUEST, R190
  | hailBurstReturn (cmd burst : Nat) -- HAIL_BURST_RETURN, R190
  | hailThreadBirth (core : Nat) -- HAIL_THREAD_BIRTH, R192
  | graphNodeFinish (die slot : Nat) -- GRAPH_NODE_FINISH, R218
  | collCompletion (coll : Nat) (order : List Nat) -- COLL_COMPLETION, R220
  | groupSlotFree (tid : Nat) -- GROUP_SLOT_FREE, R88
  | asyncTrapDelivery (tid : Nat) -- ASYNC_TRAP_DELIVERY, R323
  | arithmeticClockRise (die : Nat) -- ARITHMETIC_CLOCK_RISE, R381
  | hubFirstTouchService (cmd : Nat) -- HUB_FIRST_TOUCH_SERVICE, R342
  | deviceReset -- DEVICE_RESET, R383
  | powerThrottle -- POWER_THROTTLE, R381
  | thermalTrip -- THERMAL_TRIP, R381
  | slotUpdatePoint -- SLOT_UPDATE_POINT, R312
  deriving DecidableEq, Repr

end Sys2Proof
end

