-- ==== Sys2Proof/Machine/Encoding.lean ====
section
/-! DEFINITION. The encoding tables of spec/ (03 R46-R64, 04 R77, 07 R123, 08 R146, 09 R174, 10 R201,
17 R333): for each long opcode a row that says what each field may hold, the opcode maps, and the
checks of steps 3 to 7 of R64 with their causes. -/

namespace Sys2Proof

/-- The element types a row accepts. -/
inductive TySet where
  | zero                       -- the row carries no element type
  | only (ts : List Nat)
  | int                        -- 07 R123 "Int"
  | signed                     -- the `.i` types of "Int"
  | flt                        -- 07 R123 "Flt"
  | intFlt
  | ld                         -- 09 R174 "Ld"
  | cvt | vscan | vred | atom
  deriving DecidableEq, Repr

/-- What a row keeps in the field RS (03 R52, 07 R122). -/
inductive RsUse where
  | zero | rnd | rndSr | rndFlt | rndFltAdd | cvt | scope | scopeHail | cond6 | cond8 | vmask
  deriving DecidableEq, Repr

/-- What a row keeps in the overflow field OV (07 R123). -/
inductive OvUse where
  | zero | one | any | intOnly | cvt | intAdd
  deriving DecidableEq, Repr

/-- What a row keeps in the destination field D. -/
inductive DstUse where
  | zero                       -- no register
  | file                       -- a register of the file FC names
  | mask                       -- a mask, never m0
  | maskCond                   -- a mask under `.vary`, a condition under `.uni`
  | cond | sReg | shape | tile | acc | tileAcc | handle
  | acc2                       -- an accumulator and the next
  | data                       -- the data register of a store; its kind stands in CK
  | count8                     -- BSTORE's count
  | tileBlock                  -- tile number in [2:0], block in [3]
  | zrow                       -- TZROW
  deriving DecidableEq, Repr

/-- What a row keeps in a source field (A with AK, B with BK, C with CK). -/
inductive SrcUse where
  | none
  | regs (ks : List Nat)       -- a register of one of these kinds
  | regsImm (ks : List Nat)    -- or an immediate, kind 0b11
  | unImm (ks : List Nat)      -- A of a unary instruction: or the immediate mark (R121)
  | unB                        -- B of such an instruction
  | base (ks : List Nat)       -- memory base; kind 0b11 a handle if listed
  | index (ks : List Nat)      -- memory index, or absent
  | off                        -- memory offset
  | offData                    -- memory offset; CK is the data kind
  | disp                       -- branch displacement
  | cnt (lo hi : Nat)          -- an unsigned count in [63:50]
  | cntReg (lo hi : Nat)       -- such a count, or an `s` register
  | mask | cond | maskCond | tile | acc | handle
  | code (hi : Nat)            -- an entry-defined code of at most `hi`
  | brcCond | classes | tileBlock | zrowA | zrowB | seed | icmpCode | acc2
  | first8                     -- the first of eight `s` registers
  deriving DecidableEq, Repr

/-- Lanes an instruction acts on (03 R56). -/
inductive LaneUse where
  | never | vary | varyAff | always
  deriving DecidableEq, Repr

/-- The formats a row exists in. -/
inductive FormUse where
  | long | ext | both | immExt  -- `immExt`: extended only when the operand is an immediate
  deriving DecidableEq, Repr

/-- One row of the encoding tables. -/
structure Row where
  ll : Bool := false
  form : FormUse := .long
  fcs : List Nat := [0]
  ty : TySet := .zero
  ov : OvUse := .zero
  rs : RsUse := .zero
  mo : List Nat := [0]
  d : DstUse := .zero
  a : SrcUse := .none
  b : SrcUse := .none
  c : SrcUse := .none
  lanes : LaneUse := .never
  /-- source kinds above FC are accepted (R55) -/
  above : Bool := false
  deriving DecidableEq, Repr

/-- A register named by an instruction (01 R19). -/
inductive RegName where
  | s (n : Nat) | a (n : Nat) | v (n : Nat) | m (n : Nat) | c (n : Nat)
  | t (n : Nat) | shape (n : Nat) | z (n : Nat) | h (n : Nat) | fpstat
  deriving DecidableEq, Repr

/-- The binary integer rows of 07 R123: `s a v` and `s a v i`. -/
def rowBin (ty : TySet) (ov : OvUse) : Row :=
  { form := .immExt, fcs := [0, 2], ty := ty, ov := ov, d := .file, a := .regs [0, 1, 2],
    b := .regsImm [0, 1, 2], lanes := .vary }
/-- The unary rows of 07 R123 that take an immediate. -/
def rowUn (ty : TySet) (ov : OvUse) : Row :=
  { form := .immExt, fcs := [0, 2], ty := ty, ov := ov, d := .file, a := .unImm [0, 1, 2],
    b := .unB, lanes := .vary }
/-- The three-source rows of 07 R123. -/
def rowTri (ty : TySet) (ov : OvUse) (rs : RsUse) : Row :=
  { fcs := [0, 2], ty := ty, ov := ov, rs := rs, d := .file, a := .regs [0, 1, 2],
    b := .regs [0, 1, 2], c := .regs [0, 1, 2], lanes := .vary }
/-- The affine rows of 07 R123. -/
def rowAff (kb : List Nat) : Row :=
  { form := .immExt, fcs := [1], ty := .only [3], d := .file, a := .regs [0, 1], b := .regsImm kb }
/-- Cross-lane rows of 07 R123. -/
def rowShfl (b : SrcUse) : Row :=
  { form := .immExt, fcs := [2], d := .file, a := .regs [0, 1, 2], b := b, rs := .vmask, lanes := .vary }
/-- Tile transfers (08 R146). -/
def rowTile (ll : Bool) (d : DstUse) (mo : List Nat) : Row :=
  { ll := ll, form := .both, fcs := [2], d := d, a := .base [0, 3], b := .index [0], c := .off,
    mo := mo, rs := .scope, lanes := .always }
/-- A control instruction with a displacement (04 R77). -/
def rowDisp (d : DstUse) (a : SrcUse) : Row := { form := .both, d := d, a := a, b := .disp, above := true }

/-- The row of a long opcode, `none` for a reserved opcode (03 R61): the tables of 04 R77, 07 R123, 08 R146, 09 R174, 10 R201 and,
for the system range 0xE0-0xE7, 17 R333. -/
def rowOf (op : Nat) : Option Row :=
  match op with
  | 0x00 => some {}
  | 0x01 => some (rowDisp .zero .none)
  | 0x02 => some (rowDisp .zero .brcCond)
  | 0x03 => some (rowDisp .sReg .none)
  | 0x04 => some { a := .regs [0], b := .cnt 1 8191 }
  | 0x05 => some (rowDisp .zero .none)
  | 0x06 => some { a := .regs [0] }
  | 0x07 => some {}
  | 0x08 => some { form := .ext, fcs := [2], a := .regs [2], b := .regs [0], c := .regs [1] }
  | 0x09 | 0x0A => some (rowDisp .sReg (.regs [0, 1, 2]))
  | 0x0B => some (rowDisp .sReg .mask)
  | 0x0C => some {}
  | 0x0D => some { b := .cnt 0 15, lanes := .always }
  | 0x0E => some { lanes := .always }
  | 0x0F => some { form := .immExt, ty := .only [3], d := .sReg, b := .regsImm [0] }
  | 0x10 => some {}
  | 0x20 | 0x21 => some (rowBin .int .zero)
  | 0x22 => some (rowBin .int .any)
  | 0x23 => some (rowBin .int .zero)
  | 0x24 => some (rowTri .int .any .zero)
  | 0x25 | 0x26 => some (rowBin .int .zero)
  | 0x27 | 0x28 => some (rowUn .signed .any)
  | 0x29 | 0x2A => some (rowBin .int .one)
  | 0x2B | 0x2C | 0x2D => some (rowBin .int .zero)
  | 0x2E => some (rowUn .int .zero)
  | 0x2F | 0x30 | 0x31 | 0x32 => some (rowBin .int .zero)
  | 0x33 | 0x34 | 0x35 =>
      some { fcs := [0, 2], ty := .int, d := .file, a := .regs [0, 1, 2], lanes := .vary }
  | 0x36 => some (rowBin .int .zero)
  | 0x37 => some (rowTri .int .zero .zero)
  | 0x38 => some { rowTri .zero .zero .zero with c := .maskCond }
  | 0x39 => some { rowBin .int .zero with d := .maskCond, rs := .cond6 }
  | 0x3A => some (rowTri .intFlt .intOnly .rndFlt)
  | 0x40 | 0x41 | 0x42 => some { rowBin .flt .zero with rs := .rnd }
  | 0x43 => some (rowTri .flt .zero .rnd)
  | 0x44 | 0x45 => some (rowBin .flt .zero)
  | 0x46 => some { rowBin .flt .zero with d := .maskCond, rs := .cond8 }
  | 0x47 | 0x48 | 0x49 | 0x4A | 0x4B | 0x4C | 0x4D =>
      some { rowUn (.only [8]) .zero with ll := true, rs := .rnd }
  | 0x4E => some (rowTri (.only [9, 10]) .zero .rnd)
  | 0x50 | 0x51 => some (rowAff [0, 1])
  | 0x52 | 0x53 => some (rowAff [0])
  | 0x54 => some { rowAff [] with a := .unImm [0, 1], b := .unB }
  | 0x58 | 0x59 | 0x5A => some { fcs := [2], d := .mask, a := .mask, b := .mask, lanes := .vary }
  | 0x5B => some { fcs := [2], d := .mask, a := .mask, lanes := .vary }
  | 0x5C | 0x5F => some { d := .sReg, a := .mask }
  | 0x5D | 0x5E => some { d := .cond, a := .mask }
  | 0x60 => some { fcs := [0, 2], ty := .cvt, ov := .cvt, rs := .cvt, d := .file,
                   a := .regs [0, 1, 2], b := .code 13, c := .seed, lanes := .vary }
  | 0x61 => some { form := .immExt, fcs := [2], ty := .only [2], d := .file, a := .regs [0, 1],
                   b := .cnt 0 1, lanes := .vary }
  | 0x62 | 0x63 => some { ty := .only [3, 7], d := .sReg, a := .regs [1, 2], above := true }
  | 0x68 => some (rowShfl (.regsImm [0, 1, 2]))
  | 0x69 | 0x6A | 0x6B => some (rowShfl (.regsImm [0]))
  | 0x6C => some (rowShfl (.cnt 1 3))
  | 0x6D => some (rowShfl (.cnt 0 3))
  | 0x6E => some { ll := true, fcs := [2], ty := .only [2], d := .file, a := .regs [2], rs := .vmask,
                   lanes := .vary }
  | 0x6F => some { ll := true, fcs := [2], ty := .vscan, ov := .intAdd, rs := .rndFltAdd, d := .file,
                   a := .regs [0, 1, 2], b := .code 5, lanes := .vary }
  | 0x70 => some { ll := true, fcs := [0, 2], ty := .vred, ov := .intAdd, rs := .rndFltAdd, d := .file,
                   a := .regs [2], b := .code 5, lanes := .vary, above := true }
  | 0x80 => some { form := .immExt, d := .shape, b := .regsImm [0] }
  | 0x81 => some { fcs := [2], d := .tileAcc, b := .code 1, lanes := .always }
  | 0x82 => some (rowTile true .tile [0, 1])
  | 0x83 => some (rowTile false .tile [0, 2])
  | 0x84 => some (rowTile true .acc [0, 1])
  | 0x85 => some (rowTile false .acc [0, 2])
  | 0x86 => some { ll := true, fcs := [2], d := .acc, a := .tile, b := .tile, lanes := .always }
  | 0x87 => some { ll := true, fcs := [2], d := .acc, a := .tile, b := .tile, c := .regs [2],
                   lanes := .always }
  | 0x88 => some { form := .immExt, fcs := [2], d := .zrow, a := .zrowA, b := .zrowB, lanes := .always }
  | 0x89 => some { fcs := [2], d := .tileBlock, a := .acc2, b := .regs [2], c := .seed, rs := .rndSr,
                   lanes := .always }
  | 0x8A => some { fcs := [2], d := .acc2, a := .tileBlock, b := .regs [2], lanes := .always }
  | 0x90 => some { ll := true, fcs := [2], d := .file, a := .regs [2], b := .regs [2], rs := .vmask,
                   lanes := .vary }
  | 0x91 => some { ll := true, fcs := [2], ty := .only [2, 6, 8, 9, 10], d := .file, a := .regs [2],
                   rs := .vmask, lanes := .vary }
  | 0xA0 => some { ll := true, form := .both, fcs := [0, 1, 2], ty := .ld, d := .file,
                   a := .base [0, 1], b := .index [0, 1, 2], c := .off, mo := [0, 1], rs := .scope,
                   lanes := .vary }
  | 0xA1 => some { form := .both, fcs := [0, 1, 2], ty := .ld, d := .data, a := .base [0, 1],
                   b := .index [0, 1, 2], c := .offData, mo := [0, 2], rs := .scope, lanes := .varyAff }
  | 0xA2 => some { ll := true, form := .both, fcs := [0, 2], ty := .ld, d := .file, a := .base [3],
                   b := .index [0, 1, 2], c := .off, mo := [0, 1], rs := .scope, lanes := .vary }
  | 0xA3 => some { form := .both, fcs := [0, 2], ty := .ld, d := .data, a := .base [3],
                   b := .index [0, 1, 2], c := .offData, mo := [0, 2], rs := .scope, lanes := .varyAff }
  | 0xA4 => some { form := .both, fcs := [0, 1, 2], a := .base [0, 1, 3], b := .index [0, 1, 2],
                   c := .off, mo := [0, 2], rs := .scope, lanes := .varyAff }
  | 0xA5 => some { ll := true, form := .both, fcs := [0, 2], d := .file, a := .base [0, 1, 3],
                   b := .index [0, 1, 2], c := .off, mo := [0, 1], rs := .scope, lanes := .vary }
  | 0xA6 => some { b := .cnt 0 63 }
  | 0xA8 => some { d := .sReg, a := .regs [0], b := .regs [0], c := .regs [0], rs := .scope }
  | 0xA9 => some { d := .sReg, a := .regs [0], b := .first8, c := .regs [0], rs := .scope }
  | 0xAA => some { d := .handle, a := .regs [0], b := .regs [0], c := .regs [0], rs := .scope }
  | 0xAB => some { form := .both, fcs := [2], ty := .only [0, 1, 2, 4, 5, 6, 8, 9, 10, 11, 12, 13],
                   d := .count8, a := .base [0, 3], b := .regs [2], c := .regs [0], rs := .scope,
                   lanes := .always }
  | 0xAC => some { form := .ext, d := .sReg, a := .base [0, 3], b := .regs [0], c := .regs [0],
                   rs := .scopeHail }
  | 0xAD => some { form := .ext, fcs := [2], d := .sReg, a := .base [0, 3], b := .regs [2],
                   c := .regs [0], rs := .scopeHail, lanes := .always }
  | 0xAE => some {}
  | 0xC0 => some { ll := true, form := .ext, fcs := [0, 2], ty := .atom, d := .file, a := .base [0, 1],
                   b := .index [0, 1, 2], c := .regs [0, 1, 2], mo := [0, 1, 2, 3], rs := .scope,
                   lanes := .vary }
  | 0xC1 => some { ll := true, form := .ext, fcs := [0, 2], ty := .atom, d := .file, a := .base [3],
                   b := .index [0, 1, 2], c := .regs [0, 1, 2], mo := [0, 1, 2, 3], rs := .scope,
                   lanes := .vary }
  | 0xC2 => some { mo := [1, 2, 3], rs := .scope }
  | 0xC3 => some { b := .cnt 0 15 }
  | 0xC4 => some { b := .cnt 0 3 }
  | 0xC5 => some { ty := .only [2, 6, 3, 7], a := .regs [0], b := .regs [0], c := .icmpCode,
                   mo := [0, 1], rs := .scope }
  | 0xC6 => some { d := .sReg, c := .cond }
  | 0xC7 => some { a := .regs [0], b := .cntReg 1 16383 }
  | 0xC8 => some { a := .regs [0], b := .cntReg 1 16383, rs := .scope }
  | 0xC9 => some { a := .regs [0], rs := .scope }
  | 0xCA => some { a := .regs [0] }
  | 0xCB => some { a := .handle, rs := .scope }
  | 0xD0 => some { d := .sReg, a := .regs [0], c := .cond }
  | 0xD1 => some { a := .regs [0], b := .regs [0], c := .cond }
  | 0xD2 => some { a := .regs [0] }
  | 0xD4 => some { d := .sReg, a := .regs [0], b := .regs [0], c := .cond }
  | 0xD5 => some { d := .sReg, a := .regs [0], c := .cond }
  | 0xE0 => some { b := .cnt 0 16383 }
  | 0xE1 => some { b := .cnt 0 16383 }
  | 0xE2 => some { d := .sReg, b := .cnt 0 0xFFF }
  | 0xE3 => some { a := .regs [0], b := .cnt 0 0xFFF }
  | 0xE4 => some { form := .both, a := .classes, b := .disp }
  | 0xE5 => some { a := .regs [0], c := .cond }
  | 0xE6 => some { a := .regs [0], b := .cnt 0 1 }
  | 0xE7 => some { a := .regs [0], b := .cnt 0 16383 }
  | _ => none

/-- The long opcode map (03 R61): the instruction that an opcode names. -/
def longInstr (op : Nat) (f : Fields) : Option Instr :=
  match op with
  | 0x00 => some (.nop f)
  | 0x01 => some (.bra f)
  | 0x02 => some (.brc f)
  | 0x03 => some (.loop f)
  | 0x04 => some (.jtab f)
  | 0x05 => some (.call f)
  | 0x06 => some (.calli f)
  | 0x07 => some (.ret f)
  | 0x08 => some (.enter f)
  | 0x09 => some (.classFirst f)
  | 0x0A => some (.classAsc f)
  | 0x0B => some (.classM f)
  | 0x0C => some (.nextc f)
  | 0x0D => some (.leave f)
  | 0x0E => some (.exit f)
  | 0x0F => some (.uput f)
  | 0x10 => some (.yield f)
  | 0x20 => some (.iadd f)
  | 0x21 => some (.isub f)
  | 0x22 => some (.imul f)
  | 0x23 => some (.imulh f)
  | 0x24 => some (.imad f)
  | 0x25 => some (.imin f)
  | 0x26 => some (.imax f)
  | 0x27 => some (.iabs f)
  | 0x28 => some (.ineg f)
  | 0x29 => some (.iadds f)
  | 0x2A => some (.isubs f)
  | 0x2B => some (.andB f)
  | 0x2C => some (.orB f)
  | 0x2D => some (.xorB f)
  | 0x2E => some (.notB f)
  | 0x2F => some (.shl f)
  | 0x30 => some (.shr f)
  | 0x31 => some (.sar f)
  | 0x32 => some (.rol f)
  | 0x33 => some (.popc f)
  | 0x34 => some (.clz f)
  | 0x35 => some (.brev f)
  | 0x36 => some (.bfx f)
  | 0x37 => some (.bfi f)
  | 0x38 => some (.sel f)
  | 0x39 => some (.icmp f)
  | 0x3A => some (.addmin f)
  | 0x40 => some (.fadd f)
  | 0x41 => some (.fsub f)
  | 0x42 => some (.fmul f)
  | 0x43 => some (.ffma f)
  | 0x44 => some (.fmin f)
  | 0x45 => some (.fmax f)
  | 0x46 => some (.fcmp f)
  | 0x47 => some (.frcp f)
  | 0x48 => some (.frsq f)
  | 0x49 => some (.fexp2 f)
  | 0x4A => some (.flog2 f)
  | 0x4B => some (.fsin f)
  | 0x4C => some (.fcos f)
  | 0x4D => some (.ftanh f)
  | 0x4E => some (.hfma2 f)
  | 0x50 => some (.aadd f)
  | 0x51 => some (.asub f)
  | 0x52 => some (.amul f)
  | 0x53 => some (.ashl f)
  | 0x54 => some (.amov f)
  | 0x58 => some (.mand f)
  | 0x59 => some (.mor f)
  | 0x5A => some (.mxor f)
  | 0x5B => some (.mnot f)
  | 0x5C => some (.mcount f)
  | 0x5D => some (.many f)
  | 0x5E => some (.mall f)
  | 0x5F => some (.mfirst f)
  | 0x60 => some (.cvt f)
  | 0x61 => some (.vfrom f)
  | 0x62 => some (.sfrom f)
  | 0x63 => some (.sfromChk f)
  | 0x68 => some (.shfl f)
  | 0x69 => some (.shflup f)
  | 0x6A => some (.shfldn f)
  | 0x6B => some (.shflx f)
  | 0x6C => some (.qswap f)
  | 0x6D => some (.qbcast f)
  | 0x6E => some (.matchV f)
  | 0x6F => some (.vscan f)
  | 0x70 => some (.vred f)
  | 0x80 => some (.tshape f)
  | 0x81 => some (.tzero f)
  | 0x82 => some (.tload f)
  | 0x83 => some (.tstore f)
  | 0x84 => some (.tzload f)
  | 0x85 => some (.tzstore f)
  | 0x86 => some (.tmma f)
  | 0x87 => some (.tmmaFb f)
  | 0x88 => some (.tzrow f)
  | 0x89 => some (.qpack f)
  | 0x8A => some (.qunpk f)
  | 0x90 => some (.xsect f)
  | 0x91 => some (.nzscan f)
  | 0xA0 => some (.ld f)
  | 0xA1 => some (.st f)
  | 0xA2 => some (.ldh f)
  | 0xA3 => some (.sth f)
  | 0xA4 => some (.stag f)
  | 0xA5 => some (.ltag f)
  | 0xA6 => some (.waitld f)
  | 0xA8 => some (.bcopy f)
  | 0xA9 => some (.bcopyR f)
  | 0xAA => some (.bcopyS f)
  | 0xAB => some (.bstore f)
  | 0xAC => some (.hread f)
  | 0xAD => some (.hreadV f)
  | 0xAE => some (.hret f)
  | 0xC0 => some (.atom f)
  | 0xC1 => some (.atomh f)
  | 0xC2 => some (.fence f)
  | 0xC3 => some (.bar f)
  | 0xC4 => some (.sbar f)
  | 0xC5 => some (.waitv f)
  | 0xC6 => some (.txalloc f)
  | 0xC7 => some (.txexpect f)
  | 0xC8 => some (.txarrive f)
  | 0xC9 => some (.txwait f)
  | 0xCA => some (.txfree f)
  | 0xCB => some (.publ f)
  | 0xD0 => some (.gnode f)
  | 0xD1 => some (.gedge f)
  | 0xD2 => some (.garm f)
  | 0xD4 => some (.coll f)
  | 0xD5 => some (.collw f)
  | 0xE0 => some (.trap f)
  | 0xE1 => some (.sret f)
  | 0xE2 => some (.csrr f)
  | 0xE3 => some (.csrw f)
  | 0xE4 => some (.trapvec f)
  | 0xE5 => some (.mappg f)
  | 0xE6 => some (.tlbinv f)
  | 0xE7 => some (.mark f)
  | _ => none

/-- The opcode and fields of a long or extended instruction (03 R61). -/
def longOf (i : Instr) : Option (Nat × Fields) :=
  match i with
  | .nop f => some (0x00, f)
  | .bra f => some (0x01, f)
  | .brc f => some (0x02, f)
  | .loop f => some (0x03, f)
  | .jtab f => some (0x04, f)
  | .call f => some (0x05, f)
  | .calli f => some (0x06, f)
  | .ret f => some (0x07, f)
  | .enter f => some (0x08, f)
  | .classFirst f => some (0x09, f)
  | .classAsc f => some (0x0A, f)
  | .classM f => some (0x0B, f)
  | .nextc f => some (0x0C, f)
  | .leave f => some (0x0D, f)
  | .exit f => some (0x0E, f)
  | .uput f => some (0x0F, f)
  | .yield f => some (0x10, f)
  | .iadd f => some (0x20, f)
  | .isub f => some (0x21, f)
  | .imul f => some (0x22, f)
  | .imulh f => some (0x23, f)
  | .imad f => some (0x24, f)
  | .imin f => some (0x25, f)
  | .imax f => some (0x26, f)
  | .iabs f => some (0x27, f)
  | .ineg f => some (0x28, f)
  | .iadds f => some (0x29, f)
  | .isubs f => some (0x2A, f)
  | .andB f => some (0x2B, f)
  | .orB f => some (0x2C, f)
  | .xorB f => some (0x2D, f)
  | .notB f => some (0x2E, f)
  | .shl f => some (0x2F, f)
  | .shr f => some (0x30, f)
  | .sar f => some (0x31, f)
  | .rol f => some (0x32, f)
  | .popc f => some (0x33, f)
  | .clz f => some (0x34, f)
  | .brev f => some (0x35, f)
  | .bfx f => some (0x36, f)
  | .bfi f => some (0x37, f)
  | .sel f => some (0x38, f)
  | .icmp f => some (0x39, f)
  | .addmin f => some (0x3A, f)
  | .fadd f => some (0x40, f)
  | .fsub f => some (0x41, f)
  | .fmul f => some (0x42, f)
  | .ffma f => some (0x43, f)
  | .fmin f => some (0x44, f)
  | .fmax f => some (0x45, f)
  | .fcmp f => some (0x46, f)
  | .frcp f => some (0x47, f)
  | .frsq f => some (0x48, f)
  | .fexp2 f => some (0x49, f)
  | .flog2 f => some (0x4A, f)
  | .fsin f => some (0x4B, f)
  | .fcos f => some (0x4C, f)
  | .ftanh f => some (0x4D, f)
  | .hfma2 f => some (0x4E, f)
  | .aadd f => some (0x50, f)
  | .asub f => some (0x51, f)
  | .amul f => some (0x52, f)
  | .ashl f => some (0x53, f)
  | .amov f => some (0x54, f)
  | .mand f => some (0x58, f)
  | .mor f => some (0x59, f)
  | .mxor f => some (0x5A, f)
  | .mnot f => some (0x5B, f)
  | .mcount f => some (0x5C, f)
  | .many f => some (0x5D, f)
  | .mall f => some (0x5E, f)
  | .mfirst f => some (0x5F, f)
  | .cvt f => some (0x60, f)
  | .vfrom f => some (0x61, f)
  | .sfrom f => some (0x62, f)
  | .sfromChk f => some (0x63, f)
  | .shfl f => some (0x68, f)
  | .shflup f => some (0x69, f)
  | .shfldn f => some (0x6A, f)
  | .shflx f => some (0x6B, f)
  | .qswap f => some (0x6C, f)
  | .qbcast f => some (0x6D, f)
  | .matchV f => some (0x6E, f)
  | .vscan f => some (0x6F, f)
  | .vred f => some (0x70, f)
  | .tshape f => some (0x80, f)
  | .tzero f => some (0x81, f)
  | .tload f => some (0x82, f)
  | .tstore f => some (0x83, f)
  | .tzload f => some (0x84, f)
  | .tzstore f => some (0x85, f)
  | .tmma f => some (0x86, f)
  | .tmmaFb f => some (0x87, f)
  | .tzrow f => some (0x88, f)
  | .qpack f => some (0x89, f)
  | .qunpk f => some (0x8A, f)
  | .xsect f => some (0x90, f)
  | .nzscan f => some (0x91, f)
  | .ld f => some (0xA0, f)
  | .st f => some (0xA1, f)
  | .ldh f => some (0xA2, f)
  | .sth f => some (0xA3, f)
  | .stag f => some (0xA4, f)
  | .ltag f => some (0xA5, f)
  | .waitld f => some (0xA6, f)
  | .bcopy f => some (0xA8, f)
  | .bcopyR f => some (0xA9, f)
  | .bcopyS f => some (0xAA, f)
  | .bstore f => some (0xAB, f)
  | .hread f => some (0xAC, f)
  | .hreadV f => some (0xAD, f)
  | .hret f => some (0xAE, f)
  | .atom f => some (0xC0, f)
  | .atomh f => some (0xC1, f)
  | .fence f => some (0xC2, f)
  | .bar f => some (0xC3, f)
  | .sbar f => some (0xC4, f)
  | .waitv f => some (0xC5, f)
  | .txalloc f => some (0xC6, f)
  | .txexpect f => some (0xC7, f)
  | .txarrive f => some (0xC8, f)
  | .txwait f => some (0xC9, f)
  | .txfree f => some (0xCA, f)
  | .publ f => some (0xCB, f)
  | .gnode f => some (0xD0, f)
  | .gedge f => some (0xD1, f)
  | .garm f => some (0xD2, f)
  | .coll f => some (0xD4, f)
  | .collw f => some (0xD5, f)
  | .trap f => some (0xE0, f)
  | .sret f => some (0xE1, f)
  | .csrr f => some (0xE2, f)
  | .csrw f => some (0xE3, f)
  | .trapvec f => some (0xE4, f)
  | .mappg f => some (0xE5, f)
  | .tlbinv f => some (0xE6, f)
  | .mark f => some (0xE7, f)
  | _ => none

/-- The short opcode map (03 R51). -/
def shortInstr (sop : Nat) (f : ShortFields) : Option Instr :=
  match sop with
  | 0x00 => some (.nopShort f)
  | 0x01 => some (.iaddShort f)
  | 0x02 => some (.isubShort f)
  | 0x03 => some (.imulShort f)
  | 0x04 => some (.iminShort f)
  | 0x05 => some (.imaxShort f)
  | 0x06 => some (.andShort f)
  | 0x07 => some (.orShort f)
  | 0x08 => some (.xorShort f)
  | 0x09 => some (.shlShort f)
  | 0x0A => some (.shrShort f)
  | 0x0B => some (.sarShort f)
  | 0x0C => some (.rolShort f)
  | 0x0D => some (.iaddsShort f)
  | 0x0E => some (.isubsShort f)
  | 0x0F => some (.faddShort f)
  | 0x10 => some (.fsubShort f)
  | 0x11 => some (.fmulShort f)
  | 0x12 => some (.fminShort f)
  | 0x13 => some (.fmaxShort f)
  | 0x14 => some (.aaddShort f)
  | 0x15 => some (.asubShort f)
  | 0x16 => some (.amulShort f)
  | 0x17 => some (.ashlShort f)
  | 0x18 => some (.amovShort f)
  | 0x19 => some (.inegShort f)
  | 0x1A => some (.notShort f)
  | 0x1B => some (.popcShort f)
  | 0x1C => some (.clzShort f)
  | _ => none

/-- The opcode and fields of a short instruction (03 R51). -/
def shortOf (i : Instr) : Option (Nat × ShortFields) :=
  match i with
  | .nopShort f => some (0x00, f)
  | .iaddShort f => some (0x01, f)
  | .isubShort f => some (0x02, f)
  | .imulShort f => some (0x03, f)
  | .iminShort f => some (0x04, f)
  | .imaxShort f => some (0x05, f)
  | .andShort f => some (0x06, f)
  | .orShort f => some (0x07, f)
  | .xorShort f => some (0x08, f)
  | .shlShort f => some (0x09, f)
  | .shrShort f => some (0x0A, f)
  | .sarShort f => some (0x0B, f)
  | .rolShort f => some (0x0C, f)
  | .iaddsShort f => some (0x0D, f)
  | .isubsShort f => some (0x0E, f)
  | .faddShort f => some (0x0F, f)
  | .fsubShort f => some (0x10, f)
  | .fmulShort f => some (0x11, f)
  | .fminShort f => some (0x12, f)
  | .fmaxShort f => some (0x13, f)
  | .aaddShort f => some (0x14, f)
  | .asubShort f => some (0x15, f)
  | .amulShort f => some (0x16, f)
  | .ashlShort f => some (0x17, f)
  | .amovShort f => some (0x18, f)
  | .inegShort f => some (0x19, f)
  | .notShort f => some (0x1A, f)
  | .popcShort f => some (0x1B, f)
  | .clzShort f => some (0x1C, f)
  | _ => none

/-- The long opcode of the instruction a short opcode performs (03 R50). -/
def shortLongOp (sop : Nat) : Nat :=
  match sop with
  | 0x00 => 0x00
  | 0x01 => 0x20
  | 0x02 => 0x21
  | 0x03 => 0x22
  | 0x04 => 0x25
  | 0x05 => 0x26
  | 0x06 => 0x2B
  | 0x07 => 0x2C
  | 0x08 => 0x2D
  | 0x09 => 0x2F
  | 0x0A => 0x30
  | 0x0B => 0x31
  | 0x0C => 0x32
  | 0x0D => 0x29
  | 0x0E => 0x2A
  | 0x0F => 0x40
  | 0x10 => 0x41
  | 0x11 => 0x42
  | 0x12 => 0x44
  | 0x13 => 0x45
  | 0x14 => 0x50
  | 0x15 => 0x51
  | 0x16 => 0x52
  | 0x17 => 0x53
  | 0x18 => 0x54
  | 0x19 => 0x28
  | 0x1A => 0x2E
  | 0x1B => 0x33
  | 0x1C => 0x34
  | _ => 0

/-- The row of an instruction's opcode, the empty row when there is none. -/
def rowOf! (op : Nat) : Row := (rowOf op).getD {}

/-- Element size in bytes of an ET code (03 R53); 1 for `.q4x` (R54). -/
def etBytes (et : Nat) : Nat :=
  match et with
  | 0 | 4 | 11 | 12 | 13 => 1
  | 1 | 5 | 9 | 10 => 2
  | 2 | 6 | 8 => 4
  | 3 | 7 => 8
  | _ => 1

/-- Whether an ET code is one of the eight integer types. -/
def etIsInt (et : Nat) : Bool := et < 8
/-- Whether an integer ET code is signed. -/
def etSigned (et : Nat) : Bool := et < 4
/-- Whether an ET code is a floating-point type other than E8M0. -/
def etIsFlt (et : Nat) : Bool := [8, 9, 10, 11, 12].contains et
/-- Whether an ET code is one of `.f32 .f16 .bf16`. -/
def etIsFlt3 (et : Nat) : Bool := [8, 9, 10].contains et

/-- "Int" of 07 R123, and R99: the 64-bit types only where FC is not `.vary`. -/
def tyInt (et fc : Nat) : Bool := etIsInt et && !((et == 3 || et == 7) && fc == 2)

/-- The value field [63:50] that spans B and C (03 R54). -/
def Fields.imm14 (f : Fields) : BitVec 14 := f.c ++ f.b

/-- Whether the instruction's immediate operand stands in [63:50] or the literal. -/
def usesImm (r : Row) (f : Fields) : Bool :=
  match r.b with
  | .regsImm _ | .cntReg _ _ => f.bk == 3
  | .unB => f.ak == 3
  | .cnt _ _ | .disp | .zrowB => true
  | _ => false

/-- Length in parcels of a long or extended instruction (03 R47). -/
def Fields.parcels (f : Fields) : Nat := if f.ext then 3 else 2

/-- The unsigned value of an immediate that counts or codes: [63:50], or the literal. -/
def Fields.uimm (f : Fields) : Nat := if f.ext then f.lit.toNat else f.imm14.toNat

/-- The source type of `CVT` (07 R122). -/
def Fields.cvtSrc (f : Fields) : Nat := f.b.toNat

/-- Accepted pairs of types of `CVT` (07 R131): destination ET, source type, file class. -/
def cvtTypes (dst src fc : Nat) : Bool :=
  dst != 14 && dst < 15 && src < 14 && (tyInt dst fc || dst > 7) && (tyInt src fc || src > 7) &&
  !(dst == 13 && etIsInt src) && !(src == 13 && etIsInt dst)

/-- The types each atomic operation accepts (10 R203, R204). -/
def atomTypes (opn et fc : Nat) : Bool :=
  let i := et == 2 || et == 6 || ((et == 3 || et == 7) && fc == 0)
  if opn ≤ 5 then i else if opn ≤ 7 then i || etIsFlt3 et else if opn ≤ 10 then etIsFlt3 et else false

/-- The operation code of `ATOM` and `ATOMH` (10 R203). -/
def Fields.atomOp (f : Fields) : Nat := (f.lit.extractLsb' 24 8).toNat

/-- The element type is accepted (step 4 of R64). Where B holds a code (the source type of CVT, the operation of VSCAN and VRED) it is
read as one whatever BK is, so a code that is not accepted is cause 0x02 before an unlisted kind's 0x03 (DEDUCED, log 30). -/
def tyOk (t : TySet) (f : Fields) : Bool :=
  let et := f.et.toNat
  let fc := f.fc.toNat
  match t with
  | .zero => et == 0
  | .only ts => ts.contains et
  | .int => tyInt et fc
  | .signed => et < 4 && tyInt et fc
  | .flt => etIsFlt3 et
  | .intFlt => tyInt et fc || etIsFlt3 et
  | .ld => et < 14 && (tyInt et fc || et > 7)
  | .cvt => cvtTypes et f.cvtSrc fc
  | .vscan => (tyInt et fc || etIsFlt3 et) && !(f.b.toNat ≥ 3 && etIsFlt3 et)
  | .vred => (if fc == 0 then [3, 7, 8].contains et else tyInt et fc || etIsFlt3 et) &&
      !(f.b.toNat ≥ 3 && etIsFlt3 et)
  | .atom => atomTypes f.atomOp et fc

/-- The field RS holds an accepted code (step 4 of R64; 07 R122, R123). -/
def rsOk (u : RsUse) (f : Fields) : Bool :=
  let rs := f.rs.toNat
  let rnd := rs < 6 && rs != 4
  match u with
  | .zero => rs == 0
  | .rnd => rnd
  | .rndSr => rs < 6
  | .rndFlt => if etIsFlt3 f.et.toNat then rnd else rs == 0
  | .rndFltAdd => if etIsFlt3 f.et.toNat && f.b == 0 then rnd else rs == 0
  | .cvt =>
      if etIsInt f.et.toNat && etIsInt f.cvtSrc then rs == 0
      else if rs == 4 then (f.et == 11 || f.et == 12) && etIsFlt f.cvtSrc
      else rnd
  | .scope => rs < 6
  | .scopeHail => rs < 6 && rs != 0
  | .cond6 => rs < 6
  | .cond8 => true
  | .vmask => true

/-- The overflow mode is one the row carries (step 4 of R64; 07 R123). -/
def ovOk (u : OvUse) (f : Fields) : Bool :=
  match u with
  | .zero => !f.ov
  | .one => f.ov
  | .any => true
  | .intOnly => !f.ov || etIsInt f.et.toNat
  | .cvt => !f.ov || (etIsInt f.et.toNat && etIsInt f.cvtSrc)
  | .intAdd => !f.ov || (etIsInt f.et.toNat && f.b == 0)

/-- Whether `.sr` and its seed operand are present (06 R106). -/
def usesSeed (f : Fields) : Bool := f.rs == 4

/-- Step 4 for one source field: an unused field is zero, and a code is not reserved. -/
def srcOk2 (u : SrcUse) (k n : Nat) (f : Fields) : Bool :=
  match u with
  | .none => k == 0 && n == 0
  | .unImm _ => k != 3 || n == 0
  | .unB => if f.ak == 3 then true else k == 0 && n == 0
  | .index _ => k != 3 || n == 0
  | .off => k == 0
  | .code hi => k != 3 || n ≤ hi
  | .icmpCode => k != 3 || n < 6
  | .seed => usesSeed f || (k == 0 && n == 0)
  | _ => true

/-- Register numbers of a kind (03 R53). -/
def kindMax (k : Nat) : Nat := if k == 0 then 63 else if k == 1 then 31 else 127

/-- Step 5 for one source field: the kind is listed and the number is in its file. -/
def srcOk3 (u : SrcUse) (k n : Nat) (f : Fields) : Bool :=
  let reg (ks : List Nat) := ks.contains k && n ≤ kindMax k
  let cnt (lo hi : Nat) := k == 3 && lo ≤ f.uimm && f.uimm ≤ hi
  match u with
  | .none | .off | .offData => true
  | .regs ks => reg ks
  | .regsImm ks => (k == 3 && (f.ext || etIsInt f.et.toNat)) || reg ks
  | .unImm ks => (k == 3 && f.bk == 3 && (f.ext || etIsInt f.et.toNat)) || reg ks
  | .unB => f.ak != 3 || k == 3
  | .base ks => if k == 3 then ks.contains 3 && n < 64 else reg ks
  | .index ks => k == 3 || reg ks
  | .disp => k == 3
  | .cnt lo hi => cnt lo hi
  | .cntReg lo hi => reg [0] || cnt lo hi
  | .mask | .cond | .maskCond | .tile => k == 3 && n < 8
  | .acc => k == 3 && n < 4
  | .acc2 => k == 3 && n < 3
  | .handle => k == 3 && n < 64
  | .code _ | .icmpCode => k == 3
  | .brcCond => (k == 3 && n < 16) || (k == 0 && n < 64)
  | .classes => k == 3 && n < 32
  | .tileBlock => k == 3 && n < 16
  | .zrowA => if f.uimm < 16 then k == 3 && n < 4 else k == 2
  | .zrowB => k == 3 && f.uimm < 32
  | .seed => !usesSeed f || reg [0, 1]
  | .first8 => k == 0 && n + 7 < 64

/-- Step 4 for the destination field: an unused field is zero. -/
def dstOk2 (u : DstUse) (f : Fields) : Bool :=
  match u with
  | .zero => f.d == 0
  | _ => true

/-- Step 5 for the destination field. -/
def dstOk3 (u : DstUse) (f : Fields) : Bool :=
  let d := f.d.toNat
  match u with
  | .zero => true
  | .file => d ≤ kindMax f.fc.toNat
  | .mask => d != 0 && d < 8
  | .maskCond => d < 8 && (d != 0 || f.fc != 2)
  | .cond | .shape | .tile => d < 8
  | .sReg | .handle => d < 64
  | .acc => d < 4
  | .acc2 => d < 3
  | .tileAcc => if f.b == 1 then d < 4 else d < 8
  | .data => f.ck != 3 && d ≤ kindMax f.ck.toNat
  | .count8 => 1 ≤ d && d ≤ 8
  | .tileBlock => d < 16
  | .zrow => if f.uimm < 16 then true else d < 4

/-- Kind codes of a register source, as far as the type lattice counts them (01 R21). -/
def srcKind (u : SrcUse) (k : Nat) : Nat :=
  match u with
  | .regs _ | .regsImm _ | .unImm _ | .base _ | .index _ | .seed => if k == 3 then 0 else k
  | _ => 0

/-- The highest file among the register operands of a store (03 R34). -/
def topKind (r : Row) (f : Fields) : Nat :=
  max (srcKind r.a f.ak.toNat) (max (srcKind r.b f.bk.toNat) (if r.d == .data then f.ck.toNat else 0))

/-- Step 6 of R64 (R55): FC is the row's, and no source kind stands above it. -/
def typesOk (r : Row) (f : Fields) : Bool :=
  let fc := f.fc.toNat
  r.fcs.contains fc &&
  (r.above || (srcKind r.a f.ak.toNat ≤ fc && srcKind r.b f.bk.toNat ≤ fc &&
    (match r.c with
      | .regs _ | .offData | .seed => f.ck.toNat ≤ fc
      | _ => true))) &&
  (r.lanes != .varyAff || fc == topKind r f)

/-- Whether an instruction acts on lanes (R56). -/
def actsOnLanes (r : Row) (f : Fields) : Bool :=
  match r.lanes with
  | .never => false
  | .always => true
  | .vary => f.fc == 2
  | .varyAff => f.fc != 0

/-- Step 7 of R64 (R56). -/
def predOk (r : Row) (f : Fields) : Bool :=
  !(f.neg && f.pm == 0) && (actsOnLanes r f || (!f.neg && f.pm == 0))

/-- The format is one the row exists in, and a field the literal replaces is zero (R54, R55). -/
def formOk (r : Row) (f : Fields) : Bool :=
  let fits := match r.form with
    | .long => !f.ext
    | .ext => f.ext
    | .both => true
    | .immExt => !f.ext || usesImm r f
  let zeroed :=
    if !f.ext then f.lit == 0
    else if usesImm r f then f.imm14 == 0
    else if r.c == .off || r.c == .offData then f.c == 0
    else true
  fits && zeroed

/-- A half-precision literal has zero upper bits (R54). -/
def litOk (r : Row) (f : Fields) : Bool :=
  !(f.ext && usesImm r f && (f.et == 9 || f.et == 10) && (r.ty == .flt || r.ty == .intFlt)) ||
  f.lit.extractLsb' 16 16 == 0

/-- Step 4 of R64 for a long or extended instruction: field values (R55, R57) (DEDUCED, log 30). -/
def fieldsOk (op : Nat) (r : Row) (f : Fields) : Bool :=
  f.fc != 3 && tyOk r.ty f && rsOk r.rs f && ovOk r.ov f && r.mo.contains f.mo.toNat &&
  (r.ll || f.ahead == 0) && formOk r f && litOk r f && dstOk2 r.d f &&
  srcOk2 r.a f.ak.toNat f.a.toNat f &&
  (usesImm r f || srcOk2 r.b f.bk.toNat f.b.toNat f) &&
  (if usesImm r f then f.ck == 0 else srcOk2 r.c f.ck.toNat f.c.toNat f) &&
  (op != 0x08 || f.lit.extractLsb' 24 8 == 0) &&
  (op != 0x00 || (f.fc == 0 && !f.neg && f.pm == 0))

/-- Step 5 of R64 for a long or extended instruction: operand kinds and numbers (R53, R54); `LD` to an affine
register takes only uniform address registers, and `STH` no affine data (09 R174). -/
def operandsOk (op : Nat) (r : Row) (f : Fields) : Bool :=
  (op != 0xA0 || f.fc != 1 || (f.ak == 0 && (f.bk == 0 || f.bk == 3))) && (op != 0xA3 || f.ck != 1) &&
  dstOk3 r.d f && srcOk3 r.a f.ak.toNat f.a.toNat f && srcOk3 r.b f.bk.toNat f.b.toNat f &&
  (usesImm r f || srcOk3 r.c f.ck.toNat f.c.toNat f)

/-- Steps 3 to 7 of R64 for a long or extended instruction: the cause of the first check that fails,
`none` when it is performed (DEDUCED, log 30). -/
def checkLong (op : Nat) (f : Fields) : Option Nat :=
  match rowOf op with
  | none => some 1
  | some r =>
    if !fieldsOk op r f then some 2
    else if !operandsOk op r f then some 3
    else if !typesOk r f then some 4
    else if !predOk r f then some 5
    else none

/-- Destination files a short opcode accepts (03 R51). -/
def shortFiles (sop : Nat) : List Nat := if 0x14 ≤ sop && sop ≤ 0x18 then [1] else [0, 2]

/-- Whether a short opcode is unary and does not read its destination (R50, R51). -/
def shortUnary (sop : Nat) : Bool := 0x18 ≤ sop

/-- The fields of the long instruction a short one performs (R50). The immediate of a short stands in
the literal: sign-extended for integers, the upper half of an FP32 pattern for floats. -/
def shortFields (sop : Nat) (f : ShortFields) : Fields :=
  let flt := 0x0F ≤ sop && sop ≤ 0x13
  let un := shortUnary sop
  let imm := f.bf == 3
  let d := f.d.setWidth 7
  let breg : BitVec 7 := (f.hi.extractLsb' 0 5).setWidth 7
  { ext := imm
    lit := if imm then (if flt then f.hi ++ (0 : BitVec 16) else f.hi.signExtend 32) else 0
    c := 0
    b := if imm || un then 0 else breg
    bk := if imm then 3 else if un then 0 else f.bf
    a := if un then (if imm then 0 else breg) else d
    ak := if un then f.bf else f.df
    d := d, ck := 0, mo := 0, rs := 0
    ov := sop == 0x0D || sop == 0x0E
    et := if flt then 8 else if f.df == 2 then 2 else 3
    fc := f.df, neg := false, pm := 0, ahead := 0 }

/-- Step `k` of R64 (3 to 7) for a short instruction: whether it passes. -/
def shortStep (k sop : Nat) (f : ShortFields) : Bool :=
  match k with
  | 3 => sop < 0x1D
  | 4 => if sop == 0 then f.hi == 0 && f.bf == 0 && f.d == 0 && f.df == 0
         else f.df != 3 && (f.bf == 3 || f.hi.extractLsb' 5 11 == 0)
  | 5 => !(f.bf == 2 && 0x14 ≤ sop && sop ≤ 0x18) && !(f.bf == 1 && (sop == 0x16 || sop == 0x17)) && !(f.bf == 3 && (sop == 0x1B || sop == 0x1C))
  | 6 => sop == 0 || ((shortFiles sop).contains f.df.toNat && (f.bf == 3 || f.bf.toNat ≤ f.df.toNat))
  | _ => true

/-- Steps 3 to 7 of R64 for a short that stands alone. -/
def checkShort (sop : Nat) (f : ShortFields) : Option Nat :=
  if !shortStep 3 sop f then some 1
  else if !shortStep 4 sop f then some 2
  else if !shortStep 5 sop f then some 3
  else if !shortStep 6 sop f then some 4
  else none

/-- The opcode and fields of a parcel read as a short (R49); the follower field is left zero. -/
def shortParts (w : BitVec 32) : Nat × ShortFields :=
  ((w.extractLsb' 2 5).toNat,
   { lead := w.getLsbD 0, hi := w.extractLsb' 16 16, bf := w.extractLsb' 14 2,
     d := w.extractLsb' 9 5, df := w.extractLsb' 7 2, fol := 0 })

/-- The varying registers a short reads, each read counted (R59). -/
def shortVReads (sop : Nat) (f : ShortFields) : List Nat :=
  if sop == 0 then []
  else (if !shortUnary sop && f.df == 2 then [f.d.toNat] else []) ++
    (if f.bf == 2 then [(f.hi.extractLsb' 0 5).toNat] else [])

/-- The register a short writes (R59), `none` for `NOP`. -/
def shortDst (sop : Nat) (f : ShortFields) : Option (Nat × Nat) :=
  if sop == 0 then none else some (f.df.toNat, f.d.toNat)

/-- Step 8 of R64: no bank takes more than two varying reads, and the halves write different
registers (R59). -/
def pairOk (p q : Nat × ShortFields) : Bool :=
  let reads := shortVReads p.1 p.2 ++ shortVReads q.1 q.2
  (List.range 4).all (fun k => (reads.filter (fun n => n % 4 == k)).length ≤ 2) &&
  !((shortDst p.1 p.2).isSome && shortDst p.1 p.2 == shortDst q.1 q.2)

/-- Steps 3 to 8 of R64 for a pair: the cause, and whether it is the follower's (HALF of R60). -/
def checkPair (p q : Nat × ShortFields) : Option (Nat × Bool) :=
  let at_ (k c : Nat) : Option (Nat × Bool) :=
    if !shortStep k p.1 p.2 then some (c, false)
    else if !shortStep k q.1 q.2 then some (c, true) else none
  (at_ 3 1).or <| (at_ 4 2).or <| (at_ 5 3).or <| (at_ 6 4).or <|
    if pairOk p q then none else some (6, false)

end Sys2Proof
end

