-- ==== Sys2Proof/WellFormed.lean ====
section
/-! DEFINITION. Which instructions are well formed: a long or extended one passes steps 3 to 7 of
03 R64, a pair its steps 3 to 8, a command's operands name the row it stands for, and a step names
units that exist (01 R5). -/

namespace Sys2Proof

/-- The check of a short instruction, alone or leading a pair (03 R59, R64). -/
def shortOk (sop : Nat) (f : ShortFields) : Bool :=
  if f.lead then
    f.fol.extractLsb' 0 2 == 0 && (checkPair (sop, f) (shortParts f.fol)).isNone
  else f.fol == 0 && (checkShort sop f).isNone

/-- The OP of a host command and the selector its operands hold, if its row has one (19 R375). -/
def commandOf (i : Instr) : Option (Nat × Option Nat × CmdEntry) :=
  match i with
  | .createCtx e => some (0x01, none, e)
  | .destroyCtx e => some (0x02, none, e)
  | .mapPages e => some (0x03, none, e)
  | .unmapPages e => some (0x04, none, e)
  | .loadImage e => some (0x05, none, e)
  | .launch e => some (0x06, none, e)
  | .graphSubmit e => some (0x07, none, e)
  | .queryDevice e => some (0x08, some 0, e)
  | .queryFaultRing e => some (0x08, some 1, e)
  | .queryCounters e => some (0x08, some 2, e)
  | .querySolderSlots e => some (0x08, some 3, e)
  | .queryObservation e => some (0x08, some 4, e)
  | .queryCoresched e => some (0x08, some 5, e)
  | .queryFenceRefusals e => some (0x08, some 6, e)
  | .queryLinkPorts e => some (0x08, some 7, e)
  | .queryContext e => some (0x08, some 8, e)
  | .dump e => some (0x09, none, e)
  | .installPatch e => some (0x0A, none, e)
  | .attest e => some (0x0B, none, e)
  | .setBudget e => some (0x0C, none, e)
  | .setHandle e => some (0x0D, none, e)
  | .setTag e => some (0x0E, none, e)
  | .stopCtx e => some (0x0F, none, e)
  | .observe e => some (0x10, none, e)
  | .debugWriteSlots e => some (0x11, some 0, e)
  | .debugHalt e => some (0x11, some 1, e)
  | .debugResume e => some (0x11, some 2, e)
  | .debugStep e => some (0x11, some 3, e)
  | .debugFocus e => some (0x11, some 4, e)
  | .debugEnd e => some (0x11, some 5, e)
  | .setComm e => some (0x12, none, e)
  | .hostWindow e => some (0x13, none, e)
  | _ => none

/-- The selector a command entry holds: QUERY's two bytes, DEBUG's one byte (19 R375). -/
def CmdEntry.selector (op : Nat) (e : CmdEntry) : Nat :=
  if op == 0x08 then (e.opnd.extractLsb' 0 16).toNat else (e.opnd.extractLsb' 0 8).toNat

/-- Units that a step of the part names exist (01 R5, R12). -/
def stepOk (i : Instr) : Bool :=
  match i with
  | .fenceWindowWrite port win reg _ => port < 13 && win < 16 && reg < 4
  | .registerWrite off _ => off < 0x10000 && off % 8 == 0
  | .cxlMemAccess win off _ => win < 16 && off % 64 == 0
  | .linkFailure port => port < 12
  | .sample core part => core < 160 && part < 8
  | .starvationGuard core part => core < 160 && part < 8
  | .budgetLower core => core < 160
  | .budgetRaise core => core < 160
  | .contextTimeslice core => core < 160
  | .contextSwitch core => core < 160
  | .contextRestore core => core < 160
  | .hailThreadBirth core => core < 160
  | .dieOvertemp die => die < 5
  | .arithmeticClockRise die => die < 4
  | .placeTeam die => die < 4
  | .placeSpan die => die < 4
  | .graphNodeFinish die slot => die < 4 && slot < 4096
  | _ => true

/-- A well-formed instruction, command or step. -/
def wellFormed (i : Instr) : Bool :=
  match longOf i, shortOf i, commandOf i with
  | some (op, f), _, _ => (checkLong op f).isNone
  | none, some (sop, f), _ => shortOk sop f
  | none, none, some (op, sel, e) => (match sel with | some k => e.selector op == k | none => true)
  | none, none, none => stepOk i

end Sys2Proof
end

