-- ==== Sys2Proof/Decode.lean ====
section
/-! DEFINITION. The decoder, total on any parcels, which rejects by the name of the check of 03 R64
that fails; the decoder of host command entries (19 R373, R375); and after them the encoders. -/

namespace Sys2Proof

/-- Why no instruction stands in some parcels: the decode causes of 03 R67 by name, with HALF of R60
for a pair; too few bytes; a command OP that is none of R375's. -/
inductive DecodeError where
  | illegalOpcode (half : Bool)
  | illegalField (half : Bool)
  | illegalOperand (half : Bool)
  | typeViolation (half : Bool)
  | illegalPredicate
  | illegalPair
  | truncated
  | badCommand
  deriving DecidableEq, Repr

/-- The name of a decode cause (03 R67). -/
def DecodeError.ofCause (c : Nat) (half : Bool) : DecodeError :=
  match c with
  | 1 => .illegalOpcode half
  | 2 => .illegalField half
  | 3 => .illegalOperand half
  | 4 => .typeViolation half
  | 5 => .illegalPredicate
  | _ => .illegalPair

/-- The cause code and HALF of a rejected encoding (03 R67, R60). -/
def DecodeError.cause (e : DecodeError) : Nat × Bool :=
  match e with
  | .illegalOpcode h => (1, h)
  | .illegalField h => (2, h)
  | .illegalOperand h => (3, h)
  | .typeViolation h => (4, h)
  | .illegalPredicate => (5, false)
  | .illegalPair => (6, false)
  | .truncated => (0, false)
  | .badCommand => (0, false)

/-- The fields of the 64-bit word and literal of a long or extended instruction (03 R52). -/
def fieldsOf (w : BitVec 64) (lit : BitVec 32) : Fields :=
  let ext := w.getLsbD 0
  { ext := ext, lit := if ext then lit else 0
    c := w.extractLsb' 57 7, b := w.extractLsb' 50 7, bk := w.extractLsb' 48 2
    a := w.extractLsb' 41 7, ak := w.extractLsb' 39 2, d := w.extractLsb' 32 7
    ck := w.extractLsb' 30 2, mo := w.extractLsb' 28 2, rs := w.extractLsb' 25 3
    ov := w.getLsbD 24, et := w.extractLsb' 20 4, fc := w.extractLsb' 18 2
    neg := w.getLsbD 17, pm := w.extractLsb' 14 3, ahead := w.extractLsb' 10 4 }

/-- Length in parcels named by bits [1:0] of a first parcel (03 R46). -/
def parcelCount (p0 : BitVec 32) : Nat :=
  match (p0.extractLsb' 0 2).toNat with
  | 0 => 1
  | 1 => 2
  | 2 => 2
  | _ => 3

/-- Decode the parcels of one instruction (03 R46-R64): steps 2 to 8, with the leader's alignment
given by `aligned` (R59). -/
def decodeParcels (aligned : Bool) (p0 p1 p2 : BitVec 32) : Except DecodeError Instr :=
  if p0.getLsbD 1 then
    let w := p1 ++ p0
    let op := (p0.extractLsb' 2 8).toNat
    let f := fieldsOf w p2
    match checkLong op f with
    | some c => .error (.ofCause c false)
    | none => (match longInstr op f with | some i => .ok i | none => .error (.illegalOpcode false))
  else
    let p := shortParts p0
    if p.2.lead then
      if !aligned || p1.extractLsb' 0 2 != 0 then .error .illegalPair
      else match checkPair p (shortParts p1) with
        | some (c, h) => .error (.ofCause c h)
        | none => (match shortInstr p.1 { p.2 with fol := p1 } with
            | some i => .ok i
            | none => .error (.illegalOpcode false))
    else match checkShort p.1 p.2 with
      | some c => .error (.ofCause c false)
      | none => (match shortInstr p.1 p.2 with | some i => .ok i | none => .error (.illegalOpcode false))

/-- Four bytes as a little-endian parcel (00 R2). -/
def parcelOf (b0 b1 b2 b3 : Byte) : BitVec 32 := b3 ++ b2 ++ b1 ++ b0

/-- The parcel at the head of a byte list, and the rest. -/
def takeParcel (bs : List Byte) : Option (BitVec 32 × List Byte) :=
  match bs with
  | b0 :: b1 :: b2 :: b3 :: r => some (parcelOf b0 b1 b2 b3, r)
  | _ => none

/-- Decode the instruction at the head of any bytes, and give the rest of them. -/
def decode (bs : List Byte) : Except DecodeError (Instr × List Byte) :=
  match takeParcel bs with
  | none => .error .truncated
  | some (p0, r0) =>
    match parcelCount p0 with
    | 1 => (decodeParcels true p0 0 0).map (·, r0)
    | 2 => (match takeParcel r0 with
        | none => .error .truncated
        | some (p1, r1) => (decodeParcels true p0 p1 0).map (·, r1))
    | _ => (match takeParcel r0 with
        | none => .error .truncated
        | some (p1, r1) => (match takeParcel r1 with
            | none => .error .truncated
            | some (p2, r2) => (decodeParcels true p0 p1 p2).map (·, r2)))

/-- The command an OP and its entry name (19 R375); `none` for every other OP or selector (R375's
last sentence). -/
def commandInstr (op : Nat) (e : CmdEntry) : Option Instr :=
  match op with
  | 0x01 => some (.createCtx e)
  | 0x02 => some (.destroyCtx e)
  | 0x03 => some (.mapPages e)
  | 0x04 => some (.unmapPages e)
  | 0x05 => some (.loadImage e)
  | 0x06 => some (.launch e)
  | 0x07 => some (.graphSubmit e)
  | 0x08 =>
    (match e.selector op with
    | 0 => some (.queryDevice e)
    | 1 => some (.queryFaultRing e)
    | 2 => some (.queryCounters e)
    | 3 => some (.querySolderSlots e)
    | 4 => some (.queryObservation e)
    | 5 => some (.queryCoresched e)
    | 6 => some (.queryFenceRefusals e)
    | 7 => some (.queryLinkPorts e)
    | 8 => some (.queryContext e)
    | _ => none)
  | 0x09 => some (.dump e)
  | 0x0A => some (.installPatch e)
  | 0x0B => some (.attest e)
  | 0x0C => some (.setBudget e)
  | 0x0D => some (.setHandle e)
  | 0x0E => some (.setTag e)
  | 0x0F => some (.stopCtx e)
  | 0x10 => some (.observe e)
  | 0x11 =>
    (match e.selector op with
    | 0 => some (.debugWriteSlots e)
    | 1 => some (.debugHalt e)
    | 2 => some (.debugResume e)
    | 3 => some (.debugStep e)
    | 4 => some (.debugFocus e)
    | 5 => some (.debugEnd e)
    | _ => none)
  | 0x12 => some (.setComm e)
  | 0x13 => some (.hostWindow e)
  | _ => none

/-- The head and operands of a 64-byte command entry (19 R373). -/
def entryOf (w : BitVec 512) : Nat × CmdEntry :=
  ((w.extractLsb' 0 8).toNat,
   { ctx := w.extractLsb' 8 8, flags := w.extractLsb' 16 16, tag := w.extractLsb' 32 32,
     opnd := w.extractLsb' 64 448 })

/-- Decode a command entry. -/
def decodeCommand (w : BitVec 512) : Except DecodeError Instr :=
  match commandInstr (entryOf w).1 (entryOf w).2 with
  | some i => .ok i
  | none => .error .badCommand

/-- The instruction this decoder reads from the bits `w` of an opcode-table row: parcels in memory
order, the bits above them zero; a row longer than three parcels is a command entry. -/
def decodeTableWord (nbits w : Nat) : Option Instr :=
  if nbits ≤ 96 then
    (decodeParcels true (BitVec.ofNat 32 w) (BitVec.ofNat 32 (w >>> 32)) (BitVec.ofNat 32 (w >>> 64))).toOption
  else (decodeCommand (BitVec.ofNat 512 w)).toOption

/-- The 64-bit word of a long or extended instruction (03 R52). -/
def wordOf (op : Nat) (f : Fields) : BitVec 64 :=
  f.c ++ f.b ++ f.bk ++ f.a ++ f.ak ++ f.d ++ f.ck ++ f.mo ++ f.rs ++ BitVec.ofBool f.ov ++ f.et ++
  f.fc ++ BitVec.ofBool f.neg ++ f.pm ++ f.ahead ++ BitVec.ofNat 8 op ++ (1 : BitVec 1) ++
  BitVec.ofBool f.ext

/-- The parcel of a short instruction (03 R49). -/
def shortWord (sop : Nat) (f : ShortFields) : BitVec 32 :=
  f.hi ++ f.bf ++ f.d ++ f.df ++ BitVec.ofNat 5 sop ++ (0 : BitVec 1) ++ BitVec.ofBool f.lead

/-- The parcels of an instruction, none for a command or a step. -/
def encodeParcels (i : Instr) : List (BitVec 32) :=
  match longOf i, shortOf i with
  | some (op, f), _ =>
    let w := wordOf op f
    [w.extractLsb' 0 32, w.extractLsb' 32 32] ++ (if f.ext then [f.lit] else [])
  | none, some (sop, f) => shortWord sop f :: (if f.lead then [f.fol] else [])
  | none, none => []

/-- The bytes of a parcel in memory order (00 R2). -/
def parcelBytes (p : BitVec 32) : List Byte :=
  [p.extractLsb' 0 8, p.extractLsb' 8 8, p.extractLsb' 16 8, p.extractLsb' 24 8]

/-- The bytes of a well-formed instruction. -/
def encode (i : Instr) : List Byte := (encodeParcels i).flatMap parcelBytes

/-- The 64-byte entry of a host command (19 R373). -/
def encodeCommand (i : Instr) : Option (BitVec 512) :=
  match commandOf i with
  | some (op, _, e) => some (e.opnd ++ e.tag ++ e.flags ++ e.ctx ++ BitVec.ofNat 8 op)
  | none => none

/-- Length in bytes of an instruction, 0 for a command or a step. -/
def byteLen (i : Instr) : Nat := 4 * (encodeParcels i).length

end Sys2Proof
end

