-- ==== Sys2Proof/Config.lean ====
section
/-! DEFINITION. What the manual leaves open, as constants with no body: nothing can be proved of a
value of one, so a theorem about the machine holds for every value. Each is named in a log entry. -/

namespace Sys2Proof

/-- Who makes the next step (DESIGN CHOICE, log 1): a partition issues a slot, a Zephyr command processor takes the
next command, a step of the part happens, Zephyr's assignment unit gives a scratchpad unit to an
owner (16 R292; DESIGN CHOICE, log 14), the host writes its own memory, or nothing happens. -/
inductive Turn where
  | idle
  | issue (core part : Nat)
  | zephyr
  | event (i : Instr)
  | assign (unit : Nat) (owner : Nat) (tc : Bool)
  | hostStore (pa : Nat) (bytes : List Byte)
  deriving DecidableEq, Repr, Inhabited

namespace Config

/-- The order in which agents move, which no rule fixes (14 R398; DESIGN CHOICE, log 1). -/
opaque agenda : Nat → Turn
/-- Nanoseconds of GTS that a step takes (01 R24, 14 R398; DESIGN CHOICE, log 1). -/
opaque elapsed : Nat → BitVec 8
/-- Arithmetic clocks that a step takes (14 R398; DESIGN CHOICE, log 1). -/
opaque clocks : Nat → BitVec 8
/-- How many of the zero-factor products a matrix instruction skips (18 R368; DESIGN CHOICE, log 7). -/
opaque mmaSkip : Nat → Nat
/-- Whether a thread cannot issue in a step although it waits for nothing: an operand or a unit that is not
free, a fetch, a window or class-stack move (14 R269, R277; DESIGN CHOICE, log 1). -/
opaque stalls : Nat → Nat → Bool
/-- Zephyr's choice where it takes a free number, frame or address (19 R375; DESIGN CHOICE, log 10). -/
opaque choice : Nat → Nat
/-- The bytes of a dump's sections of which no rule says what they hold (17 R352; DESIGN CHOICE, log 11). -/
opaque dumpByte : Nat → Nat → Byte
/-- A byte read from another device (19 R380; DESIGN CHOICE, log 15). -/
opaque remoteByte : Nat → Nat → Byte
/-- The package power reading, the die temperatures and the cores above their limit (19 R372, R381,
14 R268; DESIGN CHOICE, log 5). -/
opaque power : Nat → BitVec 12
opaque temperature : Nat → Nat → BitVec 16
opaque hotCores : Nat → List Nat
/-- Whether the ROM's check of the Zephyr image passes at a reset (19 R383; PRESUMED, log 12). -/
opaque romVerifies : Nat → Bool
/-- The peer at the far end of a link port (19 R380; DESIGN CHOICE, log 15). -/
opaque peer : Nat → BitVec 12
/-- ML-DSA-87 verification and signing, ML-KEM-1024 decapsulation, AES-256-GCM (16 R305-R316,
17 R354; PRESUMED, log 12). -/
opaque mlDsaVerify : List Byte → List Byte → List Byte → Bool
opaque mlDsaSign : List Byte → Nat → Byte
opaque mlKemDecap : List Byte → BitVec 256
opaque gcmSeal : BitVec 256 → Nat → List Byte → List Byte → List Byte
opaque gcmTag : BitVec 256 → Nat → List Byte → List Byte → BitVec 128
/-- The fused key hashes and their revocation fuses, the digests and the serial number (16 R307,
R316; PRESUMED, log 12). -/
opaque fusedKeyHash : Nat → BitVec 512
opaque keyRevoked : Nat → Bool
opaque romDigest : BitVec 512
opaque zephyrDigest : BitVec 512
opaque serial : BitVec 128
/-- The version of the firmware, as QUERY selector 0 reports it (19 R375; DESIGN CHOICE, log 16). -/
opaque firmwareVersion : Word
/-- The address of Zephyr's supervisor routine (17 R325; DESIGN CHOICE, log 18). -/
opaque supervisorPc : BitVec 55
/-- The address of the patch memory's code, in units of 8 bytes, and the address: parcels lie at multiples of 4 and pairs at
multiples of 8 in a routine as anywhere (03 R47, 16 R297, R311; DESIGN CHOICE, log 18). -/
opaque patchUnit : BitVec 52
def patchBase : BitVec 55 := patchUnit ++ (0 : BitVec 3)
/-- Frames of main memory in Zephyr's reserve (01 R11; DESIGN CHOICE, log 10). -/
opaque reserve : Nat

/-- The direction of `.sr` on a value that is exact in the unbounded format and above the largest
finite value, which no rule gives (06 R104, R106; DESIGN CHOICE, log 9). -/
opaque srExactAway : Nat → Int → Bool

/-- The context to which the host gives a graph unit slot of a die in strict-partition mode (16 R291; DESIGN CHOICE, log 66). -/
opaque nodeOwner : Nat → Nat → Nat

/-- The context to which the host gives a fabric engine of a die in strict-partition mode (16 R291; DESIGN CHOICE, log 66). -/
opaque engineOwner : Nat → Nat → Nat

end Config
end Sys2Proof
end

