-- ==== Sys2Proof/Machine/State.lean ====
section
/-! DEFINITION. The state of one Sorrak-4, as plain data: control threads, cores, contexts, engines,
memory and the hub; the state after device reset; and why a step can stop. INVENTORY.md lists every
field with its rule. -/

namespace Sys2Proof.Machine

/-- A program counter: 55 bits of generic address (09 R165). -/
abbrev Pc := BitVec 55

/-- An affine register (01 R19, R20). -/
structure Affine where
  base : Word := 0
  stride : BitVec 32 := 0
  deriving DecidableEq, Repr

/-- The window of one file (04 R68, R70): base, size, allocation, lowest resident slot. -/
structure Win where
  wb : Nat := 0
  ws : Nat := 0
  alloc : Nat := 0
  low : Nat := 0
  deriving DecidableEq, Repr

/-- The three windows of a thread (04 R68). -/
structure Wins where
  s : Win := {}
  a : Win := {}
  v : Win := {}
  deriving DecidableEq, Repr

/-- WB and WS of each file, as frames and trap entries save them (04 R72, 17 R325). -/
structure Bases where
  swb : Nat := 0
  sws : Nat := 0
  awb : Nat := 0
  aws : Nat := 0
  vwb : Nat := 0
  vws : Nat := 0
  deriving DecidableEq, Repr

/-- The logical register stacks (04 R68); lane L of varying slot n has key 64n + L. -/
structure Files where
  s : SMap Word := []
  a : SMap Affine := []
  v : SMap LaneWord := []
  deriving DecidableEq, Repr

/-- Poisoned registers and rows (17 R344): keys as in `Files`; rows 64n + i. -/
structure Poison where
  s : List Nat := []
  a : List Nat := []
  v : List Nat := []
  t : List Nat := []
  z : List Nat := []
  deriving DecidableEq, Repr

/-- Tile state (08 R142): byte j of row i of tile n has key (64n + i) 32 + j; element j of row i of
accumulator n has key (64n + i) 16 + j. -/
structure Tiles where
  nt : Nat := 0
  nz : Nat := 0
  shape : SMap Word := []
  t : SMap Byte := []
  z : SMap LaneWord := []
  deriving DecidableEq, Repr

/-- ORDER of a class entry (04 R72). -/
inductive Order where
  | first | asc | mask
  deriving DecidableEq, Repr

/-- KEY of a class entry (04 R72). -/
inductive Key where
  | slot (n : Nat)
  | uni (w : Word)
  | aff (base : Word) (stride : BitVec 32)
  | mask (w : Word)
  deriving DecidableEq, Repr

/-- MODE of a trap entry (17 R325); an emulation routine's entry is the model's (16 R311; DESIGN CHOICE, log 18). -/
inductive Mode where
  | user | supervisor | emulation
  deriving DecidableEq, Repr

/-- A class entry (04 R72). -/
structure ClassEntry where
  order : Order
  outer : Word
  pend : Word
  key : Key
  body : Pc
  fin : Pc
  dest : Nat
  deriving DecidableEq, Repr

/-- A focus entry (18 R366). -/
structure FocusEntry where
  lane : Nat
  pend : Word
  done : Word := 0
  fpc : Pc
  jpc : Pc := 0
  second : Bool := false
  deriving DecidableEq, Repr

/-- A Solder emulation routine being run (16 R311): the emulated instruction and the instructions
run so far. -/
structure Routine where
  pc : Pc
  len : Nat
  count : Nat := 0
  /-- its own code in the patch memory (16 R297) -/
  lo : Nat := 0
  hi : Nat := 0
  /-- the parcels it receives: of a pair both (03 R64); by what instruction it reads them, no rule says (DESIGN CHOICE, log 18) -/
  given : Word := 0
  deriving DecidableEq, Repr

/-- A trap entry (17 R325). -/
structure TrapEntry where
  mode : Mode
  savedM0 : Word
  tpc : Pc
  tlen : Nat
  bases : Bases
  /-- the handler's first fetch is still to come (17 R336) -/
  first : Bool := false
  /-- of an emulation routine's entry: the routine whose instruction it emulates, if any (16 R311) -/
  outer : Option Routine := none
  deriving DecidableEq, Repr

/-- An entry of the class stack (04 R72, 17 R325). -/
inductive Entry where
  | cls (e : ClassEntry)
  | frame (ret : Pc) (bases : Bases)
  | focus (e : FocusEntry)
  | trap (e : TrapEntry)
  deriving DecidableEq, Repr

/-- The trap state registers (17 R329-R332). -/
structure TrapRegs where
  vec : Word := 0
  cause : Word := 0
  tpc : Word := 0
  mask : Word := 0
  addr : Word := 0
  info : Word := 0
  site : Word := 0
  deriving DecidableEq, Repr

/-- A trap raised and not yet delivered: what 17 R324, R329-R332 record of it. -/
structure TrapInfo where
  cause : Nat
  under : Nat := 0
  orig : Nat := 0
  async : Bool := false
  lanes : Option Word := none
  addr : Word := 0
  flags : BitVec 5 := 0
  code : BitVec 16 := 0
  half : Bool := false
  site : Pc := 0
  seq : BitVec 32 := 0
  burst : Nat := 0
  /-- the engine command a 0x3A serves (17 R341) -/
  cmd : Option Nat := none
  /-- SOURCE of the engine unit that detected a 0x50 (17 R347) -/
  src : BitVec 16 := 0
  deriving DecidableEq, Repr

/-- One register write of an instruction's result; `p` marks it poisoned (17 R345). -/
inductive RegWrite where
  | s (slot : Nat) (w : Word) (p : Bool)
  | a (slot : Nat) (x : Affine) (p : Bool)
  | v (key : Nat) (w : LaneWord) (p : Bool)
  | m (n : Nat) (sel bits : Word)
  | c (n : Nat) (b : Bool)
  | shape (n : Nat) (w : Word)
  | tile (key : Nat) (b : Byte)
  | acc (key : Nat) (w : LaneWord)
  /-- poison of row `row` of the tile registers, or of the accumulators -/
  | row (isAcc : Bool) (row : Nat) (p : Bool)
  deriving DecidableEq, Repr

/-- One lane's access of a load or atomic: `none` for a helper lane that receives zero (01 R17). -/
structure LaneAcc where
  lane : Nat
  key : Option Nat
  /-- the address was formed from poison: only a helper lane's (17 R346) -/
  bad : Bool := false
  deriving DecidableEq, Repr

/-- A sector of a tile load: the memory key of its first byte, and the tile bytes it fills as
(offset in the sector, key of the tile byte or accumulator byte, in row bytes). -/
structure SectorAcc where
  key : Nat
  fills : List (Nat × Nat)
  deriving DecidableEq, Repr

/-- What a pending long-latency instruction still has to do. -/
inductive PendWork where
  /-- results formed at issue, to be written together (03 R57) -/
  | result (ws : List RegWrite) (prod skip : Word)
  /-- a load of elements of type `et` into slot `d` of the file `fc` (09 R175) -/
  | load (d fc et : Nat) (accs : List LaneAcc)
  /-- a read of tags (09 R180) -/
  | ltag (d fc : Nat) (accs : List LaneAcc)
  /-- an atomic: operation, destination, file, element type, data and compare words (10 R205) -/
  | atom (opn d fc et : Nat) (accs : List LaneAcc) (data cmp : List Word)
  /-- a tile load into tile (or accumulator when `acc`) `n`: its sectors not yet performed, bytes above RB of its rows that
      clear, all its rows, and the rows that a performed sector poisons -/
  | tload (acc : Bool) (n : Nat) (sectors : List SectorAcc) (clear rows bad : List Nat)
  /-- every result is written: the window alone remains (03 R58) -/
  | done
  deriving DecidableEq, Repr

/-- A pending long-latency instruction and its lookahead window (03 R57, R58). -/
structure Pend where
  work : PendWork
  /-- slots of the window not yet issued -/
  left : Nat
  reads : List RegName
  writes : List RegName
  flags : BitVec 5 := 0
  /-- place in the thread's memory order -/
  ord : Nat := 0
  /-- PC of the instruction -/
  pc : Pc := 0
  deriving DecidableEq, Repr

/-- An entry of a store queue (09 R172, R176): bytes and tags in memory keys. -/
structure StoreEnt where
  ord : Nat
  bytes : List Host.Cell
  tags : List (Nat × BitVec 4)
  deriving DecidableEq, Repr

/-- What a thread waits for (14 R277). -/
inductive Wait where
  | bar (k phase : Nat)
  | sbar (k phase : Nat)
  | tx (index phase : Nat)
  | val (key size cond : Nat) (signed : Bool) (value : Word)
  | ld (n : Nat)
  | fence (rel acq : Bool) (ord : Nat) (before : Nat)
  | publ (entry ord before : Nat)
  deriving DecidableEq, Repr

/-- The state of a thread (14 R277). -/
inductive Status where
  | absent | ready | waiting (w : Wait) | halted | retiring
  deriving DecidableEq, Repr

/-- A Zephyr supervisor routine being run (17 R340; DESIGN CHOICE, log 18): how many instructions it has run, the engine
command it serves, and what its `MAPPG` answered. Its place is the thread's program counter. -/
structure Service where
  count : Nat := 0
  cmd : Option Nat := none
  mapped : Bool := false
  deriving DecidableEq, Repr

/-- The logical name of a thread (01 R28) and the team and read it belongs to. -/
structure Name where
  ctx : Nat := 0
  launch : Nat := 0
  team : Nat := 0
  group : Nat := 0
  burst : Nat := 0
  seg : Nat := 0
  hail : Bool := false
  uid : Nat := 0
  cmd : Nat := 0
  /-- the issuing group of a hail thread's read -/
  owner : Nat := 0
  deriving DecidableEq, Repr

/-- The physical name of a thread (01 R5, R28). -/
structure Place where
  core : Nat := 0
  part : Nat := 0
  slot : Nat := 0
  deriving DecidableEq, Repr

/-- The scheduling state of a thread (14 R269, R272). -/
structure Sched where
  starve : Nat := 0
  age : Nat := 0
  /-- clock at which the present wait began -/
  waitSince : Nat := 0
  /-- clocks of a wait that a context switch broke off (17 R350) -/
  waited : Nat := 0
  deriving DecidableEq, Repr

/-- The control registers of 18 R369. -/
structure Counts where
  issued : Word := 0
  prod : Word := 0
  skip : Word := 0
  deriving DecidableEq, Repr

/-- A control thread: a group or a hail thread (01 R18). -/
structure Thread where
  id : Nat := 0
  name : Name := {}
  place : Place := {}
  status : Status := .absent
  width : Nat := 0
  real : Word := 0
  help : Word := 0
  pc : Pc := 0
  m0 : Word := 0
  masks : SMap Word := []
  conds : BitVec 8 := 0
  wins : Wins := {}
  files : Files := {}
  tiles : Tiles := {}
  poison : Poison := {}
  stack : List Entry := []
  trap : TrapRegs := {}
  fpstat : BitVec 5 := 0
  fpmode : BitVec 7 := 0
  counts : Counts := {}
  seq : BitVec 32 := 0
  memOrd : Nat := 0
  pending : List Pend := []
  queue : List StoreEnt := []
  held : List TrapInfo := []
  sched : Sched := {}
  hailCount : Nat := 0
  routine : Option Routine := none
  service : Option Service := none
  /-- the debugger's step command, and that its slot has issued (18 R365) -/
  step : Bool := false
  stepDone : Bool := false
  haltReq : Bool := false
  skipBp : Bool := false
  deriving DecidableEq, Repr

/-- A transaction barrier (10 R210); free when `refs` is 0. `held` is the team's own hold. -/
structure TxBar where
  gen : Nat := 0
  owner : Nat := 0
  pend : Nat := 0
  phase : Nat := 0
  refs : Nat := 0
  held : Bool := false
  deriving DecidableEq, Repr

/-- A returned burst that waits for a hail slot (09 R191): its data and the lanes of `v0` it poisons. -/
structure Burst where
  cmd : Nat := 0
  index : Nat := 0
  seg : Nat := 0
  addr : Word := 0
  data : List Byte := []
  poison : List Nat := []
  deriving DecidableEq, Repr

/-- A core (01 R5, 14 R267, 10 R210). -/
structure Core where
  serves : Option Nat := none
  budget : Nat := 256
  budgetSet : Nat := 256
  bars : SMap TxBar := []
  /-- clock and GTS at which the present service began (18 R361, 17 R397) -/
  since : Nat := 0
  sinceGts : Word := 0
  /-- context being switched to, while the core is saved (17 R350) -/
  switching : Option Nat := none
  /-- last sampled group slot of each partition, and one more than the clock of that sample (18 R361) -/
  sampled : SMap Nat := []
  sampleAt : SMap Nat := []
  /-- GTS of the governor's last step (14 R268) -/
  budgetAt : Option Word := none
  /-- the return buffer, oldest first (09 R191) -/
  buffer : List Burst := []
  deriving DecidableEq, Repr

/-- Where a team stands (14 R276). -/
inductive TeamState where
  | resident | swapping | swapped | woken | retired
  deriving DecidableEq, Repr

/-- A phase number and a count of arrivals (10 R207). -/
structure PhaseBar where
  phase : Nat := 0
  count : Nat := 0
  deriving DecidableEq, Repr

/-- The fields of a kernel table entry that a launch uses (02 R42). -/
structure Kernel where
  entry : Nat := 0
  codeBytes : Nat := 0
  kind : Nat := 0
  width : Nat := 64
  energy : Nat := 7
  handles : Nat := 0
  lanes : Nat := 64
  span : Nat := 1
  shared : Nat := 0
  args : Nat := 0
  nt : Nat := 0
  nz : Nat := 0
  vwin : Nat := 1
  swin : Nat := 3
  awin : Nat := 1
  deriving DecidableEq, Repr

/-- A placed team (14 R261, R276). -/
structure Team where
  uid : Nat := 0
  ctx : Nat := 0
  launch : Nat := 0
  index : Nat := 0
  core : Nat := 0
  state : TeamState := .resident
  kernel : Kernel := {}
  cost : Nat := 0
  live : Nat := 0
  units : List Nat := []
  binds : List Nat := []
  argAddr : Nat := 0
  tickets : List Nat := []
  /-- swap frames that hold its record (14 R274) -/
  frames : List Nat := []
  /-- a wake condition came while it was being swapped out (14 R278) -/
  wakeDue : Bool := false
  deriving DecidableEq, Repr

/-- A launch (14 R257-R259, 19 R376). -/
structure Launch where
  ctx : Nat := 0
  number : Nat := 0
  image : Nat := 0
  kernel : Kernel := {}
  entryPc : Pc := 0
  teams : Nat := 0
  prio : Nat := 0
  dies : Nat := 0
  fpmode : BitVec 7 := 0
  argAddr : Nat := 0
  binds : List Nat := []
  next : Nat := 0
  started : Nat := 0
  done : Nat := 0
  arrival : Nat := 0
  tag : BitVec 32 := 0
  notify : Bool := false
  reason : Nat := 0
  node : Option Nat := none
  finished : Bool := false
  /-- its second completion is not written yet (19 R376) -/
  owed : Bool := false
  deriving DecidableEq, Repr

/-- A loaded image (02 R41-R43, 19 R375). -/
structure Image where
  number : Nat := 0
  base : Nat := 0
  minor : Nat := 0
  digest : BitVec 512 := 0
  kernels : List Kernel := []
  needs : List (Nat × Nat × Nat) := []
  frames : List Nat := []
  deriving DecidableEq, Repr

/-- The 64-bit counters of a context (18 R367). -/
structure CtxCounters where
  slots : Word := 0
  stall : SMap Word := []
  prod : SMap Word := []
  skip : SMap Word := []
  ft : Word := 0
  corrected : Word := 0
  lost : Word := 0
  hail : Word := 0
  deriving DecidableEq, Repr

/-- Observation and debug settings of a context (18 R359, R363). -/
structure Observe where
  word : Word := 0
  buf : Word := 0
  cap : Nat := 0
  count : Nat := 0
  /-- the records of the buffer that bear the time of the last one, in order (01 R27) -/
  recent : List Nat := []
  bp : SMap Word := []
  wctl : SMap Word := []
  wlimit : SMap Word := []
  deriving DecidableEq, Repr

/-- A context (16 R289, 19 R375). -/
structure Ctx where
  word : Word := 0
  swapWait : Nat := 20000
  cores : List Nat := []
  poolFrames : List Nat := []
  swapFrames : List Nat := []
  l1 : SMap Word := []
  l2 : SMap Word := []
  leaf : SMap Word := []
  handles : SMap Word := []
  images : List Image := []
  ring : List (BitVec 512) := []
  ringLost : Word := 0
  obs : Observe := {}
  counters : CtxCounters := {}
  comms : SMap (List Nat) := []
  collSeq : SMap Nat := []
  key : BitVec 256 := 0
  frozen : List Nat := []
  /-- Zephyr is quiescing it for a stop or a dump (17 R350) -/
  stopping : Bool := false
  /-- the barrier pools of cores not serving it (17 R350) -/
  savedBars : SMap TxBar := []
  /-- BUDGET and the value last set, of cores not serving it (17 R350) -/
  budgets : SMap (Nat × Nat) := []
  deriving DecidableEq, Repr

/-- The work of an engine command (09 R181). -/
inductive Work where
  /-- a copy: destination and source pointers, the layout's eight words, the swizzle units, and the
      handle entry whose shadow bank it fills -/
  | copy (dst src : Word) (layout : List Word) (shadow : Option Nat)
  /-- BSTORE: the destination pointer, the captured bytes by offset, and the offsets of the poisoned ones (17 R345) -/
  | bstore (dst : Word) (bytes : List Host.Cell) (bad : List Nat)
  /-- a hail read: its bursts as (pointer, byte count, index, segment), the argument, the handler -/
  | hread (bursts : List (Word × Nat × Nat × Nat)) (arg : Word) (handler : Pc)
  deriving DecidableEq, Repr

/-- An engine command in flight (09 R181-R197, 17 R341). -/
structure Cmd where
  id : Nat := 0
  ctx : Nat := 0
  uid : Nat := 0
  tid : Nat := 0
  core : Nat := 0
  launch : Nat := 0
  team : Nat := 0
  group : Nat := 0
  pc : Pc := 0
  seq : BitVec 32 := 0
  bar : Word := 0
  scope : Nat := 0
  work : Work := .hread [] 0 0
  started : Bool := false
  /-- place in the issuing thread's memory order (R181) -/
  ord : Nat := 0
  /-- sectors performed, or bursts requested (R185, R190) -/
  mark : Nat := 0
  suspended : Option Nat := none
  /-- every sector is performed (R185) -/
  sectorsDone : Bool := false
  /-- bursts requested and not returned, each with the keys of its bytes; threads born and not ended -/
  asked : List (Nat × List Nat) := []
  running : Nat := 0
  /-- the command ended with a fault (R189) -/
  failed : Bool := false
  /-- a thread of the read trapped: its other bursts go on, and it makes no arrival (R196) -/
  spoiled : Bool := false
  done : Bool := false
  /-- the graph node a node's copy works for (10 R218) -/
  node : Option Nat := none
  /-- whether a fabric engine serves it (R181), and which of its die's (01 R12, R26) -/
  fabric : Bool := false
  engine : Nat := 0
  deriving DecidableEq, Repr

/-- A graph node (10 R215); free when `kind` is none. -/
structure Node where
  gen : Nat := 0
  kind : Option Nat := none
  ctx : Nat := 0
  cnt : Nat := 0
  succ : List Nat := []
  armed : Bool := false
  started : Bool := false
  failed : Bool := false
  desc : List Byte := []
  binds : List Nat := []
  cmd : Cmd := {}
  deriving DecidableEq, Repr

/-- A collective this device takes part in (10 R219, R220). -/
structure Coll where
  id : Nat := 0
  ctx : Nat := 0
  comm : Nat := 0
  seqNo : Nat := 0
  ticket : Nat := 0
  desc : List Byte := []
  cmd : Cmd := {}
  code : Nat := 1
  flags : BitVec 5 := 0
  done : Bool := false
  deriving DecidableEq, Repr

/-- A contribution of a peer (10 R220). -/
structure Contribution where
  ctx : Nat := 0
  comm : Nat := 0
  seqNo : Nat := 0
  dev : Nat := 0
  desc : List Byte := []
  data : List Byte := []
  /-- the peer met poison (17 R345) -/
  poison : Bool := false
  deriving DecidableEq, Repr

/-- A Solder slot (16 R308). -/
structure Solder where
  mtch : Word := 0
  mask : Word := 0
  arg : Word := 0
  ctxMask : Word := 0
  ctrl : Word := 0
  /-- where the code section of the slot's image lies in the patch memory, and its size (DESIGN CHOICE, log 18) -/
  base : Nat := 0
  size : Nat := 0
  deriving DecidableEq, Repr

/-- A link port (19 R380). -/
structure Port where
  state : Nat := 0
  peer : BitVec 12 := 0
  sent : Word := 0
  received : Word := 0
  deriving DecidableEq, Repr

/-- The hub die (19 R372-R384, 16 R303, R308). -/
structure Hub where
  gts : Word := 0
  state : Nat := 0
  mode : Bool := false
  trip : Bool := false
  devnum : BitVec 12 := 0
  pwrLimit : Nat := 2400
  pwrLock : Bool := false
  pwrNow : BitVec 12 := 0
  temp : SMap (BitVec 16) := []
  hot : List Nat := []
  /-- arithmetic clock of each die in MHz below 1,900 (19 R381) -/
  slowed : SMap Nat := []
  cq : SMap Word := []
  cqTail : Nat := 0
  cqHead : Nat := 0
  cpl : SMap (BitVec 256) := []
  cplTail : Nat := 0
  cplHead : Nat := 0
  fence : SMap Word := []
  fsel : Nat := 0
  refusals : SMap Word := []
  ports : SMap Port := []
  windows : SMap (Nat × Nat × Nat) := []
  cxlData : BitVec 512 := 0
  solder : SMap Solder := []
  /-- an accepted patch image's entries, until the update point (16 R312) -/
  staged : List (Nat × Solder) := []
  stagedTag : BitVec 32 := 0
  /-- bytes of the patch memory in use (DESIGN CHOICE, log 18) -/
  patchTop : Nat := 0
  rollback : Nat := 0
  deriving DecidableEq, Repr

/-- The thread that a partition chose last: its clock, whether it was chosen as a starved one (14 R269), and the address of the
slot it issued then, if it issued one (18 R361, R362). -/
structure Pick where
  tid : Nat := 0
  clock : Nat := 0
  starved : Bool := false
  pc : Option Pc := none
  deriving DecidableEq, Repr

/-- The owner entry of a scratchpad unit or a frame (16 R292, R293): 0 none, 1 Zephyr, c + 2 context
c. -/
structure Owner where
  who : Nat := 0
  ro : Bool := false
  tc : Bool := false
  deriving DecidableEq, Repr

/-- The whole device. `mem` keys are those of `memKey` in Machine/Ops.lean. -/
structure State where
  /-- the thread whose slot is being issued; every other thread is in `parked` -/
  thr : Thread := {}
  parked : List Thread := []
  mem : List Host.Cell := []
  tags : SMap (BitVec 4) := []
  swz : SMap (BitVec 3) := []
  poisonMem : List Nat := []
  owners : SMap Owner := []
  cores : SMap Core := []
  ctxs : SMap Ctx := []
  teams : SMap Team := []
  launches : SMap Launch := []
  teamBars : SMap PhaseBar := []
  spanBars : SMap PhaseBar := []
  cmds : SMap Cmd := []
  nodes : SMap Node := []
  colls : SMap Coll := []
  contribs : List Contribution := []
  /-- the context last placed for on each die (14 R395) -/
  lastPlaced : SMap Nat := []
  /-- the last choice of each partition, by 8 times the core and the partition (14 R269) -/
  picks : SMap Pick := []
  hub : Hub := {}
  /-- the model's own: who moves next, steps made, arithmetic clocks passed, fresh names -/
  turn : Turn := .idle
  tick : Nat := 0
  clock : Nat := 0
  nextId : Nat := 1
  deriving DecidableEq, Repr

/-- The device right after reset (19 R383, R384): self-test, no context, no thread, every table
clear. Registers with no stated reset value are zero (logs 2 to 5). -/
def State.reset : State := {}

/-- Why the machine stops. No meaning of this model stops: the constructor is raised by nothing (every
trap and fault of the manual is a next state), so it is safe. -/
inductive Fault where
  /-- raised by no instruction; safe -/
  | none
  deriving DecidableEq, Repr

/-- Why an instruction has no meaning. -/
inductive Refusal where
  /-- an arm of the dispatch with no meaning yet, raised by the dispatch alone; safe -/
  | notModelled (mnemonic : String)
  deriving DecidableEq, Repr

end Sys2Proof.Machine
end

