-- ==== Sys2Proof/Machine/Ops.lean ====
section
/-! DEFINITION. The named operations over maps, memory, threads, windows and the class stack; fault and
trace records; and TAKING A TRAP (17 R323-R328) with the return from one (R326, R334). -/

namespace Sys2Proof.Machine

/-! ### Sparse maps -/

/-- What key `k` of a map reads as; `d` where it lists nothing. -/
def mget {α : Type} (d : α) (m : SMap α) (k : Nat) : α :=
  match m with
  | [] => d
  | (j, x) :: r => if j = k then x else mget d r k

/-- A map without key `k`. -/
def mdel {α : Type} (m : SMap α) (k : Nat) : SMap α := m.filter (fun p => p.1 != k)

/-- Insert a key that the map does not list. -/
def mins {α : Type} (m : SMap α) (k : Nat) (x : α) : SMap α :=
  match m with
  | [] => [(k, x)]
  | (j, y) :: r => if k < j then (k, x) :: (j, y) :: r else (j, y) :: mins r k x

/-- Write key `k`; writing the default removes it. -/
def mset {α : Type} [DecidableEq α] (d : α) (m : SMap α) (k : Nat) (x : α) : SMap α :=
  if x = d then mdel m k else mins (mdel m k) k x

/-- Keys strictly rising and no value equal to the default: the canonical form. -/
def mwf {α : Type} [DecidableEq α] (d : α) (m : SMap α) : Bool :=
  match m with
  | [] => true
  | (k, x) :: r => x != d && (match r with | [] => true | (j, _) :: _ => k < j) && mwf d r

/-- A map without the keys from `lo` to `lo + n - 1`. -/
def mclear {α : Type} (m : SMap α) (lo n : Nat) : SMap α := m.filter (fun p => p.1 < lo || lo + n ≤ p.1)

/-! ### Bits and lanes -/

/-- The mask of the lanes below 64 that `p` holds of. -/
def maskOf (p : Nat → Bool) : Word :=
  (List.range 64).foldl (fun m i => if p i then m ||| ((1 : Word) <<< i) else m) 0

/-- The lanes set in a mask, ascending. -/
def lanesOf (m : Word) : List Nat := (List.range 64).filter (fun i => m.getLsbD i)

/-- The lowest lane of a mask; 64 when it is empty. -/
def lowest (m : Word) : Nat := (lanesOf m).headD 64

/-- The mask of one lane. -/
def laneBit (i : Nat) : Word := (1 : Word) <<< i

/-- The mask of the first `n` lanes. -/
def firstLanes (n : Nat) : Word := maskOf (fun i => i < n)

/-- Bytes of a number, lowest first (00 R2). -/
def toBytes (n v : Nat) : List Byte := (List.range n).map (fun i => BitVec.ofNat 8 (v >>> (8 * i)))

/-- The number some bytes hold, lowest first (00 R2). -/
def ofBytes (bs : List Byte) : Nat := bs.foldr (fun b acc => b.toNat + 256 * acc) 0

/-- The signed value of a 64-bit word. -/
def sint (w : Word) : Int := w.toInt

/-! ### Memory -/

/-- Region offsets of the one memory map: main memory by physical address, then the scratchpads, the
shared memories, swap records, saved spill stacks, host memory and the patch memory (01 R9; DESIGN CHOICE, log 4). -/
def regionBase (r : Nat) : Nat := r * 2 ^ 64
/-- Key of a byte of main memory (16 R294). -/
def mainKey (pa : Nat) : Nat := pa
/-- Key of a byte of die `d`'s scratchpad aperture (09 R169). -/
def scratchKey (d off : Nat) : Nat := regionBase 1 + d * 2 ^ 29 + off
/-- Key of a byte of a core's shared memory while it serves `ctx` (09 R168, 16 R290). -/
def sharedKey (ctx core off : Nat) : Nat := regionBase 2 + (ctx * 160 + core) * 2 ^ 20 + off
/-- Key of a byte of a swapped team's record (20 R387). -/
def recordKey (uid off : Nat) : Nat := regionBase 3 + uid * 2 ^ 20 + off
/-- Key of a byte of the saved spill stack of a group that does not stand on its core (14 R274, 17 R350). -/
def privKey (tid off : Nat) : Nat := regionBase 4 + tid * 2 ^ 16 + off
/-- Key of a byte of host memory (19 R373). -/
def hostKey (pa : Nat) : Nat := regionBase 5 + pa
/-- Key of a byte of the patch memory (16 R311). -/
def patchKey (off : Nat) : Nat := regionBase 6 + off

/-- Read one byte: an unlisted key reads zero (DESIGN CHOICE, log 4). -/
def rdByte (m : List Host.Cell) (k : Nat) : Byte := mget 0 m k
/-- Write one byte. -/
def wrByte (m : List Host.Cell) (k : Nat) (b : Byte) : List Host.Cell := mset 0 m k b
/-- Read `n` bytes from `k` upward. -/
def rdBytes (m : List Host.Cell) (k n : Nat) : List Byte := (List.range n).map (fun i => rdByte m (k + i))
/-- Read an `n`-byte little-endian number. -/
def rdNat (m : List Host.Cell) (k n : Nat) : Nat := ofBytes (rdBytes m k n)
/-- Write cells in order; a later cell of one key wins (09 R176). -/
def wrCells (m : List Host.Cell) (cs : List Host.Cell) : List Host.Cell :=
  cs.foldl (fun m c => wrByte m c.1 c.2) m
/-- The cells of some bytes at `k` upward. -/
def cellsAt (k : Nat) (bs : List Byte) : List Host.Cell := (List.range bs.length).zipWith (fun i b => (k + i, b)) bs

/-- Memory after some cells are written; a sector written whole is no longer poisoned (17 R345). -/
def State.store (s : State) (cs : List Host.Cell) : State :=
  let full (sec : Nat) : Bool := (List.range 32).all (fun i => cs.any (fun c => c.1 == 32 * sec + i))
  { s with mem := wrCells s.mem cs, poisonMem := s.poisonMem.filter (fun sec => !full sec) }

/-- The canonical form of memory (keys rising, nothing listed that an unlisted byte reads as). -/
def Memory.wf (m : List Host.Cell) : Bool := mwf 0 m

/-! ### Threads -/

/-- Real lanes of `m0`: helper lanes never count (01 R17). -/
def Thread.active (t : Thread) : Word := t.m0 &&& ~~~ t.help

/-- Mask register `n` (01 R19). -/
def Thread.mask (t : Thread) (n : Nat) : Word := if n = 0 then t.m0 else mget 0 t.masks n

/-- The selected lanes S: the predicate of 03 R56 over `m0`. -/
def Thread.sel (t : Thread) (f : Fields) : Word :=
  let m := t.mask f.pm.toNat
  if f.neg then t.m0 &&& ~~~ m else t.m0 &&& m

/-- Every thread of the device. -/
def State.threads (s : State) : List Thread :=
  (if s.thr.status == .absent then [] else [s.thr]) ++ s.parked

/-- The thread of an identity. -/
def State.thread? (s : State) (tid : Nat) : Option Thread := s.threads.find? (fun t => t.id == tid)

/-- Put a thread among the parked ones, kept by rising identity. -/
def parkIn (ts : List Thread) (t : Thread) : List Thread :=
  match ts with
  | [] => [t]
  | u :: r => if t.id < u.id then t :: u :: r else u :: parkIn r t

/-- Make the thread of an identity the issuing one; no change when there is none (DESIGN CHOICE, log 73). -/
def State.focus (s : State) (tid : Nat) : State :=
  if s.thr.id == tid && s.thr.status != .absent then s
  else match s.parked.find? (fun t => t.id == tid) with
    | none => s
    | some t =>
      let rest := s.parked.filter (fun u => u.id != tid)
      { s with thr := t, parked := if s.thr.status == .absent then rest else parkIn rest s.thr }

/-- Change every thread. -/
def State.mapThreads (s : State) (g : Thread → Thread) : State :=
  { s with thr := if s.thr.status == .absent then s.thr else g s.thr, parked := s.parked.map g }

/-- Change the thread of an identity. -/
def State.onThread (s : State) (tid : Nat) (g : Thread → Thread) : State :=
  s.mapThreads (fun t => if t.id == tid then g t else t)

/-- Change the issuing thread. -/
def State.modThr (s : State) (g : Thread → Thread) : State := { s with thr := g s.thr }

/-- Remove the issuing thread. -/
def State.dropThr (s : State) : State := { s with thr := {} }

/-! ### Parts of the device -/

def State.core (s : State) (n : Nat) : Core := mget {} s.cores n
def State.setCore (s : State) (n : Nat) (c : Core) : State := { s with cores := mset {} s.cores n c }
def State.ctx (s : State) (n : Nat) : Ctx := mget {} s.ctxs n
def State.hasCtx (s : State) (n : Nat) : Bool := s.ctxs.any (fun p => p.1 == n)
/-- A context is kept even when every field of it is the default's: its key is listed. -/
def State.setCtx (s : State) (n : Nat) (c : Ctx) : State := { s with ctxs := mins (mdel s.ctxs n) n c }
def State.modCtx (s : State) (n : Nat) (g : Ctx → Ctx) : State :=
  if s.hasCtx n then s.setCtx n (g (s.ctx n)) else s
def State.team (s : State) (n : Nat) : Team := mget {} s.teams n
def State.setTeam (s : State) (n : Nat) (t : Team) : State := { s with teams := mins (mdel s.teams n) n t }
def State.modTeam (s : State) (n : Nat) (g : Team → Team) : State :=
  if s.teams.any (fun p => p.1 == n) then s.setTeam n (g (s.team n)) else s
def State.launch (s : State) (n : Nat) : Launch := mget {} s.launches n
def State.setLaunch (s : State) (n : Nat) (l : Launch) : State :=
  { s with launches := mins (mdel s.launches n) n l }
def State.cmd (s : State) (n : Nat) : Cmd := mget {} s.cmds n
def State.hasCmd (s : State) (n : Nat) : Bool := s.cmds.any (fun p => p.1 == n)
def State.setCmd (s : State) (n : Nat) (c : Cmd) : State := { s with cmds := mins (mdel s.cmds n) n c }
def State.modCmd (s : State) (n : Nat) (g : Cmd → Cmd) : State :=
  if s.hasCmd n then s.setCmd n (g (s.cmd n)) else s
def State.node (s : State) (n : Nat) : Node := mget {} s.nodes n
def State.setNode (s : State) (n : Nat) (x : Node) : State := { s with nodes := mset {} s.nodes n x }
def State.modHub (s : State) (g : Hub → Hub) : State := { s with hub := g s.hub }
/-- A name no thing of the device has yet (DESIGN CHOICE, log 73). -/
def State.fresh (s : State) : Nat × State := (s.nextId, { s with nextId := s.nextId + 1 })

/-- A number below `bound` that no thing of its kind has: any choice serves (DESIGN CHOICE, log 10). -/
def freshNumber (seed bound : Nat) (used : List Nat) : Nat :=
  let w := Config.choice seed % bound
  if used.contains w then ((List.range (used.length + 1)).find? (fun n => !used.contains n)).getD 0 else w

/-- The die of a package core number (01 R5). -/
def dieOf (core : Nat) : Nat := core / 40

/-- CTXID bits (16 R289). -/
def Ctx.conf (c : Ctx) : Bool := c.word.getLsbD 15
def Ctx.tagw (c : Ctx) : Bool := c.word.getLsbD 14
def Ctx.regLayout (c : Ctx) : Bool := c.word.getLsbD 13
/-- SPILLSZ (09 R170). -/
def Ctx.spillSize (c : Ctx) : Nat := if c.word.getLsbD 12 then 65536 else 32768

/-! ### Registers and windows -/

/-- `s`n of the current window (04 R68). -/
def Thread.sReg (t : Thread) (n : Nat) : Word := mget 0 t.files.s (t.wins.s.wb + n)
/-- `a`n of the current window. -/
def Thread.aReg (t : Thread) (n : Nat) : Affine := mget {} t.files.a (t.wins.a.wb + n)
/-- Key of lane L of `v`n of the current window. -/
def Thread.vKey (t : Thread) (n lane : Nat) : Nat := 64 * (t.wins.v.wb + n) + lane
/-- Lane L of `v`n of the current window. -/
def Thread.vReg (t : Thread) (n lane : Nat) : LaneWord := mget 0 t.files.v (t.vKey n lane)
/-- Condition `c`n. -/
def Thread.cond (t : Thread) (n : Nat) : Bool := t.conds.getLsbD n

/-- Lane L of an affine register (01 R20). -/
def Affine.at (x : Affine) (lane : Nat) : Word := x.base + x.stride.signExtend 64 * BitVec.ofNat 64 lane

/-- Mark or clear one key of a poison list, kept rising. -/
def setKey (l : List Nat) (k : Nat) (on : Bool) : List Nat :=
  let r := l.filter (fun j => j != k)
  if on then (r.filter (fun j => j < k)) ++ [k] ++ (r.filter (fun j => k < j)) else r

/-- One register write of an instruction's result. -/
def Thread.write (t : Thread) (w : RegWrite) : Thread :=
  match w with
  | .s n x p => { t with files := { t.files with s := mset 0 t.files.s n x },
                         poison := { t.poison with s := setKey t.poison.s n p } }
  | .a n x p => { t with files := { t.files with a := mset {} t.files.a n x },
                         poison := { t.poison with a := setKey t.poison.a n p } }
  | .v k x p => { t with files := { t.files with v := mset 0 t.files.v k x },
                         poison := { t.poison with v := setKey t.poison.v k p } }
  | .m n sel bits =>
      if n = 0 then t
      else { t with masks := mset 0 t.masks n ((mget 0 t.masks n &&& ~~~ sel) ||| (bits &&& sel)) }
  | .c n b => { t with conds := if b then t.conds ||| ((1 : BitVec 8) <<< n)
                                else t.conds &&& ~~~ ((1 : BitVec 8) <<< n) }
  | .shape n x => { t with tiles := { t.tiles with shape := mset 0 t.tiles.shape n x } }
  | .tile k b => { t with tiles := { t.tiles with t := mset 0 t.tiles.t k b } }
  | .acc k x => { t with tiles := { t.tiles with z := mset 0 t.tiles.z k x } }
  | .row isAcc r p => { t with poison :=
      if isAcc then { t.poison with z := setKey t.poison.z r p } else { t.poison with t := setKey t.poison.t r p } }

/-- Register writes in order. -/
def Thread.writes (t : Thread) (ws : List RegWrite) : Thread := ws.foldl Thread.write t

/-- Raise flags in FPSTAT by OR (06 R110). -/
def Thread.raiseFlags (t : Thread) (fl : BitVec 5) : Thread := { t with fpstat := t.fpstat ||| fl }

/-- The windows as an entry saves them (04 R72). -/
def Wins.bases (w : Wins) : Bases :=
  { swb := w.s.wb, sws := w.s.ws, awb := w.a.wb, aws := w.a.ws, vwb := w.v.wb, vws := w.v.ws }

/-- Move one window; the lowest resident slots spill, or spilled slots of the window come back
(04 R70). -/
def Win.move (w : Win) (wb ws : Nat) : Win :=
  { w with wb := wb, ws := ws, low := max (min w.low wb) (wb + ws - w.alloc) }

/-- Move all three windows to saved bases (04 R81, 17 R326). -/
def Wins.restore (w : Wins) (b : Bases) : Wins :=
  { s := w.s.move b.swb b.sws, a := w.a.move b.awb b.aws, v := w.v.move b.vwb b.vws }

/-- Bytes of the spill area in use (04 R70, R73). -/
def Thread.spill (t : Thread) : Nat :=
  4 * t.width * t.wins.v.low + 8 * t.wins.s.low + 16 * t.wins.a.low + 64 * (t.stack.length - 16)

/-- Whether the spill area holds what the thread needs; a hail thread has none, in a routine that serves it as anywhere (04
R70, 16 R311). -/
def Thread.spillFits (t : Thread) : Bool :=
  if t.name.hail then t.spill == 0 else t.spill ≤ 32768

/-- Push a class-stack entry; `none` when the spill area would overflow (04 R73). -/
def Thread.push (t : Thread) (e : Entry) : Option Thread :=
  let t' := { t with stack := e :: t.stack }
  if t'.spillFits then some t' else none

/-- Whether a write to uniform slot `n` breaks a class loop's fence (04 R76). -/
def Thread.fenced (t : Thread) (n : Nat) : Bool :=
  t.stack.any (fun e => match e with
    | .cls c => n < c.dest && t.m0 != c.outer
    | _ => false)

/-- Whether slot `n` lies below the DEST of any open class entry (04 R83). -/
def Thread.belowFence (t : Thread) (n : Nat) : Bool :=
  t.stack.any (fun e => match e with | .cls c => n < c.dest | _ => false)

/-- Whether the group holds a trap entry of a mode (17 R328). -/
def Thread.holds (t : Thread) (m : Mode) : Bool :=
  t.stack.any (fun e => match e with | .trap x => x.mode == m | _ => false)

/-- Whether the thread is in supervisor mode: a supervisor entry is the innermost trap entry (17
R325). -/
def Thread.supervisor (t : Thread) : Bool :=
  match t.stack.find? (fun e => match e with | .trap _ => true | _ => false) with
  | some (.trap x) => x.mode == .supervisor
  | _ => false

/-! ### Records -/

/-- A source number (01 R26) (DEDUCED, log 40). -/
def sourceNo (core part unit : Nat) : BitVec 16 :=
  BitVec.ofNat 16 (core / 40 * 2 ^ 13 + core % 40 * 2 ^ 7 + part * 16 + unit)

/-- The source number of a thread's slot (01 R26) (DEDUCED, log 40). -/
def Thread.source (t : Thread) : BitVec 16 :=
  sourceNo t.place.core t.place.part (if t.name.hail then 8 + t.place.slot else t.place.slot)

/-- Concatenate fields given as (bytes, value), lowest first, to one number. -/
def packFields (fs : List (Nat × Nat)) : Nat :=
  (fs.foldl (fun acc f => (acc.1 + f.2 % 2 ^ (8 * f.1) * 2 ^ (8 * acc.2), acc.2 + f.1)) (0, 0)).1

/-- A fault record (17 R347). -/
def faultRecord (s : State) (tr : TrapInfo) (outcome : Nat) (nm : Name) (src : BitVec 16) (lanes : Word)
    (pc : Pc) (tlen : Nat) : BitVec 512 :=
  let conf := (s.ctx nm.ctx).conf
  let info := tr.code.toNat * 2 ^ 16 + tr.flags.toNat * 2 ^ 11 + (if tr.half then 16 else 0) + tlen
  BitVec.ofNat 512 (packFields
    [(1, tr.cause), (1, tr.under), (1, tr.orig), (1, outcome), (1, nm.ctx),
     (1, (if conf then 1 else 0) + (if tr.async then 2 else 0) + (if tr.half then 4 else 0) +
        (if nm.hail then 8 else 0)),
     (2, src.toNat), (8, s.hub.gts.toNat), (4, nm.launch), (4, nm.team), (2, nm.group), (2, nm.burst),
     (2, s.hub.devnum.toNat), (2, 0), (8, lanes.toNat), (8, pc.toNat), (4, tr.seq.toNat), (4, info),
     (8, tr.addr.toNat)])

/-- Insert a record after those before it in the order of 01 R27: time first, then source number. `after x` says that record
`x` of the same time comes after the new one. -/
def insertRecord {α : Type} (after : α → Bool) (l : List α) (r : α) : List α :=
  match l with
  | [] => [r]
  | x :: t => if after x then r :: x :: t else x :: insertRecord after t r

/-- Whether fault record `x` comes after one of its own time (01 R27, 17 R347). -/
def ringAfter (r x : BitVec 512) : Bool :=
  x.extractLsb' 64 64 == r.extractLsb' 64 64 && r.extractLsb' 48 16 < x.extractLsb' 48 16

/-- Write a record to the context's fault ring, in the order of 01 R27; a full ring loses its oldest (17 R348). -/
def State.ringPut (s : State) (ctx : Nat) (r : BitVec 512) : State :=
  s.modCtx ctx (fun c =>
    if c.ring.length < 1024 then { c with ring := insertRecord (ringAfter r) c.ring r }
    else { c with ring := insertRecord (ringAfter r) c.ring.tail r, ringLost := c.ringLost + 1 })

/-- Table index parts of a generic address (16 R294). -/
def l1Index (va : Nat) : Nat := va / 2 ^ 42
def l2Index (va : Nat) : Nat := va / 2 ^ 29
def leafIndex (va : Nat) : Nat := va / 2 ^ 16

/-- FRAME of a table entry (16 R295-R297). -/
def frameOf (e : Word) : Nat := (e.extractLsb' 16 22).toNat

/-- Whether a level-1, level-2 or leaf entry has only legal bits (16 R295-R297, R298 step 3). -/
def l1Legal (e : Word) : Bool := e &&& 0x0000003FFFFF0001 == e
def l2Legal (e : Word) : Bool := e &&& 0x01FFFF3FFFFF000F == e && (e.extractLsb' 1 3).toNat < 4
def leafLegal (e : Word) : Bool := e &&& 0x0000003FFFFF003F == e

/-- The owner number of a context in owner entries (16 R292). -/
def ownerCtx (ctx : Nat) : Nat := ctx + 2
/-- Key of a frame's owner entry, and of a scratchpad unit's. -/
def frameUnit (f : Nat) : Nat := f
def scratchUnit (die off : Nat) : Nat := (scratchKey die off) / 2 ^ 16

/-- Translation of a global-window address for a context (16 R298 steps 3 to 5): the cause, or the
physical address and the leaf entry. -/
def translate (s : State) (ctx va : Nat) : Except Nat (Nat × Word) :=
  let c := s.ctx ctx
  let e1 := mget 0 c.l1 (l1Index va)
  let e2 := mget 0 c.l2 (l2Index va)
  let e := mget 0 c.leaf (leafIndex va)
  if !e1.getLsbD 0 || !l1Legal e1 || !e2.getLsbD 0 || !l2Legal e2 || !leafLegal e then .error 0x39
  else if !e.getLsbD 0 then (if e.getLsbD 5 then .error 0x3A else .error 0x39)
  else if (mget {} s.owners (frameUnit (frameOf e))).who != ownerCtx ctx then .error 0x39
  else .ok (frameOf e * 65536 + va % 65536, e)

/-- A trace record (18 R360). -/
def traceRecord (s : State) (kind stall : Nat) (nm : Name) (src : BitVec 16) (code pc value : Nat) : Nat :=
  packFields [(1, kind), (1, nm.ctx), (2, src.toNat), (2, s.hub.devnum.toNat), (1, stall), (1, 0),
    (8, s.hub.gts.toNat), (4, nm.launch), (4, nm.team), (2, nm.group), (2, nm.burst), (2, code), (2, 0),
    (8, pc), (8, value)]

/-- The key of a byte that Zephyr writes for a context: translation, ownership and, where TC is set, the tag that the pointer
presents; RO does not bind it (16 R304). -/
def firmwareKey (s : State) (ctx : Nat) (p : Word) : Option Nat :=
  match translate s ctx (p.extractLsb' 0 55).toNat with
  | .error _ => none
  | .ok (pa, e) =>
    if e.getLsbD 3 && mget 0 s.tags (mainKey pa / 32) != p.extractLsb' 60 4 then none else some (mainKey pa)

/-- Whether trace record `x` comes after one of its own time (01 R27, 18 R360). -/
def traceAfter (r x : Nat) : Bool := r / 2 ^ 16 % 65536 < x / 2 ^ 16 % 65536

/-- The records that bear the time of a new record, it among them, in the order of 01 R27 (18 R360). -/
def withRecent (recent : List Nat) (r : Nat) : List Nat :=
  if recent.all (fun x => x / 2 ^ 64 % 2 ^ 64 == r / 2 ^ 64 % 2 ^ 64) then insertRecord (traceAfter r) recent r else [r]

/-- Enter a record into the context's trace buffer, in the order of 01 R27; a record dropped or overwritten counts as lost
(18 R358-R360). -/
def State.tracePut (s : State) (ctx rec : Nat) : State :=
  let o := (s.ctx ctx).obs
  let lose (s : State) : State :=
    s.modCtx ctx (fun c => { c with counters := { c.counters with lost := c.counters.lost + 1 } })
  if o.cap = 0 || (o.count ≥ o.cap && !o.word.getLsbD 0) then lose s
  else
    let rs := withRecent o.recent rec
    let rs := rs.drop (rs.length - o.cap)
    let first := o.count + 1 - rs.length
    let cells := ((List.range rs.length).flatMap (fun j => (List.range 48).map (fun i => (j, i)))).mapM (fun x =>
      (firmwareKey s ctx (o.buf + BitVec.ofNat 64 (48 * ((first + x.1) % o.cap) + x.2))).map (fun k =>
        (k, (BitVec.ofNat 8 (rs.getD x.1 0 >>> (8 * x.2)) : Byte))))
    match cells with
    | none => lose s
    | some cs =>
      let s := (s.store cs).modCtx ctx (fun c => { c with obs := { c.obs with count := o.count + 1, recent := rs } })
      if o.count ≥ o.cap then lose s else s

/-! ### Solder (16 R308-R313) -/

/-- Fields of CTRLn (16 R308). -/
def Solder.en (x : Solder) : Bool := x.ctrl.getLsbD 31
def Solder.confOk (x : Solder) : Bool := x.ctrl.getLsbD 30
def Solder.causeKind (x : Solder) : Bool := x.ctrl.getLsbD 29
def Solder.act (x : Solder) : Nat := (x.ctrl.extractLsb' 27 2).toNat
def Solder.prio (x : Solder) : Nat := (x.ctrl.extractLsb' 24 3).toNat
def Solder.cause (x : Solder) : Nat := (x.ctrl.extractLsb' 17 7).toNat
def Solder.minor (x : Solder) : Nat := (x.ctrl.extractLsb' 9 8).toNat

/-- Slot `n` matches input `x` for a thread of context `ctx` (16 R309, R313). -/
def solderHit (s : State) (ctx : Nat) (causeKind : Bool) (x : Word) (n : Nat) : Bool :=
  let sl := mget {} s.hub.solder n
  let c := s.ctx ctx
  sl.en && sl.causeKind == causeKind && sl.ctxMask.getLsbD ctx && (!c.conf || c.frozen.contains n) &&
  ((x ^^^ sl.mtch) &&& sl.mask) == 0

/-- The slot chosen: the highest PRIO, then the lowest number (16 R309). -/
def solderPick (s : State) (ctx : Nat) (causeKind : Bool) (x : Word) : Option Solder :=
  let hits := (List.range 32).filter (solderHit s ctx causeKind x)
  let best := hits.foldl (fun b n =>
    match b with
    | none => some n
    | some m => if (mget {} s.hub.solder m).prio < (mget {} s.hub.solder n).prio then some n else some m) none
  best.map (mget {} s.hub.solder)

/-! ### Barriers, waits and ends of threads -/

/-- Key of a team barrier, and of a span barrier (10 R207). -/
def teamBarKey (uid k : Nat) : Nat := uid * 16 + k
def spanBarKey (launch span k : Nat) : Nat := (launch * 2 ^ 32 + span) * 4 + k

/-- Groups of a team that have not retired. -/
def liveGroups (s : State) (uid : Nat) : Nat := (s.team uid).live

/-- Participants of a span barrier that have not retired: the groups of every team of the span (10
R207). -/
def liveSpan (s : State) (launch span : Nat) : Nat :=
  (s.teams.filter (fun p => p.2.launch == launch && p.2.state != .retired &&
    p.2.index / p.2.kernel.span == span)).foldl (fun n p => n + p.2.live) 0

/-- End a group's wait: it continues with the next slot. -/
def Thread.wake (t : Thread) : Thread :=
  match t.status with
  | .waiting _ => { t with status := .ready, sched := { t.sched with waitSince := 0 } }
  | _ => t

/-- Complete phases whose arrivals equal the participants not retired (10 R207); `uid` is the team
whose arrival or retirement is looked at. -/
def State.barPhases (s : State) (uid : Nat) : State :=
  let tm := s.team uid
  let span := tm.index / tm.kernel.span
  let doTeam (s : State) (k : Nat) : State :=
    let b := mget {} s.teamBars (teamBarKey uid k)
    if b.count != 0 && b.count ≥ liveGroups s uid then
      { s with teamBars := mset {} s.teamBars (teamBarKey uid k) { phase := b.phase + 1, count := 0 } }.mapThreads
        (fun t => if t.name.uid == uid && t.status == Status.waiting (Wait.bar k b.phase) then t.wake else t)
    else s
  let doSpan (s : State) (k : Nat) : State :=
    let b := mget {} s.spanBars (spanBarKey tm.launch span k)
    if b.count != 0 && b.count ≥ liveSpan s tm.launch span then
      { s with spanBars := mset {} s.spanBars (spanBarKey tm.launch span k)
                 { phase := b.phase + 1, count := 0 } }.mapThreads
        (fun t =>
          let ot := s.team t.name.uid
          if ot.launch == tm.launch && ot.index / ot.kernel.span == span &&
             t.status == Status.waiting (Wait.sbar k b.phase) then t.wake else t)
    else s
  (List.range 4).foldl doSpan ((List.range 16).foldl doTeam s)

/-- The transaction barrier of index `i` of a core. -/
def State.bar (s : State) (core i : Nat) : TxBar := mget {} (s.core core).bars i
def State.setBar (s : State) (core i : Nat) (b : TxBar) : State :=
  s.setCore core { s.core core with bars := mset {} (s.core core).bars i b }

/-- The fields of a barrier reference (10 R210). -/
def refGen (r : Word) : Nat := (r.extractLsb' 32 32).toNat
def refCore (r : Word) : Nat := (r.extractLsb' 16 8).toNat
def refIndex (r : Word) : Nat := (r.extractLsb' 0 8).toNat
def mkRef (gen core i : Nat) : Word := BitVec.ofNat 64 (gen * 2 ^ 32 + core * 2 ^ 16 + i)

/-- A reference is valid for a team on a core (10 R210); one with a bit of a Reserved field set matches no barrier, which holds
zero there (DEDUCED, log 78). -/
def refValid (s : State) (uid core : Nat) (r : Word) : Bool :=
  let b := s.bar core (refIndex r)
  r == mkRef (refGen r) (refCore r) (refIndex r) && refCore r == core && refGen r == b.gen && b.refs != 0 &&
  b.owner == uid && b.held

/-- Take one pending arrival away; phase changes at zero (10 R211). -/
def TxBar.arrive (b : TxBar) (n : Nat) : TxBar :=
  if b.pend - n = 0 then { b with pend := 0, phase := (b.phase + 1) % 2 ^ 32 } else { b with pend := b.pend - n }

/-- Release one hold on a barrier; a barrier with none is free (10 R211). -/
def TxBar.release (b : TxBar) : TxBar := { b with refs := b.refs - 1 }

/-- End a TXWAIT: the PC moves past it (10 R211). -/
def Thread.endTx (t : Thread) : Thread := { t.wake with pc := t.pc + 8 }

/-- A wake condition of a team holds: a swapped team is woken, and one that is being swapped out will be (14 R275, R278). -/
def Team.stir (tm : Team) : Team :=
  match tm.state with
  | .swapped => { tm with state := .woken }
  | .swapping => { tm with wakeDue := true }
  | _ => tm

/-- The waiters of a core's barrier `i`, which stands as `b`, go on when its phase or pending count lets them, and a swapped
team of it is woken; only the team that owns a barrier waits on it (10 R210, R212, 14 R275). A group to which a cause is due
abandons its wait and never completes it (17 R323) (DEDUCED, log 54). -/
def State.txWakeWith (s : State) (core i : Nat) (b : TxBar) : State :=
  let goes (t : Thread) : Bool := match t.status with
    | .waiting (.tx j p) =>
      t.name.uid == b.owner && t.place.core == core && j == i && (b.phase != p || b.pend == 0)
    | _ => false
  if (s.team b.owner).state == .resident then s.mapThreads (fun t => if goes t && t.held.isEmpty then t.endTx else t)
  else if s.threads.any goes then s.modTeam b.owner Team.stir
  else s

/-- The same for a barrier of the context that a core serves. -/
def State.txWake (s : State) (core i : Nat) : State := s.txWakeWith core i (s.bar core i)

/-- The completion arrival of an engine command on its barrier (10 R211). -/
def State.complete (s : State) (core : Nat) (r : Word) : State :=
  if r == 0 then s
  else
    let b := s.bar core (refIndex r)
    let b := if b.pend > 0 then b.arrive 1 else b
    (s.setBar core (refIndex r) b.release).txWake core (refIndex r)

/-- An ended command releases its hold and makes no arrival (17 R343). -/
def State.abandonBar (s : State) (core : Nat) (r : Word) : State :=
  if r == 0 then s else s.setBar core (refIndex r) (s.bar core (refIndex r)).release

/-- Whether a pending instruction is a load, atomic or tile load in flight (09 R179). -/
def Pend.loads (p : Pend) : Bool := match p.work with | .result _ _ _ | .done => false | _ => true

/-- Whether a WAITLD, FENCE or PUBL wait finds its condition met (09 R179, 10 R206, R213): the thread's
older loads and stores are performed and the engine commands it waits for have ended, a read of which a thread trapped among
them; a release fence waits for no collective and no graph node (DEDUCED, log 54). -/
def waitOver (s : State) (t : Thread) (w : Wait) : Bool :=
  let storesDone (ord : Nat) := t.queue.all (fun e => ord ≤ e.ord)
  let loadsDone (ord : Nat) := t.pending.all (fun p => !p.loads || ord ≤ p.ord)
  match w with
  | .ld n => (t.pending.filter Pend.loads).length ≤ n
  | .fence rel _ ord before =>
    loadsDone ord && (!rel || (storesDone ord &&
      s.cmds.all (fun p => !(p.2.tid == t.id && p.2.bar == 0 && p.1 < before && p.2.node.isNone &&
        !p.2.done && !p.2.failed && !p.2.spoiled))))
  | .publ entry ord before =>
    storesDone ord && loadsDone ord && s.cmds.all (fun p => !(p.2.tid == t.id && p.1 < before && !p.2.sectorsDone &&
      !p.2.failed && (match p.2.work with | .copy _ _ _ (some e) => e == entry | _ => false)))
  | _ => false

/-- The publish point: flip BANK of a handle table entry (10 R213, 16 R301). -/
def State.publish (s : State) (ctx entry : Nat) : State :=
  s.modCtx ctx (fun c =>
    let k := 4 * entry + 3
    { c with handles := mset 0 c.handles k (mget 0 c.handles k ^^^ (16 : Word)) })

/-- End every WAITLD, FENCE and PUBL wait whose condition holds, with its effect; a cause that is due to the
group abandons the wait first (10 R206, R213). -/
def State.endWaits (s : State) : State :=
  s.threads.foldl (fun s t =>
    match t.status with
    | .waiting w =>
      if waitOver s t w && t.held.isEmpty && (t.name.hail || (s.team t.name.uid).state == .resident) then
        let s := match w with
          | .publ e _ _ => s.publish t.name.ctx e
          | _ => s
        s.onThread t.id (fun t => { t.wake with pc := t.pc + 8 })
      else s
    | _ => s) s

/-! ### Performing stores and loads of a thread (09 R172) -/

/-- Perform the oldest entry of a store queue. -/
def State.performEnt (s : State) (e : StoreEnt) : State :=
  let s := s.store e.bytes
  { s with tags := e.tags.foldl (fun m p => mset 0 m p.1 p.2) s.tags }

/-- The byte a load of place `ord` reads at `k`: the youngest older store of its own queue, else memory
(09 R172). -/
def loadByte (s : State) (t : Thread) (ord k : Nat) : Byte :=
  let own := (t.queue.filter (fun e => e.ord < ord)).foldl (fun b e =>
    e.bytes.foldl (fun b c => if c.1 == k then some c.2 else b) b) none
  own.getD (rdByte s.mem k)

/-- The tag of granule `g` for a reader that sees some queued stores: the youngest of them, else memory (09 R172, R180) (DEDUCED, log 50). -/
def tagSeen (s : State) (q : List StoreEnt) (g : Nat) : BitVec 4 :=
  (q.foldl (fun b e => e.tags.foldl (fun b c => if c.1 == g then some c.2 else b) b) none).getD (mget 0 s.tags g)

/-- The tag a load of place `ord` reads (09 R180). -/
def loadTag (s : State) (t : Thread) (ord g : Nat) : BitVec 4 := tagSeen s (t.queue.filter (fun e => e.ord < ord)) g

/-- Whether any byte from `k` lies in a poisoned sector of memory that no own older store covers. -/
def loadPoison (s : State) (t : Thread) (ord k n : Nat) : Bool :=
  (List.range n).any (fun i => s.poisonMem.contains ((k + i) / 32) &&
    !(t.queue.any (fun e => e.ord < ord && e.bytes.any (fun c => c.1 == k + i))))

/-- The condition codes of ICMP over integers (07 R122). -/
def intCond (cc : Nat) (a b : Int) : Bool :=
  match cc with
  | 0 => a == b
  | 1 => a != b
  | 2 => a < b
  | 3 => a ≤ b
  | 4 => b < a
  | _ => b ≤ a

/-- Whether the location a WAITV waits for satisfies it now (10 R209). -/
def waitvHolds (s : State) (t : Thread) (key size cc : Nat) (signed : Bool) (value : Word) : Bool :=
  let bs := (List.range size).map (fun i => loadByte s t t.memOrd (key + i))
  let w := BitVec.ofNat (8 * size) (ofBytes bs)
  let v := BitVec.ofNat (8 * size) value.toNat
  if signed then intCond cc w.toInt v.toInt else intCond cc w.toNat v.toNat

/-- Every waiting WAITV reads its location again; a wait that is satisfied ends, unless a cause is due to its group (17 R323;
DEDUCED, log 54), and a swapped team is woken (10 R209, 14 R275). -/
def State.reread (s : State) (only : Option Nat) : State :=
  s.threads.foldl (fun s t =>
    match t.status with
    | .waiting (.val key size cc sg v) =>
      if (only.isNone || only == some t.id) && waitvHolds s t key size cc sg v then
        if (s.team t.name.uid).state == .resident then
          if t.held.isEmpty then s.onThread t.id (fun t => { t.wake with pc := t.pc + 8 }) else s
        else s.modTeam t.name.uid Team.stir
      else s
    | _ => s) s

/-- Extend a loaded or atomic value of type `et` to a register (06 R100). -/
def extendEt (et : Nat) (v : Nat) : Word :=
  let b := 8 * etBytes et
  if etIsInt et && etSigned et then (BitVec.ofInt 64 ((v : Int) - (if v ≥ 2 ^ (b - 1) then 2 ^ b else 0)))
  else BitVec.ofNat 64 v

/-- Register writes of one loaded value: into `s`, `a`, or a lane of `v` (09 R175). -/
def loadWrite (d fc lane : Nat) (w : Word) (p : Bool) : RegWrite :=
  if fc = 0 then .s d w p else if fc = 1 then .a d { base := w, stride := 0 } p
  else .v (64 * d + lane) (w.setWidth 32) p

/-! ### The class loop (04 R74, R75) -/

/-- The 32-bit key of lane L under a class entry (04 R74). -/
def keyOf (t : Thread) (k : Key) (lane : Nat) : LaneWord :=
  match k with
  | .slot n => mget 0 t.files.v (64 * n + lane)
  | .aff b st => (Affine.at { base := b, stride := st } lane).setWidth 32
  | .uni w => w.setWidth 32
  | .mask w => if w.getLsbD lane then 1 else 0

/-- The smallest unsigned key over some lanes. -/
def minKey (t : Thread) (k : Key) (ls : List Nat) : LaneWord :=
  ls.foldl (fun m l => let x := keyOf t k l; if x.toNat < m.toNat then x else m) (keyOf t k (ls.headD 0))

/-- start_next_class of 04 R74: the entry is the top of `rest` (DEDUCED, log 68). -/
def startNextClass (t : Thread) (e : ClassEntry) (rest : List Entry) : Thread :=
  let p := lanesOf (e.pend &&& ~~~ t.help)
  let k := match e.order with
    | .first => keyOf t e.key (p.headD 0)
    | .asc => minKey t e.key p
    | .mask => if p.any (fun l => keyOf t e.key l == 1) then 1 else 0
  let c := maskOf (fun l => e.pend.getLsbD l && keyOf t e.key l == k)
  let t := t.write (.s e.dest (k.setWidth 64) false)
  { t with stack := .cls { e with pend := e.pend &&& ~~~ c } :: rest, m0 := c, pc := e.body }

/-- Restore windows and `m0` from a trap entry and leave its mode (17 R326). -/
def Thread.leaveTrap (t : Thread) (e : TrapEntry) (rest : List Entry) : Thread :=
  { t with wins := t.wins.restore e.bases, m0 := e.savedM0, stack := rest,
           service := if e.mode == .supervisor then none else t.service,
           routine := if e.mode == .emulation then e.outer else t.routine }

/-- How settle ends (04 R75): the thread runs on, has nothing left, or halts for the debugger. -/
inductive Settled where
  | run (t : Thread) | over (t : Thread) | halt (t : Thread)
  deriving DecidableEq, Repr

/-- settle of 04 R75 over a class stack; focus entries by 18 R366, trap entries by 17 R326. -/
def settleOver (t : Thread) (st : List Entry) : Settled :=
  match st with
  | [] => .over { t with stack := [] }
  | .frame _ b :: r => settleOver { t with wins := t.wins.restore b } r
  | .focus e :: r =>
    if !e.second then
      if (e.pend &&& ~~~ t.help) != 0 then
        .run { t with stack := .focus { e with done := 0, jpc := 0, second := true } :: r,
                      m0 := e.pend, pc := e.fpc }
      else settleOver { t with m0 := 0 } r
    else if e.done != 0 && e.jpc != t.pc then .halt { t with stack := .focus e :: r }
    else
      let t := { t with m0 := t.m0 ||| e.done }
      if t.active != 0 then .run { t with stack := r } else settleOver t r
  | .trap e :: r =>
    let t := t.leaveTrap e r
    if t.active != 0 then .run { t with pc := e.tpc } else settleOver t r
  | .cls e :: r =>
    if (e.pend &&& ~~~ t.help) != 0 then .run (startNextClass t e r)
    else
      let t := { t with m0 := e.outer }
      if t.active != 0 then .run { t with stack := r, pc := e.fin } else settleOver t r

/-! ### Ending threads (04 R88, 09 R194, R196, 17 R327) -/

/-- A group with nothing left retires: outstanding loads are discarded, its store queue drains before
the slot is freed (04 R88). -/
def Thread.retire (t : Thread) : Thread :=
  { t with status := .retiring, m0 := 0, stack := [], pending := [], held := [], routine := none,
           service := none }

/-- A hail thread ends: its stores are performed, its flags reach the issuing group, its slot is freed
(09 R194; DEDUCED, log 19). -/
def State.dropHail (s : State) : State :=
  let t := s.thr
  let s := (t.queue.foldl State.performEnt s).reread none
  let s := s.dropThr
  let s := s.onThread t.name.owner (fun g => g.raiseFlags t.fpstat)
  s.modCmd t.name.cmd (fun c => { c with running := c.running - 1 })

/-- A hail thread ends as by `HRET` (09 R194). -/
def State.endHail (s : State) : State := s.dropHail.endWaits

/-- The lanes and length that 17 R324 records. -/
def trapLanes (t : Thread) (tr : TrapInfo) : Word :=
  match tr.lanes with
  | some m => m &&& ~~~ t.help
  | none => t.active

/-- Set the trap registers (17 R324, R329-R332). -/
def Thread.setTrap (t : Thread) (tr : TrapInfo) (len : Nat) : Thread :=
  { t with trap := { t.trap with
      cause := BitVec.ofNat 64 ((if tr.async then 2 ^ 23 else 0) + tr.under * 2 ^ 16 + tr.orig * 2 ^ 8 + tr.cause)
      tpc := t.pc.setWidth 64
      mask := trapLanes t tr
      addr := tr.addr
      info := BitVec.ofNat 64 (tr.seq.toNat * 2 ^ 32 + tr.code.toNat * 2 ^ 16 + tr.flags.toNat * 2 ^ 11 +
        (if tr.half then 16 else 0) + len)
      site := tr.site.setWidth 64 } }

/-- Hand a group to the debugger (17 R323, 18 R365): it halts, and a report is written under DBGREC (DEDUCED, log 32). -/
def State.debugHalt (s : State) (tr : TrapInfo) (len : Nat) : State :=
  let t := s.thr.setTrap { tr with code := 0 } len
  let s := { s with thr := { t with status := .halted, step := false, stepDone := false, haltReq := false } }
  if (s.ctx t.name.ctx).obs.word.getLsbD 1 then
    s.tracePut t.name.ctx (traceRecord s (tr.cause - 0x78 + 2) 0 t.name t.source tr.code.toNat t.pc.toNat
      tr.addr.toNat)
  else s

/-- A cause becomes due to a group at a slot boundary; 0x50 and 0x57 wake a swapped team (09 R189,
R196, 14 R275). -/
def State.holdCause (s : State) (tid : Nat) (tr : TrapInfo) : State :=
  let s := s.onThread tid (fun t =>
    if t.status == .retiring then t else { t with held := t.held ++ [tr] })
  match s.thread? tid with
  | some t =>
    if tr.cause != 0x3A then s.modTeam t.name.uid Team.stir else s
  | none => s

/-- End the issuing group with a cause: its record is written, with the engine unit as SOURCE of a 0x50, and it goes as a
retired group does (17 R327, R347, R348); its launch remembers the first cause (19 R376) (DEDUCED, log 42). -/
def State.endGroup (s : State) (tr : TrapInfo) (len outcome : Nat) : State :=
  let t := s.thr
  let pc := if tr.cause == 0x50 || tr.cause == 0x57 then tr.site else t.pc
  let src := if tr.cause == 0x50 then tr.src else t.source
  let r := faultRecord s tr outcome { t.name with burst := tr.burst } src (trapLanes t tr) pc len
  let s := s.ringPut t.name.ctx r
  let l := (s.team t.name.uid).launch
  let s := if (s.launch l).reason == 0 && s.launches.any (fun p => p.1 == l) then
      s.setLaunch l { s.launch l with reason := tr.cause } else s
  { s with thr := t.retire }

/-- A trap ends a hail thread: its stores are performed, a record with cause 0x57 is written, the read
makes no arrival, and the issuing group receives 0x57, whose trap state names none of the thread's own FLAGS, HALF, CODE
or ORIG (09 R196, 17 R331, R332, R343, R348). The read's other bursts go on. -/
def State.trapHail (s : State) (tr : TrapInfo) (len : Nat) : State :=
  let t := s.thr
  let c := s.cmd t.name.cmd
  let tr57 : TrapInfo := { cause := 0x57, under := tr.cause, async := true, addr := tr.addr, site := c.pc, seq := c.seq,
                           burst := t.name.burst }
  let r := faultRecord s { tr with cause := 0x57, under := tr.cause, async := true, site := c.pc, seq := c.seq } 1 t.name
    t.source (trapLanes t tr) c.pc len
  let s := s.ringPut t.name.ctx r
  let s := if c.failed || c.spoiled then s
    else (s.abandonBar c.core c.bar).modCmd t.name.cmd (fun c => { c with spoiled := true })
  (s.dropHail.holdCause t.name.owner tr57).endWaits

/-! ### Taking a trap (17 R323-R328) and returning from one (R326, R334) -/

/-- Whether TRAPVEC enables a cause (17 R330). -/
def vecEnables (vec : Word) (cause : Nat) : Bool :=
  let en (k : Nat) : Bool := vec.getLsbD (56 + k)
  if cause == 0x3A then false
  else if 0x01 ≤ cause && cause ≤ 0x1F then en 0
  else if 0x20 ≤ cause && cause ≤ 0x2F then en 1
  else if 0x30 ≤ cause && cause ≤ 0x4F then en 2
  else if (0x50 ≤ cause && cause ≤ 0x5F) || cause == 0x65 then en 3
  else if cause == 0x72 then en 4
  else false

/-- The windows a supervisor or emulation routine runs in (17 R325, 16 R311). -/
def Wins.handler (w : Wins) : Wins :=
  { s := w.s.move (w.s.wb + w.s.ws) (min 8 w.s.alloc), a := w.a.move (w.a.wb + w.a.ws) (min 2 w.a.alloc),
    v := w.v.move (w.v.wb + w.v.ws) (min 8 w.v.alloc) }

/-- The trap entry of a mode for a trap of the present PC (17 R325). -/
def Thread.trapEntry (t : Thread) (m : Mode) (tpc : Pc) (len : Nat) : Entry :=
  .trap { mode := m, savedM0 := t.m0, tpc := tpc, tlen := len, bases := t.wins.bases, first := m == .user
          outer := t.routine }

/-- Start a Solder routine: saved state and windows as for a supervisor routine, the same mask (16
R311), and the parcels it receives (03 R64); `none` when the spill area would overflow (DEDUCED, log 39). -/
def Thread.enterRoutine (t : Thread) (sl : Solder) (tpc : Pc) (tlen len : Nat) (given : Word) : Option Thread :=
  let t' := { t with wins := t.wins.handler, stack := t.trapEntry .emulation tpc tlen :: t.stack
                     pc := Config.patchBase + BitVec.ofNat 55 (sl.base + sl.arg.toNat % 2 ^ 32)
                     routine := some { pc := t.pc, len := len, lo := sl.base, hi := sl.base + sl.size, given := given } }
  if t'.spillFits then some t' else none

/-- What the trap registers and the record say of a cause: UNDER only of 0x50, 0x57, 0x73 and a stopped context's 0x74 (17
R346), the launch site only of 0x50, 0x57 and the 0x3A of an engine command, which R341 gives it (DEDUCED, log 36), FLAGS only of
0x20 to 0x24 (17 R329, R331, R332). -/
def TrapInfo.clean (tr : TrapInfo) : TrapInfo :=
  let ends := tr.cause == 0x50 || tr.cause == 0x57
  let site := ends || (tr.cause == 0x3A && tr.cmd.isSome)
  { tr with
    under := if ends || tr.cause == 0x73 || tr.cause == 0x74 then tr.under else 0
    site := if site then tr.site else 0
    seq := if site then tr.seq else 0
    flags := if 0x20 ≤ tr.cause && tr.cause ≤ 0x24 then tr.flags else 0 }

/-- A cause that cannot be delivered, inside a handler or for want of spill area, ends the group with 0x73 (17 R328)
(DEDUCED, log 36) (DEDUCED, log 37). -/
def State.handlerFault (s : State) (tr : TrapInfo) (len : Nat) : State :=
  let tr := { tr with cause := 0x73, under := tr.cause }.clean
  { s with thr := s.thr.setTrap tr len }.endGroup tr len 1

/-- User entry (17 R325). -/
def State.userEntry (s : State) (tr : TrapInfo) (len : Nat) : State :=
  let t := s.thr.setTrap tr len
  match t.push (t.trapEntry .user t.pc len) with
  | some t' => { s with thr := { t' with m0 := t.trap.mask, pc := t.trap.vec.setWidth 55, status := .ready } }
  | none => s.handlerFault tr len

/-- Supervisor entry (17 R325, R340). -/
def State.supervisorEntry (s : State) (tr : TrapInfo) (len : Nat) : State :=
  let t := s.thr.setTrap tr len
  let t' := { t with wins := t.wins.handler, stack := t.trapEntry .supervisor t.pc len :: t.stack }
  if t'.spillFits then
    { s with thr := { t' with m0 := t.trap.mask, pc := Config.supervisorPc, status := .ready,
                              service := some { cmd := tr.cmd } } }
  else s.handlerFault tr len

/-- Whether a user handler's first fetch is still to come (17 R336) (DEDUCED, log 37). -/
def Thread.firstFetch (t : Thread) : Bool :=
  t.stack.any (fun e => match e with | .trap x => x.first | _ => false)

/-- The handler's first instruction is fetched. -/
def Thread.fetched (t : Thread) : Thread :=
  { t with stack := t.stack.map (fun e => match e with | .trap x => .trap { x with first := false } | e => e) }

/-- deliver of 17 R323 after the cause slots, for a trap whose PC is the thread's `pc` and whose length
is `len` parcels. A fault of a user handler's first fetch ends the group (R336). -/
def State.deliverBare (s : State) (tr : TrapInfo) (len : Nat) : State :=
  let t := s.thr
  let tr := tr.clean
  if t.name.hail then { s with thr := t.setTrap tr len }.trapHail tr len
  else if 0x78 ≤ tr.cause && tr.cause ≤ 0x7B then s.debugHalt tr len
  else if t.supervisor then s.handlerFault tr len
  else if tr.cause == 0x3A then s.supervisorEntry tr len
  else if t.firstFetch && !tr.async then s.handlerFault tr len
  else if !vecEnables t.trap.vec tr.cause then { s with thr := t.setTrap tr len }.endGroup tr len 1
  else if t.holds .user then s.handlerFault tr len
  else s.userEntry tr len

/-- The causes that a failed check of an access raises (16 R311). -/
def accessCause (c : Nat) : Bool := (0x30 ≤ c && c ≤ 0x3D) || c == 0x40

/-- The causes that a trap inside an emulation routine keeps: those of access checks, the limits' own, a poisoned parcel of
the routine (16 R297, R311), and every cause that no instruction of the routine raised (DEDUCED, log 75). -/
def TrapInfo.keepsCause (tr : TrapInfo) : Bool :=
  accessCause tr.cause || tr.cause == 0x3E || tr.cause == 0x54 || tr.cause == 0x62 || tr.async

/-- A trap inside an emulation routine leaves the routine: the thread stands again at the emulated
instruction, and a cause that is no access check's becomes 0x3F (16 R311). -/
def Thread.leaveRoutine (t : Thread) (r : Routine) : Thread :=
  let rest := t.stack.dropWhile (fun e => match e with | .trap x => x.mode != .emulation | _ => true)
  match rest with
  | .trap e :: st => { t.leaveTrap e st with pc := r.pc }
  | _ => { t with routine := none, pc := r.pc }

/-- Leave every routine that is being run: one routine may emulate an instruction of another, and together they are one slot
(16 R311) (DEDUCED, log 76). The thread, and the length of the instruction that the outermost emulates, or `len`. -/
def Thread.leaveRoutines (fuel : Nat) (t : Thread) (len : Nat) : Thread × Nat :=
  match fuel, t.routine with
  | k + 1, some r => (t.leaveRoutine r).leaveRoutines k r.len
  | _, _ => (t, len)

/-- TAKE A TRAP: deliver of 17 R323. The waits of R323 are abandoned; pending long-latency work has
been completed by the caller (03 R58). Inside a routine HALF is that of the routine's own pair (03 R60; DEDUCED, log 76). A
routine that a cause slot names and that a hail thread has no room for is cause 0x11 (04 R70; DEDUCED, log 39). -/
def State.takeTrap (s : State) (tr : TrapInfo) (len : Nat) : State :=
  let t0 := { s.thr with status := (match s.thr.status with | .waiting _ => .ready | x => x)
                         sched := { s.thr.sched with waited := 0 } }
  let (t, len) := t0.leaveRoutines (t0.stack.length + 1) len
  let tr := if t0.routine.isNone || tr.keepsCause then tr else { tr with cause := 0x3F }
  let s := { s with thr := t }
  match solderPick s t.name.ctx true (BitVec.ofNat 64 tr.cause) with
  | none => s.deliverBare tr len
  | some sl =>
    if sl.act == 2 then
      match t.enterRoutine sl t.pc len len 0 with
      | some t' => { s with thr := t' }
      | none => if t.name.hail then s.deliverBare { tr with cause := 0x11 } len else s.handlerFault tr len
    else s.deliverBare { tr with cause := sl.cause, orig := tr.cause } len

/-- Act on the end of a settle; the halt of a join of lane focus is a trap of the instruction that stands at the program counter,
of `len` parcels (18 R366, 17 R323, R324). -/
def State.settled (s : State) (len : Nat) (x : Settled) : State :=
  match x with
  | .run t => { s with thr := t }
  | .halt t => { s with thr := t }.takeTrap { cause := 0x7B } len
  | .over t => if t.name.hail then { s with thr := t }.endHail else { s with thr := t.retire }

/-- settle for the issuing thread (04 R75). -/
def State.settle (s : State) (len : Nat) : State := s.settled len (settleOver s.thr s.thr.stack)

/-- The cause slots for a cause that ends its group at once whatever they say: a Trap action changes the cause, and there is
nothing left to emulate (17 R323; DEDUCED, log 75). -/
def State.causeSlots (s : State) (tr : TrapInfo) : TrapInfo :=
  match solderPick s s.thr.name.ctx true (BitVec.ofNat 64 tr.cause) with
  | some sl => if sl.act == 2 then tr else { tr with cause := sl.cause, orig := tr.cause }.clean
  | none => tr

/-- RETURN FROM A TRAP: SRET #r of 17 R334 (DEDUCED, log 31). -/
def Thread.sret (t : Thread) (r : Nat) : Except TrapInfo Thread :=
  match t.stack with
  | [] => .error { cause := 0x14 }
  | .trap e :: rest =>
    if r > 1 then .error { cause := 0x03 }
    else .ok { t.leaveTrap e rest with pc := e.tpc + BitVec.ofNat 55 (4 * e.tlen * r) }
  | _ => .error { cause := 0x12 }

end Sys2Proof.Machine
end

