-- ==== Sys2Proof/Machine/Float.lean ====
section
/-! DEFINITION. Number formats and rounding (06 R95-R120): decoding to exact values, exact sums and
products, one rounding to a format with its flags, minimum and maximum, conversions, Q4X blocks, and
the correctly rounded transcendental functions (07 R130). -/

namespace Sys2Proof.Machine

/-- Flag bits in the order of FPSTAT (06 R110). -/
def fIV : BitVec 5 := 1
def fDZ : BitVec 5 := 2
def fOF : BitVec 5 := 4
def fUF : BitVec 5 := 8
def fNX : BitVec 5 := 16

/-- A binary format (06 R96, R97): significand bits, fraction field width, bias, largest finite value
as significand and exponent of its last bit, infinities. -/
structure Fmt where
  p : Nat
  bias : Nat
  ebits : Nat
  maxMant : Nat
  maxExp : Int
  inf : Bool
  deriving DecidableEq, Repr

/-- The format of an ET code (06 R96); `.f32` for a code that is no such format. -/
def fmtOf (et : Nat) : Fmt :=
  match et with
  | 9 => { p := 11, bias := 15, ebits := 5, maxMant := 2047, maxExp := 5, inf := true }
  | 10 => { p := 8, bias := 127, ebits := 8, maxMant := 255, maxExp := 120, inf := true }
  | 11 => { p := 4, bias := 7, ebits := 4, maxMant := 14, maxExp := 5, inf := false }
  | 12 => { p := 3, bias := 15, ebits := 5, maxMant := 7, maxExp := 13, inf := true }
  | _ => { p := 24, bias := 127, ebits := 8, maxMant := 16777215, maxExp := 104, inf := true }

/-- Exponent of the last bit of the smallest normal value, which is that of every subnormal. -/
def Fmt.qmin (f : Fmt) : Int := 1 - (f.bias : Int) - ((f.p : Int) - 1)
/-- The patterns of infinity, of the canonical NaN and of the largest finite value (06 R97). -/
def Fmt.infBits (f : Fmt) : Nat := (2 ^ f.ebits - 1) * 2 ^ (f.p - 1)
def Fmt.nanBits (f : Fmt) : Nat := if f.inf then f.infBits + 2 ^ (f.p - 2) else 0x7F
def Fmt.maxBits (f : Fmt) : Nat := if f.inf then f.infBits - 1 else 0x7E
/-- The sign bit. -/
def Fmt.signBit (f : Fmt) : Nat := 2 ^ (f.ebits + f.p - 1)

/-- A decoded value: a NaN (signalling or not), an infinity, or the exact number ±mant × 2^exp. -/
inductive FVal where
  | nan (sig : Bool)
  | inf (neg : Bool)
  | fin (neg : Bool) (mant : Nat) (exp : Int)
  deriving DecidableEq, Repr

/-- Decode a pattern of a format (06 R96). -/
def Fmt.dec (f : Fmt) (bits : Nat) : FVal :=
  let neg := bits / f.signBit % 2 == 1
  let e := bits / 2 ^ (f.p - 1) % 2 ^ f.ebits
  let fr := bits % 2 ^ (f.p - 1)
  let top := 2 ^ f.ebits - 1
  if e == top && f.inf then
    (if fr == 0 then .inf neg else .nan (fr / 2 ^ (f.p - 2) % 2 == 0))
  else if e == top && fr == 7 then .nan false
  else if e == 0 then .fin neg fr f.qmin
  else .fin neg (fr + 2 ^ (f.p - 1)) (f.qmin + (e : Int) - 1)

/-- The value of an E8M0 code (06 R98). -/
def e8m0Dec (c : Nat) : FVal := if c % 256 == 255 then .nan false else .fin false 1 ((c % 256 : Nat) - 127 : Int)

/-- Decode a register's low bits as the float type `et` (06 R100). -/
def decEt (et : Nat) (w : Nat) : FVal :=
  if et == 13 then e8m0Dec w else (fmtOf et).dec (w % 2 ^ (8 * etBytes et))

/-- An exact number ±(mant + s) × 2^exp, with 0 < s < 1 when `sticky`. -/
structure Exact where
  neg : Bool
  mant : Nat
  exp : Int
  sticky : Bool := false
  deriving DecidableEq, Repr

/-- ⌊m × 2^s⌋ and the rest as (twice the rest compared with one unit: 0 zero, 1 below, 2 equal, 3 above
a half), with the sticky bit. -/
def shiftRest (m : Nat) (s : Int) (sticky : Bool) : Nat × Nat :=
  if s ≥ 0 then (m * 2 ^ s.toNat, if sticky then 1 else 0)
  else
    let k := (-s).toNat
    let q := m / 2 ^ k
    let r := m % 2 ^ k
    let half := 2 ^ (k - 1)
    (q, if r == 0 then (if sticky then 1 else 0)
        else if r < half then 1 else if r == half then (if sticky then 3 else 2) else 3)

/-- Whether rounding goes away from zero: mode, sign, low bit of the quotient, rest (06 R103). -/
def roundUp (mode : Nat) (neg : Bool) (odd : Bool) (rest : Nat) : Bool :=
  match mode with
  | 0 => rest == 3 || (rest == 2 && odd)
  | 2 => rest != 0 && !neg
  | 3 => rest != 0 && neg
  | _ => false

/-- The choice of `.sr` between the neighbours of `q`: D + r ≥ 2^32 (06 R106). -/
def srUp (m : Nat) (s : Int) (r : Nat) : Bool :=
  if s ≥ 0 then false
  else
    let k := (-s).toNat
    let d := m % 2 ^ k * 2 ^ 32 / 2 ^ k
    m % 2 ^ k != 0 && d + r ≥ 2 ^ 32

/-- Overflowing result of a format (06 R104). `away` says `.sr` chose the neighbour away from zero. -/
def overflowBits (f : Fmt) (mode : Nat) (neg away : Bool) : Nat :=
  let big := if !f.inf then f.maxBits
    else match mode with
      | 0 => f.infBits
      | 1 => f.maxBits
      | 2 => if neg then f.maxBits else f.infBits
      | 3 => if neg then f.infBits else f.maxBits
      | _ => if away then f.infBits else f.maxBits
  big + (if neg then f.signBit else 0)

/-- Round an exact nonzero or zero number to a format: mode (0 rne, 1 rz, 2 ru, 3 rd, 4 sr with random
word `rnd`), giving bits and flags (06 R103-R106). The neighbours of `.sr` below the smallest normal are the format's subnormals, its
representable values (R103), and above the largest finite value those of an unbounded exponent (R106) (DEDUCED, log 9). -/
def Fmt.round (f : Fmt) (mode rnd : Nat) (x : Exact) : Nat × BitVec 5 :=
  let sgn := if x.neg then f.signBit else 0
  if x.mant == 0 then (sgn, 0)
  else
    let e := x.exp + (Nat.log2 x.mant : Nat)
    let q := max (e - ((f.p : Int) - 1)) f.qmin
    let (n, rest) := shiftRest x.mant (x.exp - q) x.sticky
    let up := if mode == 4 then srUp x.mant (x.exp - q) rnd else roundUp mode x.neg (n % 2 == 1) rest
    let n' := if up then n + 1 else n
    let (n'', q') := if n' == 2 ^ f.p then (2 ^ (f.p - 1), q + 1) else (n', q)
    let tooBig := q' > f.maxExp || (q' == f.maxExp && n'' > f.maxMant)
    let tiny := e < 1 - (f.bias : Int)
    if tooBig then
      let away := if rest == 0 then Config.srExactAway x.mant x.exp else up
      (overflowBits f mode x.neg away, fOF ||| fNX)
    else
      let bits := if n'' < 2 ^ (f.p - 1) then n''
        else (q' - f.qmin + 1).toNat * 2 ^ (f.p - 1) + (n'' - 2 ^ (f.p - 1))
      (sgn + bits, if rest == 0 then 0 else if tiny then fUF ||| fNX else fNX)

/-- A result before rounding. -/
inductive Pre where
  | nan
  | inf (neg : Bool)
  | num (x : Exact)
  deriving DecidableEq, Repr

/-- Round a result to a format; E4M3 has no infinity (06 R104), every NaN is canonical (R109). -/
def Fmt.finish (f : Fmt) (mode rnd : Nat) (x : Pre) : Nat × BitVec 5 :=
  match x with
  | .nan => (f.nanBits, 0)
  | .inf neg => if f.inf then (f.infBits + (if neg then f.signBit else 0), 0) else (f.nanBits, fIV)
  | .num e => f.round mode rnd e

/-- The number with the other sign. -/
def FVal.neg (x : FVal) : FVal :=
  match x with
  | .nan s => .nan s
  | .inf n => .inf (!n)
  | .fin n m e => .fin (!n) m e

/-- A finite value as (signed significand, exponent). -/
def FVal.parts (x : FVal) : Int × Int :=
  match x with
  | .fin n m e => (if n then -(m : Int) else m, e)
  | _ => (0, 0)

/-- Exact sum of finite parts: signed significand and exponent. -/
def sumParts (xs : List (Int × Int)) : Int × Int :=
  let e := xs.foldl (fun m p => min m p.2) ((xs.headD (0, 0)).2)
  (xs.foldl (fun acc p => acc + p.1 * 2 ^ (p.2 - e).toNat) 0, e)

/-- Sign of an exact zero sum (06 R103): that of its terms when they agree, else + except under rd. -/
def zeroSign (mode : Nat) (xs : List FVal) : Bool :=
  let negs := xs.map (fun x => match x with | .fin n _ _ => n | .inf n => n | .nan _ => false)
  let zeros := xs.all (fun x => match x with | .fin _ 0 _ => true | _ => false)
  if zeros && !xs.isEmpty && negs.all id then true
  else if zeros && !(negs.any id) then false
  else mode == 3

/-- The exact sum of values with its flags (06 R109, R116). -/
def fSum (mode : Nat) (xs : List FVal) : Pre × BitVec 5 :=
  let sig := xs.any (fun x => match x with | .nan s => s | _ => false)
  let nan := xs.any (fun x => match x with | .nan _ => true | _ => false)
  let pos := xs.any (fun x => x == FVal.inf false)
  let neg := xs.any (fun x => x == FVal.inf true)
  let iv : BitVec 5 := (if sig then fIV else 0) ||| (if pos && neg then fIV else 0)
  if nan || (pos && neg) then (.nan, iv)
  else if pos then (.inf false, iv)
  else if neg then (.inf true, iv)
  else
    let (m, e) := sumParts (xs.map FVal.parts)
    if m == 0 then (.num { neg := zeroSign mode xs, mant := 0, exp := 0 }, iv)
    else (.num { neg := m < 0, mant := m.natAbs, exp := e }, iv)

/-- The exact product with its flags (06 R109). -/
def fMulV (a b : FVal) : FVal × BitVec 5 :=
  let sig (x : FVal) : Bool := match x with | .nan s => s | _ => false
  let fl : BitVec 5 := if sig a || sig b then fIV else 0
  match a, b with
  | .nan _, _ => (.nan false, fl)
  | _, .nan _ => (.nan false, fl)
  | .inf n, .inf k => (.inf (n != k), 0)
  | .inf n, .fin k m _ => if m == 0 then (.nan false, fIV) else (.inf (n != k), 0)
  | .fin k m _, .inf n => if m == 0 then (.nan false, fIV) else (.inf (n != k), 0)
  | .fin n m e, .fin k l d => (.fin (n != k) (m * l) (e + d), 0)

/-- A value as a result before rounding, a signalling NaN raising IV. -/
def FVal.pre (x : FVal) : Pre × BitVec 5 :=
  match x with
  | .nan s => (.nan, if s then fIV else 0)
  | .inf n => (.inf n, 0)
  | .fin n m e => (.num { neg := n, mant := m, exp := e }, 0)

/-- Finish a result, joining flags. -/
def finishF (et mode rnd : Nat) (x : Pre × BitVec 5) : Nat × BitVec 5 :=
  let (b, fl) := (fmtOf et).finish mode rnd x.1
  (b, fl ||| x.2)

/-- FADD, FSUB, FMUL and the fused a × b + c (07 R129), each rounded once (06 R115). -/
def fAdd (et mode a b : Nat) : Nat × BitVec 5 := finishF et mode 0 (fSum mode [decEt et a, decEt et b])
def fSub (et mode a b : Nat) : Nat × BitVec 5 := finishF et mode 0 (fSum mode [decEt et a, (decEt et b).neg])
def fMul (et mode a b : Nat) : Nat × BitVec 5 :=
  let (x, fl) := fMulV (decEt et a) (decEt et b)
  finishF et mode 0 (x.pre.1, fl)
def fFma (et mode a b c : Nat) : Nat × BitVec 5 :=
  let (x, fl) := fMulV (decEt et a) (decEt et b)
  let (y, fl') := fSum mode [x, decEt et c]
  finishF et mode 0 (y, fl ||| fl')

/-- Whether `a` is below `b`, −0 below +0 (06 R109); numbers and infinities only. -/
def fLess (a b : FVal) : Bool :=
  let key (x : FVal) : Int × Int × Int := match x with
    | .inf n => (if n then -2 else 2, 0, 0)
    | .fin n m e => (0, if n then -(m : Int) else m, e)
    | .nan _ => (0, 0, 0)
  let ka := key a
  let kb := key b
  if ka.1 != kb.1 then ka.1 < kb.1
  else
    let e := min ka.2.2 kb.2.2
    let va := ka.2.1 * 2 ^ (ka.2.2 - e).toNat
    let vb := kb.2.1 * 2 ^ (kb.2.2 - e).toNat
    va < vb || (va == vb && va == 0 &&
      (match a, b with | .fin na _ _, .fin nb _ _ => na && !nb | _, _ => false))

/-- Whether two values that are no NaN are equal, −0 equal to +0 (07 R127). -/
def fEqual (a b : FVal) : Bool :=
  match a, b with
  | .fin _ 0 _, .fin _ 0 _ => true
  | _, _ => !fLess a b && !fLess b a

/-- Whether a value is a NaN. -/
def FVal.isNan (x : FVal) : Bool := match x with | .nan _ => true | _ => false
/-- Whether a value is a signalling NaN. -/
def FVal.isSig (x : FVal) : Bool := match x with | .nan s => s | _ => false

/-- FMIN and FMAX over patterns (06 R109): the other operand for one NaN, equal operands give `a`. -/
def fMinMax (et : Nat) (isMax : Bool) (a b : Nat) : Nat × BitVec 5 :=
  let n := 2 ^ (8 * etBytes et)
  let x := decEt et a
  let y := decEt et b
  let fl : BitVec 5 := if x.isSig || y.isSig then fIV else 0
  if x.isNan && y.isNan then ((fmtOf et).nanBits, fl)
  else if x.isNan then (b % n, fl)
  else if y.isNan then (a % n, fl)
  else if isMax then (if fLess x y then b % n else a % n, fl)
  else (if fLess y x then b % n else a % n, fl)

/-- FCMP by condition code (07 R122, R127). -/
def fCompare (et cc a b : Nat) : Bool × BitVec 5 :=
  let x := decEt et a
  let y := decEt et b
  let un := x.isNan || y.isNan
  let fl : BitVec 5 := if x.isSig || y.isSig then fIV else 0
  let lt := !un && !fEqual x y && fLess x y
  let eq := !un && fEqual x y
  ((match cc with
    | 0 => eq
    | 1 => !eq
    | 2 => lt
    | 3 => lt || eq
    | 4 => !un && !lt && !eq
    | 5 => !un && !lt
    | 6 => un
    | _ => !un), fl)

/-- The mixing function of `.sr` (06 R106). -/
def srWord (seed : Word) (j : Nat) : Nat :=
  let x : BitVec 32 := seed.extractLsb' 0 32 ^^^ seed.extractLsb' 32 32 ^^^ BitVec.ofNat 32 (j * 0x9E3779B9)
  let x := (x ^^^ (x >>> 16)) * 0x85EBCA6B
  let x := (x ^^^ (x >>> 13)) * 0xC2B2AE35
  (x ^^^ (x >>> 16)).toNat

/-- Conversion to E8M0 (06 R98); a NaN of any format, E8M0 among them, raises IV (DEDUCED, log 30). -/
def toE8m0 (mode : Nat) (x : FVal) : Nat × BitVec 5 :=
  match x with
  | .fin false m e =>
    if m == 0 then (0xFF, fIV)
    else
      let k := e + (Nat.log2 m : Nat)
      let (n, rest) := shiftRest m (e - k + 1) false
      let exact := n == 2 && rest == 0
      let atHalf := n == 3 && rest == 0
      let up := !exact && (match mode with
        | 0 => if atHalf then (k + 127) % 2 != 0 else n == 3
        | 2 => true
        | _ => false)
      if k < -127 then (0x00, fUF ||| fNX)
      else if k > 127 || (k == 127 && !exact) then (0xFE, fOF ||| fNX)
      else ((k + 127 + (if up then 1 else 0)).toNat, if exact then 0 else fNX)
  | _ => (0xFF, fIV)

/-- Conversion of a float value to an integer type: rounded, then saturated (06 R108). -/
def toInt (et mode : Nat) (x : FVal) : Int × BitVec 5 :=
  let n := 8 * etBytes et
  let lo : Int := if etSigned et then -(2 ^ (n - 1)) else 0
  let hi : Int := if etSigned et then 2 ^ (n - 1) - 1 else 2 ^ n - 1
  match x with
  | .nan _ => (0, fIV)
  | .inf neg => (if neg then lo else hi, fIV)
  | .fin neg m e =>
    let (q, rest) := shiftRest m e false
    let q' := if roundUp mode neg (q % 2 == 1) rest then q + 1 else q
    let v : Int := if neg then -(q' : Int) else q'
    if v < lo then (lo, fIV) else if v > hi then (hi, fIV) else (v, if rest == 0 then 0 else fNX)

/-- An integer as a float value. -/
def ofInt (v : Int) : FVal := .fin (v < 0) v.natAbs 0

/-- Float to float conversion (07 R131; 06 R103-R107). -/
def toFloat (et mode rnd : Nat) (x : FVal) : Nat × BitVec 5 := finishF et mode rnd x.pre

/-! ### Q4X blocks (06 R101, R102) -/

/-- Product of a code's value and the scale, taken to FP32 with RNE (06 R102). -/
def q4xScaled (x : FVal) (scale : Nat) : Nat × BitVec 5 :=
  match e8m0Dec scale, x with
  | .fin _ _ se, .fin n m e => (fmtOf 8).round 0 0 { neg := n, mant := m, exp := e + se }
  | _, _ => ((fmtOf 8).nanBits, 0)

/-- The signed value of an integer code. -/
def q4xInt (n : Nat) : FVal := if n < 8 then .fin false n 0 else .fin true (16 - n) 0

/-- The exact values of a block's 32 nibbles before scaling, and whether IV is raised (06 R102). -/
def q4xVals (fuel : Nat) (ns : List Nat) (j : Nat) : List FVal × Bool :=
  match fuel, ns with
  | 0, _ => ([], false)
  | _ + 1, [] => ([], false)
  | k + 1, n :: r =>
    if n != 8 then
      let (v, iv) := q4xVals k r (j + 1)
      (q4xInt n :: v, iv)
    else if j ≤ 29 then
      (match r with
      | lo :: hi :: r' =>
        let (v, iv) := q4xVals k r' (j + 3)
        ((fmtOf 11).dec (hi * 16 + lo) :: .fin false 0 0 :: .fin false 0 0 :: v, iv)
      | _ => ([], false))
    else
      let (v, _) := q4xVals k r (j + 1)
      (.fin false 0 0 :: v, true)

/-- The nibbles of a 16-byte block (06 R101). -/
def nibbles (bs : List Byte) : List Nat := bs.flatMap (fun b => [b.toNat % 16, b.toNat / 16])

/-- Decode a block with its scale to FP32 patterns (06 R102). -/
def q4xDecode (bs : List Byte) (scale : Nat) : List Nat × BitVec 5 :=
  let (vs, iv) := q4xVals 32 (nibbles bs) 0
  let ps := vs.map (fun v => q4xScaled v scale)
  (ps.map (·.1), ps.foldl (fun f p => f ||| p.2) (if iv then fIV else 0))

/-! ### Transcendental functions (07 R130)

Fixed-point numbers with 704 fraction bits. The last 64 bits of a result are dropped and it is marked
inexact; a value so near a rounding boundary that those bits decide would need a run of 500 equal bits
(DEDUCED, log 20). -/

def fxBits : Nat := 704
def fxOne : Nat := 2 ^ fxBits
/-- ⌊π × 2^900⌋ and ⌊ln 2 × 2^704⌋. -/
def pi900 : Nat := 0x3243f6a8885a308d313198a2e03707344a4093822299f31d0082efa98ec4e6c89452821e638d01377be5466cf34e90c6cc0ac29b7c97c50dd3f84d5b5b54709179216d5d98979fb1bd1310ba698dfb5ac2ffd72dbd01adfb7b8e1afed6a267e96ba7c9045f12c7f9924a19947b3916cf70
def ln2Fx : Nat := 0xb17217f7d1cf79abc9e3b39803f2f6af40f343267298b62d8a0d175b8baafa2be7b876206debac98559552fb4afa1b10ed2eae35c138214427573b291169b8253e96ca16224ae8c51acbda11317c387eb9ea9bc3b136603b

/-- Product of two fixed-point numbers. -/
def fxMul (a b : Nat) : Nat := a * b / fxOne

/-- Σ y^n / n! from term `t` of index `n` on. -/
def expSeries (fuel n t y : Nat) : Nat :=
  match fuel with
  | 0 => 0
  | k + 1 => t + expSeries k (n + 1) (fxMul t y / (n + 1)) y

/-- e^y for 0 ≤ y < 1. -/
def fxExp (y : Nat) : Nat := expSeries 160 0 fxOne y

/-- Σ z^(2n+1) / (2n+1) from power `p` on. -/
def atanhSeries (fuel n p z2 : Nat) : Nat :=
  match fuel with
  | 0 => 0
  | k + 1 => p / (2 * n + 1) + atanhSeries k (n + 1) (fxMul p z2) z2

/-- ln m for m in [1, 2), by 2 atanh((m − 1)/(m + 1)). -/
def fxLn (m : Nat) : Nat :=
  let z := (m - fxOne) * fxOne / (m + fxOne)
  2 * atanhSeries 240 0 z (fxMul z z)

/-- Σ (−1)^n r^(2n+i)/(2n+i)! as (sum of positive terms, sum of negative terms). -/
def trigSeries (fuel n t r2 : Nat) : Nat × Nat :=
  match fuel with
  | 0 => (0, 0)
  | k + 1 =>
    let (a, b) := trigSeries k (n + 2) (fxMul t r2 / ((n + 1) * (n + 2))) r2
    (t + b, a)

def fxSin (r : Nat) : Nat := let (a, b) := trigSeries 120 1 r (fxMul r r); a - b
def fxCos (r : Nat) : Nat := let (a, b) := trigSeries 120 0 fxOne (fxMul r r); a - b

/-- Integer square root by Newton's iteration from above. -/
def isqrtStep (fuel n x : Nat) : Nat :=
  match fuel with
  | 0 => x
  | k + 1 => let y := (x + n / x) / 2; if y < x then isqrtStep k n y else x
def isqrt (n : Nat) : Nat := if n == 0 then 0 else isqrtStep 64 n (2 ^ (Nat.log2 n / 2 + 1))

/-- A fixed-point result that is not exact, as a number to round; `sh` is a further power of two. -/
def fxResult (neg : Bool) (v : Nat) (sh : Int) : Pre :=
  .num { neg := neg, mant := v / 2 ^ 64, exp := sh - 640, sticky := true }

/-- A finite value in fixed point, its fraction bits beyond 704 dropped. -/
def fxOf (m : Nat) (e : Int) : Nat := (shiftRest m (e + 704) false).1

/-- |a| reduced by π/2: quadrant and remainder in fixed point. -/
def piReduce (m : Nat) (e : Int) : Nat × Nat :=
  let x := (shiftRest m (e + 900) false).1
  let q := 2 * x / pi900
  (q % 4, (2 * x - q * pi900) / 2 ^ 197)

/-- The result of a transcendental opcode (0x47 to 0x4D) on a value, with IV and DZ (07 R130). -/
def transcend (op : Nat) (x : FVal) : Pre × BitVec 5 :=
  let zero (n : Bool) : Pre := .num { neg := n, mant := 0, exp := 0 }
  let one (n : Bool) : Pre := .num { neg := n, mant := 1, exp := 0 }
  match x with
  | .nan s => (.nan, if s then fIV else 0)
  | .inf n =>
    (match op with
    | 0x47 => (zero n, 0)
    | 0x48 => if n then (.nan, fIV) else (zero false, 0)
    | 0x49 => (if n then zero false else .inf false, 0)
    | 0x4A => if n then (.nan, fIV) else (.inf false, 0)
    | 0x4B | 0x4C => (.nan, fIV)
    | _ => (one n, 0))
  | .fin n 0 _ =>
    (match op with
    | 0x47 => (.inf n, fDZ)
    | 0x48 => (.inf false, fDZ)
    | 0x49 => (one false, 0)
    | 0x4A => (.inf true, fDZ)
    | 0x4C => (one false, 0)
    | _ => (zero n, 0))
  | .fin n m e =>
    let lg := Nat.log2 m
    let pow2 := m == 2 ^ lg
    let k := e + (lg : Int)
    (match op with
    | 0x47 =>
      let q := 2 ^ (lg + 160) / m
      (.num { neg := n, mant := q, exp := -e - (lg : Int) - 160, sticky := q * m != 2 ^ (lg + 160) }, 0)
    | 0x48 =>
      if n then (.nan, fIV)
      else if pow2 && k % 2 == 0 then (.num { neg := false, mant := 1, exp := -k / 2 }, 0)
      else
        -- 1/sqrt(m 2^e) with an even exponent
        let (m', e') := if e % 2 == 0 then (m, e) else (2 * m, e - 1)
        (.num { neg := false, mant := isqrt (2 ^ 400 / m'), exp := -e' / 2 - 200, sticky := true }, 0)
    | 0x49 =>
      -- 2^a: integer part and fraction
      let big := k ≥ 9
      if big then (if n then .num { neg := false, mant := 1, exp := -1000, sticky := true }
                   else .num { neg := false, mant := 1, exp := 1000, sticky := true }, 0)
      else
        let v := fxOf m e
        let ip := v / fxOne
        let fr := v % fxOne
        if fr == 0 then (.num { neg := false, mant := 1, exp := if n then -(ip : Int) else ip }, 0)
        else if n then (fxResult false (fxExp (fxMul (fxOne - fr) ln2Fx)) (-(ip : Int) - 1), 0)
        else (fxResult false (fxExp (fxMul fr ln2Fx)) ip, 0)
    | 0x4A =>
      if n then (.nan, fIV)
      else if pow2 then (.num { neg := k < 0, mant := k.natAbs, exp := 0 }, 0)
      else
        let l := fxLn (fxOf m (e - k)) * fxOne / ln2Fx
        let v : Int := k * fxOne + l
        (fxResult (v < 0) v.natAbs 0, 0)
    | 0x4B =>
      let (q, r) := piReduce m e
      let v := if q % 2 == 0 then fxSin r else fxCos r
      (fxResult (n != (q ≥ 2)) v 0, 0)
    | 0x4C =>
      let (q, r) := piReduce m e
      let v := if q % 2 == 0 then fxCos r else fxSin r
      (fxResult (q == 1 || q == 2) v 0, 0)
    | _ =>
      if k ≥ 8 then (.num { neg := n, mant := 2 ^ 200 - 1, exp := -200, sticky := true }, 0)
      else
        let u := 2 * fxOf m e
        let j := u / ln2Fx
        let er := fxExp (u - j * ln2Fx)
        -- tanh = (E − 1)/(E + 1) with E = 2^j e^r
        let big := er * 2 ^ j
        (fxResult n ((big - fxOne) * fxOne / (big + fxOne)) 0, 0))

end Sys2Proof.Machine
end

