-- ==== Sys2Proof/Machine/Operands.lean ====
section
/-! DEFINITION. Operand forms: register sources widened by the type lattice (01 R21), immediates and
displacements (03 R54, 04 R78), and which registers an instruction names, reads and writes (03 R58). -/

namespace Sys2Proof.Machine

/-- A register source read as varying, in one lane (01 R21). -/
def Thread.lane (t : Thread) (k n lane : Nat) : LaneWord :=
  match k with
  | 0 => (t.sReg n).setWidth 32
  | 1 => ((t.aReg n).at lane).setWidth 32
  | _ => t.vReg n lane

/-- A register source as a 64-bit value: an affine or varying one in lane `lane` (09 R167). -/
def Thread.wide (t : Thread) (k n lane : Nat) : Word :=
  match k with
  | 0 => t.sReg n
  | 1 => (t.aReg n).at lane
  | _ => (t.vReg n lane).signExtend 64

/-- A register source read as affine (01 R21). -/
def Thread.affine (t : Thread) (k n : Nat) : Affine :=
  if k == 0 then { base := t.sReg n, stride := 0 } else t.aReg n

/-- The immediate of an instruction as a 64-bit value: sign-extended, or zero-extended for `.u` types
and float patterns (03 R54). -/
def immWord (f : Fields) : Word :=
  let signed := f.et.toNat < 4
  if f.ext then (if signed then f.lit.signExtend 64 else f.lit.setWidth 64)
  else (if signed then f.imm14.signExtend 64 else f.imm14.setWidth 64)

/-- A source operand: in a lane of a varying instruction, or once for a uniform one (`none`). Kind 0b11
is the immediate. -/
def Thread.operand (t : Thread) (f : Fields) (k : BitVec 2) (n : BitVec 7) (l : Option Nat) : Word :=
  match l with
  | none => if k == 3 then immWord f else t.sReg n.toNat
  | some lane => if k == 3 then immWord f else (t.lane k.toNat n.toNat lane).setWidth 64

/-- Operands a, b and c of an arithmetic instruction. -/
def Thread.opA (t : Thread) (f : Fields) (l : Option Nat) : Word := t.operand f f.ak f.a l
def Thread.opB (t : Thread) (f : Fields) (l : Option Nat) : Word := t.operand f f.bk f.b l
def Thread.opC (t : Thread) (f : Fields) (l : Option Nat) : Word := t.operand f f.ck f.c l

/-- The source lane is below W and in `m0` (07 R138). -/
def validSrc (t : Thread) (x : Int) : Bool := 0 ≤ x && x < t.width && t.m0.getLsbD x.toNat

/-- The unsigned low half of operand b in a lane (07 R138). -/
def shuffleB (f : Fields) (t : Thread) (l : Nat) : Nat :=
  if f.bk == 3 then (if f.ext then f.lit.toNat else (f.imm14.signExtend 32).toNat)
  else (t.lane f.bk.toNat f.b.toNat l).toNat

/-- The source lane s(L) of a lane exchange (07 R138). -/
def srcLane (op : Nat) (f : Fields) (t : Thread) (l : Nat) : Int :=
  match op with
  | 0x68 => shuffleB f t l
  | 0x69 => (l : Int) - shuffleB f t l
  | 0x6A => (l : Int) + shuffleB f t l
  | 0x6B => (l ^^^ shuffleB f t l : Nat)
  | 0x6C => (4 * (l / 4) + ((l % 4) ^^^ f.uimm) : Nat)
  | _ => (4 * (l / 4) + f.uimm : Nat)

/-- Operand a is a poisoned word in a lane (17 R345). -/
def poisonedAt (f : Fields) (t : Thread) (l : Nat) : Bool := f.ak == 2 && t.poison.v.contains (t.vKey f.a.toNat l)

/-- Lanes that receive a poisoned value of another lane (17 R346). -/
def remotePoison (op : Nat) (f : Fields) (t : Thread) : Word :=
  let sel := t.sel f
  match op with
  | 0x68 | 0x69 | 0x6A | 0x6B | 0x6C | 0x6D =>
    maskOf (fun l => sel.getLsbD l && validSrc t (srcLane op f t l) && poisonedAt f t (srcLane op f t l).toNat)
  | 0x6F => maskOf (fun l => sel.getLsbD l && (lanesOf sel).any (fun p => p ≤ l && poisonedAt f t p))
  | 0x70 =>
    let parts := if f.fc == 2 then sel else t.m0
    if (lanesOf parts).any (poisonedAt f t) then parts else 0
  | 0x87 =>
    let rows := ((mget 0 t.tiles.shape f.b.toNat).extractLsb' 4 7).toNat
    if (List.range rows).any (fun j => t.poison.v.contains (t.vKey f.c.toNat j)) then sel else 0
  | 0x90 => maskOf (fun l => sel.getLsbD l && (lanesOf t.active).any (fun j =>
      j / 16 == l / 16 && t.poison.v.contains (t.vKey f.b.toNat j)))
  | _ => 0

/-- The displacement of a control instruction, in bytes (04 R78). -/
def dispBytes (f : Fields) : Pc :=
  4 * (if f.ext then f.lit.signExtend 55 else f.imm14.signExtend 55)

/-- The offset k of a memory operand in bytes, `unit` being what the long form counts in (03 R54). -/
def memOffset (f : Fields) (unit : Nat) : Word :=
  if f.ext then f.lit.signExtend 64 else f.c.signExtend 64 * BitVec.ofNat 64 unit

/-- A register name by the kind of a source field. -/
def kindReg (k n : Nat) : List RegName :=
  match k with
  | 0 => [.s n]
  | 1 => [.a n]
  | 2 => [.v n]
  | _ => []

/-- Registers that a source field names, as its row reads it. -/
def srcRegs (u : SrcUse) (k n : Nat) (f : Fields) : List RegName :=
  match u with
  | .regs _ | .regsImm _ | .unImm _ | .index _ => kindReg k n
  | .base _ => if k == 3 then [.h n] else kindReg k n
  | .cntReg _ _ => if k == 0 then [.s n] else []
  | .mask => [.m n]
  | .cond => []
  | .maskCond => if f.fc == 2 then [.m n] else [.c n]
  | .tile => [.t n, .shape n]
  | .acc => [.z n]
  | .acc2 => [.z n, .z (n + 1)]
  | .handle => [.h n]
  | .brcCond => if k == 0 then [.s n] else [.c (n % 8)]
  | .tileBlock => [.t (n % 8), .shape (n % 8)]
  | .zrowA => if k == 2 then [.v n] else [.z n]
  | .seed => if usesSeed f then kindReg k n else []
  | .first8 => (List.range 8).map (fun i => .s (n + i))
  | _ => []

/-- Registers an instruction reads and writes, by name in the current window. `regForm` is the layout
form of the context (09 R184), which decides what `BCOPY.S` reads. -/
structure Uses where
  reads : List RegName
  writes : List RegName
  deriving DecidableEq, Repr

/-- What a long or extended instruction reads and writes (03 R58, R59). -/
def usesOf (op : Nat) (f : Fields) (regForm : Bool) : Uses :=
  let r := rowOf! op
  let d := f.d.toNat
  let a := f.a.toNat
  let b := f.b.toNat
  let c := f.c.toNat
  let srcs := srcRegs r.a f.ak.toNat a f ++
    (if usesImm r f then [] else srcRegs r.b f.bk.toNat b f) ++
    (if usesImm r f then [] else srcRegs r.c f.ck.toNat c f) ++
    (if f.pm != 0 then [RegName.m f.pm.toNat] else [])
  let dst : List RegName := match r.d with
    | .file => kindReg f.fc.toNat d
    | .mask => [.m d]
    | .maskCond => if f.fc == 2 then [.m d] else [.c d]
    | .cond => [.c d]
    | .sReg => [.s d]
    | .shape => [.shape d]
    | .tile => [.t d]
    | .acc => [.z d]
    | .tileAcc => if f.b == 1 then [.z d] else [.t d]
    | .tileBlock => [.t (d % 8)]
    | .zrow => if f.uimm < 16 then [.v d] else [.z d]
    | _ => []
  let cw : List RegName := if r.c == .cond then [.c c] else []
  let vw : List RegName := if r.rs == .vmask && f.rs != 0 then [.m f.rs.toNat] else []
  match op with
  | 0x03 => { reads := .s d :: srcs, writes := [.s d] }
  | 0x82 => { reads := .shape d :: srcs, writes := dst }
  | 0x83 => { reads := .t d :: .shape d :: srcs, writes := [] }
  | 0x85 => { reads := .z d :: srcs, writes := [] }
  | 0x86 | 0x87 => { reads := .z d :: srcs, writes := dst }
  | 0x89 => { reads := .shape (d % 8) :: srcs, writes := dst }
  | 0x8A => { reads := srcs, writes := [.z d, .z (d + 1)] }
  | 0xA1 | 0xA3 => { reads := kindReg f.ck.toNat d ++ srcs, writes := [] }
  | 0xA8 | 0xA9 => { reads := .s d :: srcs, writes := [] }
  | 0xAA => { reads := .h d :: srcs ++ (if regForm then (List.range 8).map (fun i => .s (b + i)) else []),
              writes := [] }
  | 0xAB => { reads := srcs ++ (List.range d).map (fun i => .v (b + i)), writes := [] }
  | 0xAC => { reads := .s d :: srcs, writes := [] }
  | 0xAD => { reads := .s d :: .s (c + 1) :: srcs, writes := [] }
  | 0xC0 | 0xC1 => { reads := (if f.atomOp == 7 then dst else []) ++ srcs, writes := dst }
  | 0xE2 => { reads := (if [0x001, 0x051, 0x052].contains f.uimm then [.fpstat] else []) ++ srcs, writes := dst }
  | 0xE3 => { reads := srcs, writes := if f.imm14 == 1 then [.fpstat] else [] }
  | _ => { reads := srcs, writes := dst ++ cw ++ vw }

/-- What a pending instruction still depends on: as `usesOf`, but the format-block operand of `TMMA.FB`
was read in its issue slot (08 R154). -/
def heldReads (op : Nat) (f : Fields) (u : Uses) : List RegName :=
  if op == 0x87 then u.reads.filter (fun r => r != .v f.c.toNat) else u.reads

/-- Whether an opcode lies in the control range (03 R57, R61). -/
def isControl (op : Nat) : Bool := op < 0x20

end Sys2Proof.Machine
end

