-- ==== Sys2Proof/Machine/Flags.lean ====
section
/-! DEFINITION. Floating-point flags of an instruction (06 R110-R114): which lanes raise them, the trap
of an enabled flag, and the rounding mode in force. -/

namespace Sys2Proof.Machine

/-- The register effect of an instruction, formed before anything is written (07 R121): the writes,
the flags by lane (lane 64 stands for a uniform result), and the products of a matrix instruction. -/
structure Eff where
  ws : List RegWrite := []
  flags : List (Nat × BitVec 5) := []
  prod : Nat := 0
  skip : Nat := 0
  deriving DecidableEq, Repr

/-- The rounding mode an instruction names; `.dyn` takes FPMODE.RM (06 R103, R111). -/
def Thread.rounding (t : Thread) (rs : BitVec 3) : Nat := if rs == 5 then (t.fpmode.extractLsb' 0 2).toNat else rs.toNat

/-- Flags that count: those of lanes that are no helper lanes, and of a uniform result (06 R112). -/
def countedFlags (t : Thread) (fl : List (Nat × BitVec 5)) : List (Nat × BitVec 5) :=
  fl.filter (fun p => p.2 != 0 && !t.help.getLsbD p.1)

/-- The OR of some flags (06 R112). -/
def joinFlags (fl : List (Nat × BitVec 5)) : BitVec 5 := fl.foldl (fun a p => a ||| p.2) 0

/-- The trap of an enabled flag (06 R114): the lowest-numbered enabled flag decides the cause, and the
lanes that raised it are recorded (17 R324) (DEDUCED, log 34). -/
def flagTrap (t : Thread) (fl : List (Nat × BitVec 5)) : Option TrapInfo :=
  let fl := countedFlags t fl
  let all := joinFlags fl
  let en := all &&& t.fpmode.extractLsb' 2 5
  if en == 0 then none
  else
    let k := ((List.range 5).filter (fun i => en.getLsbD i)).headD 0
    let uni := fl.any (fun p => p.1 == 64)
    some { cause := 0x20 + k, flags := all
           lanes := if uni then none
             else some (maskOf (fun l => fl.any (fun p => p.1 == l && p.2.getLsbD k))) }

end Sys2Proof.Machine
end

