-- ==== Sys2Proof/Machine/Issue.lean ====
section
/-! DEFINITION. Issuing one slot (03 R57-R60, 04 R69, R76): completing pending long-latency work, the
checks made at issue, committing an effect, and what follows a slot that issued. -/

namespace Sys2Proof.Machine

/-! ### Completing pending work -/

/-- An atomic's new value from the old one and the data (10 R205; 06 R118). -/
def atomNew (opn et old x cmp : Nat) : Nat × BitVec 5 :=
  let n := 2 ^ (8 * etBytes et)
  let sv (v : Nat) : Int := if etSigned et && etIsInt et && v ≥ n / 2 then (v : Int) - n else v
  match opn with
  | 0 => ((old + x) % n, 0)
  | 1 => (if sv x < sv old then x else old, 0)
  | 2 => (if sv old < sv x then x else old, 0)
  | 3 => (old &&& x, 0)
  | 4 => (old ||| x, 0)
  | 5 => (old ^^^ x, 0)
  | 6 => (x, 0)
  | 7 => (if old == cmp then x else old, 0)
  | 8 => fAdd et 0 old x
  | 9 => fMinMax et false old x
  | _ => fMinMax et true old x

/-- Perform every entry of the issuing thread's store queue that is older than `ord` (09 R172). -/
def State.drainStores (s : State) (ord : Nat) : State :=
  let old := s.thr.queue.filter (fun e => e.ord < ord)
  let s := old.foldl State.performEnt s
  { s with thr := { s.thr with queue := s.thr.queue.filter (fun e => ord ≤ e.ord) } }

/-- One lane's read-modify-write, with the value returned and whether it was poisoned (10 R205, 17
R345). -/
def atomLane (s : State) (opn et key : Nat) (x cmp : Word) : State × Word × Bool × BitVec 5 :=
  let e := etBytes et
  let old := rdNat s.mem key e
  if s.poisonMem.contains (key / 32) then (s, extendEt et old, true, 0)
  else
    let (new, fl) := atomNew opn et old (x.toNat % 2 ^ (8 * e)) (cmp.toNat % 2 ^ (8 * e))
    (s.store (cellsAt key (toBytes e new)), extendEt et old, false, fl)

/-- Register writes of tile bytes, or of accumulator bytes joined to elements (08 R150, R151). -/
def tileWrites (acc : Bool) (cells : List (Nat × Byte)) : List RegWrite :=
  if acc then
    (cells.map (fun c => c.1 / 4)).eraseDups.map (fun w =>
      let b (i : Nat) : Byte := (cells.find? (fun c => c.1 == 4 * w + i)).elim 0 (·.2)
      .acc w (b 3 ++ b 2 ++ b 1 ++ b 0))
  else cells.map (fun c => .tile c.1 c.2)

/-- The rows of a tile or accumulator that a sector fills. -/
def SectorAcc.rows (acc : Bool) (sec : SectorAcc) : List Nat :=
  (sec.fills.map (fun x => x.2 / (if acc then 64 else 32))).eraseDups

/-- Rows that some sectors of a tile load of place `ord` poison (17 R345). -/
def poisonedRows (s : State) (ord : Nat) (acc : Bool) (secs : List SectorAcc) : List Nat :=
  (secs.filter (fun sec => loadPoison s s.thr ord sec.key 32)).flatMap (SectorAcc.rows acc)

/-- The bytes that some sectors of a tile load of place `ord` bring, as register writes (08 R150, 09 R172). -/
def sectorWrites (s : State) (ord : Nat) (acc : Bool) (secs : List SectorAcc) : List RegWrite :=
  tileWrites acc (secs.flatMap (fun sec => sec.fills.map (fun x => (x.2, loadByte s s.thr ord (sec.key + x.1)))))

/-- Complete a pending instruction of the issuing thread: its results are written (03 R57, 09 R179, 10
R205). -/
def State.doWork (s : State) (p : Pend) : State :=
  match p.work with
  | .done => s
  | .result ws prod skip =>
    s.modThr (fun t =>
      let t := (t.writes ws).raiseFlags p.flags
      { t with counts := { t.counts with prod := t.counts.prod + prod, skip := t.counts.skip + skip } })
  | .load d fc et accs =>
    let ws := accs.map (fun a =>
      match a.key with
      | none => loadWrite d fc a.lane 0 a.bad
      | some k =>
        let e := etBytes et
        let v := ofBytes ((List.range e).map (fun i => loadByte s s.thr p.ord (k + i)))
        loadWrite d fc a.lane (extendEt et v) (a.bad || loadPoison s s.thr p.ord k e))
    s.modThr (fun t => t.writes ws)
  | .ltag d fc accs =>
    let ws := accs.map (fun a =>
      match a.key with
      | none => loadWrite d fc a.lane 0 a.bad
      | some k => loadWrite d fc a.lane ((loadTag s s.thr p.ord (k / 32)).setWidth 64) a.bad)
    s.modThr (fun t => t.writes ws)
  | .atom opn d fc et accs data cmp =>
    let s := s.drainStores p.ord
    let go (acc : State × List RegWrite × BitVec 5) (x : LaneAcc × Word × Word) :
        State × List RegWrite × BitVec 5 :=
      match x.1.key with
      | none => acc
      | some k =>
        let (s', old, pz, fl) := atomLane acc.1 opn et k x.2.1 x.2.2
        (s', acc.2.1 ++ [loadWrite d fc x.1.lane old pz], acc.2.2 ||| fl)
    let (s, ws, fl) := (accs.zip (data.zip cmp)).foldl go (s, [], 0)
    (s.modThr (fun t => (t.writes ws).raiseFlags fl)).reread none
  | .tload acc _ sectors clear rows bad =>
    let bad := bad ++ poisonedRows s p.ord acc sectors
    s.modThr (fun t => t.writes (clear.map (fun k => if acc then .acc k 0 else .tile k 0) ++
      sectorWrites s p.ord acc sectors ++ rows.map (fun r => .row acc r (bad.contains r))))

/-- The accesses of a load that the sector arriving next holds, and those still out: sectors come in any order (09 R179). -/
def splitAccs (seed : Nat) (accs : List LaneAcc) : List LaneAcc × List LaneAcc :=
  let secs := ((accs.filterMap LaneAcc.key).map (· / 32)).eraseDups
  accs.partition (fun a => match a.key with
    | some k => some (k / 32) == secs[if secs.length ≤ 1 then 0 else seed % secs.length]?
    | none => true)

/-- What one arriving sector of a load performs, and what is left of it; `none` when nothing is left, and for work that is no
load (09 R179, 08 R150). -/
def splitWork (seed : Nat) (w : PendWork) : Option (PendWork × PendWork) :=
  match w with
  | .load d fc et accs =>
    let (a, b) := splitAccs seed accs
    if b.isEmpty then none else some (.load d fc et a, .load d fc et b)
  | .ltag d fc accs =>
    let (a, b) := splitAccs seed accs
    if b.isEmpty then none else some (.ltag d fc a, .ltag d fc b)
  | _ => none

/-- The oldest instruction with results to write, and the list in which they are written. -/
def nextPend (ps : List Pend) : Option (Pend × List Pend) :=
  match ps with
  | [] => none
  | p :: r =>
    if p.work = .done then (nextPend r).map (fun x => (x.1, p :: x.2)) else some (p, { p with work := .done } :: r)

/-- Complete the oldest pending instruction; its window stays. -/
def State.completeOne (s : State) : State :=
  match nextPend s.thr.pending with
  | none => s
  | some (p, ps) => (s.modThr (fun t => { t with pending := ps })).doWork p

/-- The list with other work for the oldest instruction that has results to write. -/
def setNext (ps : List Pend) (w : PendWork) : List Pend :=
  match ps with
  | [] => []
  | p :: r => if p.work = .done then p :: setNext r w else { p with work := w } :: r

/-- The next sector of the oldest pending load arrives: any sector of a load, the lowest of a tile load. With its last sector the
instruction completes (09 R179, 08 R150; which sector comes is free, log 1). -/
def State.arriveSector (s : State) : State :=
  match nextPend s.thr.pending with
  | none => s
  | some (p, _) =>
    match p.work with
    | .tload acc n (sec :: sec' :: r) clear rows bad =>
      let bad' := poisonedRows s p.ord acc [sec]
      s.modThr (fun t => { t.writes (sectorWrites s p.ord acc [sec] ++ bad'.map (fun r => .row acc r true)) with
        pending := setNext t.pending (.tload acc n (sec' :: r) clear rows (bad ++ bad')) })
    | w =>
      match splitWork (Config.choice s.tick) w with
      | none => s.completeOne
      | some (now, later) =>
        (s.modThr (fun t => { t with pending := setNext t.pending later })).doWork { p with work := now }

/-- Complete `n` pending instructions, oldest first. -/
def State.completeN (s : State) (n : Nat) : State :=
  match n with
  | 0 => s
  | k + 1 => s.completeOne.completeN k

/-- Complete every pending instruction; windows stay open. -/
def State.finishAll (s : State) : State := s.completeN s.thr.pending.length

/-- Complete every pending instruction and end every window (03 R57, R58). -/
def State.completeAll (s : State) : State := s.finishAll.modThr (fun t => { t with pending := [] })

/-- Everything a release orders is performed: pending instructions, then the store queue (10 R206); a WAITV reads its
location again after writes to its sector (10 R209). -/
def State.release (s : State) : State := (s.finishAll.drainStores s.thr.memOrd).reread none

/-- Registers whose lookahead is checked; masks, conditions and FPSTAT are interlocked (03 R58). -/
def RegName.checked (r : RegName) : Bool :=
  match r with
  | .m _ | .c _ | .fpstat => false
  | _ => true

/-- Whether a slot must wait for a pending instruction (03 R57, R58; 06 R113). -/
def mustWait (u : Uses) (ctl : Bool) (p : Pend) : Bool :=
  let named := (u.reads ++ u.writes).filter (fun r => !RegName.checked r)
  ctl || p.left == 0 || named.any (fun r => r == .fpstat || p.writes.contains r)

/-- How many pending instructions a slot waits for: all up to the last it must wait for. -/
def waitCount (u : Uses) (ctl : Bool) (ps : List Pend) : Nat :=
  match ps with
  | [] => 0
  | p :: r =>
    let n := waitCount u ctl r
    if p.work = .done then n else if n > 0 then n + 1 else if mustWait u ctl p then 1 else 0

/-- Complete what a slot waits for before it issues; windows that are over, or ended by a control
instruction, close (03 R57). -/
def State.drain (s : State) (u : Uses) (ctl : Bool) : State :=
  (s.completeN (waitCount u ctl s.thr.pending)).modThr (fun t =>
    { t with pending := t.pending.filter (fun p => !(p.work = .done && (ctl || p.left == 0))) })

/-! ### Checks made at issue -/

/-- A slot inside an open window is in violation (03 R58). -/
def violates (u : Uses) (p : Pend) : Bool :=
  u.reads.any (fun r => RegName.checked r && p.writes.contains r) ||
  u.writes.any (fun r => RegName.checked r && (p.reads.contains r || p.writes.contains r))

/-- A name at or above its window's size (04 R69). -/
def outsideWindow (t : Thread) (r : RegName) : Bool :=
  match r with
  | .s n => t.wins.s.ws ≤ n
  | .a n => t.wins.a.ws ≤ n
  | .v n => t.wins.v.ws ≤ n
  | _ => false

/-- A tile register or accumulator that is not declared (08 R142). -/
def undeclared (t : Thread) (r : RegName) : Bool :=
  match r with
  | .t n | .shape n => t.tiles.nt ≤ n
  | .z n => t.tiles.nz ≤ n
  | _ => false

/-- Whether a uniform or affine register is poisoned. -/
def poisonedWhole (t : Thread) (r : RegName) : Bool :=
  match r with
  | .s n => t.poison.s.contains (t.wins.s.wb + n)
  | .a n => t.poison.a.contains (t.wins.a.wb + n)
  | _ => false

/-- Lanes of `sel` that read poison in a register: every one of them for a uniform or affine operand (17 R324, R346)
(DEDUCED, log 45). -/
def poisonLanes (t : Thread) (sel : Word) (r : RegName) : Word :=
  match r with
  | .v n => maskOf (fun l => sel.getLsbD l && t.poison.v.contains (t.vKey n l))
  | r => if poisonedWhole t r then sel else 0

/-- A hail thread's slot that would pass 512 instructions (09 R193). -/
def Thread.hailOver (t : Thread) (k : Nat) : Bool := t.name.hail && 512 < t.hailCount + k

/-- A routine's slot that would pass 4,096 instructions (16 R311). -/
def Thread.routineOver (t : Thread) (k : Nat) : Bool := t.routine.any (fun r => 4096 < r.count + k)

/-- A write of a uniform slot below the fence of a class entry, under another mask than its OUTER (04 R76). -/
def breaksFence (t : Thread) (r : RegName) : Bool :=
  match r with
  | .s n => t.fenced (t.wins.s.wb + n)
  | _ => false

/-- Lanes in which an instruction reads poison, helper lanes among them; `remote` holds those that receive another lane's (17
R346) (DEDUCED, log 45). -/
def readPoison (t : Thread) (u : Uses) (sel remote : Word) : Word :=
  u.reads.foldl (fun m r => m ||| poisonLanes t sel r) remote

/-- Whether an instruction consumes poison: in a real lane, or as a uniform or affine operand (17 R346). -/
def consumesPoison (t : Thread) (u : Uses) (sel remote : Word) : Bool :=
  u.reads.any (poisonedWhole t) || readPoison t u sel remote &&& ~~~ t.help != 0

/-- The checks every instruction meets at issue, in this order (DEDUCED, log 21): the limits of hail threads and
routines (09 R193, 16 R311), lookahead (03 R58), window bound (04 R69), declared tiles (08 R142), poison
(17 R346; `remote` holds lanes that receive another lane's), and uniform writes under a partial mask (04
R76) unless `exempt`. `k` is the slot's instruction count up to this one. -/
def issueCheck (t : Thread) (u : Uses) (k : Nat) (sel remote : Word) (exempt noRead : Bool) : Option TrapInfo :=
  if t.hailOver k then some { cause := 0x54 }
  else if t.routineOver k then some { cause := 0x3E }
  else if t.pending.any (violates u) then some { cause := 0x08 }
  else if (u.reads ++ u.writes).any (outsideWindow t) then some { cause := 0x13 }
  else if (u.reads ++ u.writes).any (undeclared t) then some { cause := 0x27 }
  else if !noRead && consumesPoison t u sel remote then some { cause := 0x60, lanes := some (readPoison t u sel remote) }
  else if !exempt && u.writes.any (breaksFence t) then some { cause := 0x10 }
  else none

/-! ### Running a slot -/

/-- Open windows lose one slot when a slot issues (03 R57) (DEDUCED, log 33). -/
def Thread.tickWindows (t : Thread) : Thread :=
  { t with pending := t.pending.map (fun p => { p with left := p.left - 1 }) }

/-- What a slot of `n` instructions counts in its thread: ISSUED by `one`, the limits' counts, and the debugger's step
(16 R311, 18 R365, R369). -/
def Thread.countSlot (one : Word) (n : Nat) (t : Thread) : Thread :=
  { t with counts := { t.counts with issued := t.counts.issued + one }
           hailCount := if t.name.hail then t.hailCount + n else t.hailCount
           routine := t.routine.map (fun r => { r with count := r.count + n })
           stepDone := t.stepDone || (t.step && t.routine.isNone), step := t.step && t.routine.isSome
           skipBp := false, sched := { t.sched with waited := 0 } }

/-- The address of the slot that a thread stands at: inside routines, that of the instruction the outermost one emulates (16
R311). -/
def Thread.slotPc (t : Thread) : Pc := (t.leaveRoutines (t.stack.length + 1) 0).1.pc

/-- A thread's slot issues in its partition, from address `pc` (18 R361). -/
def State.noteIssue (s : State) (t : Thread) (pc : Pc) : State :=
  let k := 8 * t.place.core + t.place.part
  let p := mget {} s.picks k
  { s with picks := mset {} s.picks k { tid := t.id, clock := s.clock, starved := p.tid == t.id && p.clock == s.clock && p.starved
                                        pc := some pc } }

/-- Whether the thread of an identity is inside a routine, which is one slot as a whole (16 R311). -/
def State.insideRoutine (s : State) (tid : Nat) : Bool := (s.thread? tid).any (fun t => t.routine.isSome)

/-- After a slot of `n` instructions of the thread `u`, as it stood before: what the thread counts, SLOTS of its context (18 R367),
and that its partition issued. -/
def State.closeSlot (s : State) (u : Thread) (n : Nat) : State :=
  let one : Word := if s.insideRoutine u.id then 0 else 1
  ((s.onThread u.id (Thread.countSlot one n)).modCtx u.name.ctx (fun c =>
    { c with counters := { c.counters with slots := c.counters.slots + one } })).noteIssue u u.slotPc

/-- Run one slot: wait as R57 demands, check, perform the body, and take the trap of whichever fails
first. The body sees the thread with its windows ticked (DEDUCED, log 33). -/
def runSlot (u : Uses) (ctl : Bool) (len : Nat) (sel remote : Thread → Word) (exempt noRead : Bool)
    (s : State) (body : State → Except TrapInfo State) : State :=
  let s := s.drain u ctl
  match issueCheck s.thr u 1 (sel s.thr) (remote s.thr) exempt noRead with
  | some tr => s.completeAll.takeTrap tr len
  | none =>
    match body (s.modThr Thread.tickWindows) with
    | .error tr => s.completeAll.takeTrap tr len
    | .ok s' => s'.closeSlot s.thr 1

/-- Run a long or extended instruction of opcode `op`. The data of `BSTORE` moves with its poison, which its body looks at (17
R345); `ENTER` reads no register. -/
def runLong (op : Nat) (f : Fields) (s : State) (body : State → Except TrapInfo State) : State :=
  let u := usesOf op f (s.ctx s.thr.name.ctx).regLayout
  let sel (t : Thread) : Word := if actsOnLanes (rowOf! op) f then t.sel f else t.m0
  runSlot u (isControl op) f.parcels sel (remotePoison op f) (op == 0x0F || op == 0x09 || op == 0x0A || op == 0x0B) (op == 0x08 || op == 0xAB) s body

/-- Move the program counter past the instruction. -/
def Thread.advance (t : Thread) (parcels : Nat) : Thread := { t with pc := t.pc + BitVec.ofNat 55 (4 * parcels) }

/-- Results of a lane that read poison are poisoned; `bad` holds those lanes, which are helper lanes when the instruction
completes (17 R346). A tile or accumulator row is poisoned as a whole. -/
def taint (bad : Word) (w : RegWrite) : List RegWrite :=
  match w with
  | .v k x p => [.v k x (p || bad.getLsbD (k % 64))]
  | .tile k _ => if bad.getLsbD (k / 32 % 64) then [w, .row false (k / 32) true] else [w]
  | .acc k _ => if bad.getLsbD (k / 16 % 64) then [w, .row true (k / 16) true] else [w]
  | _ => [w]

/-- The writes of an effect, with the poison that its lanes read (17 R346). -/
def Eff.tainted (e : Eff) (t : Thread) (u : Uses) (sel remote : Word) : List RegWrite :=
  e.ws.flatMap (taint (readPoison t u sel remote &&& t.help))

/-- Commit an effect of a long or extended instruction: at once, or when its results arrive (03 R57). -/
def commit (op : Nat) (f : Fields) (s : State) (e : Eff) : Except TrapInfo State :=
  let u := usesOf op f (s.ctx s.thr.name.ctx).regLayout
  let sel := if actsOnLanes (rowOf! op) f then s.thr.sel f else s.thr.m0
  match flagTrap s.thr e.flags with
  | some tr => .error tr
  | none =>
    let fl := joinFlags (countedFlags s.thr e.flags)
    let ws := e.tainted s.thr u sel (remotePoison op f s.thr)
    .ok (s.modThr (fun t =>
      let t := t.advance f.parcels
      if (rowOf! op).ll then
        { t with pending := t.pending ++ [{ work := .result ws e.prod e.skip, left := f.ahead.toNat,
                                            reads := heldReads op f u, writes := u.writes, flags := fl,
                                            ord := t.memOrd, pc := t.pc }] }
      else (t.writes ws).raiseFlags fl))

/-- Run a register instruction whose effect is `sem` (07 R121). -/
def runAlu (op : Nat) (sem : Fields → Thread → Except TrapInfo Eff) (f : Fields) (s : State) : State :=
  runLong op f s (fun s => (sem f s.thr).bind (commit op f s))

/-! ### Short instructions and pairs (03 R50, R59, R60) -/

/-- The effect of one short half, with its checks; `k` counts the slot's instructions. -/
def shortEff (sop : Nat) (sem : Fields → Thread → Except TrapInfo Eff) (f : ShortFields) (k : Nat) (t : Thread) :
    Except TrapInfo (Eff × Uses) :=
  let lf := shortFields sop f
  let u := if sop == 0 then { reads := [], writes := [] } else usesOf (shortLongOp sop) lf false
  match issueCheck t u k t.m0 0 false false with
  | some tr => .error tr
  | none =>
    (sem lf t).bind (fun e =>
      match flagTrap t e.flags with
      | some tr => .error tr
      | none => .ok ({ e with ws := e.tainted t u t.m0 0 }, u))

/-- What a slot that holds a short or a pair names (03 R57, R58). -/
def shortUses (sop : Nat) (f : ShortFields) : Uses :=
  if sop == 0 then { reads := [], writes := [] } else usesOf (shortLongOp sop) (shortFields sop f) false

/-- Run a short, or the pair it leads: both halves read before either writes, and a trap of either
undoes both (R60). `semOf` gives the meaning of the follower's opcode. -/
def runShort (sop : Nat) (sem : Fields → Thread → Except TrapInfo Eff)
    (semOf : Nat → Fields → Thread → Except TrapInfo Eff) (f : ShortFields) (s : State) : State :=
  let q := shortParts f.fol
  let u1 := shortUses sop f
  let u2 := shortUses q.1 q.2
  let u : Uses := if f.lead then { reads := u1.reads ++ u2.reads, writes := u1.writes ++ u2.writes } else u1
  let ctl := sop == 0 || (f.lead && q.1 == 0)
  let len := if f.lead then 2 else 1
  let s := s.drain u ctl
  let res : Except TrapInfo (Eff × Eff) :=
    match shortEff sop sem f 1 s.thr with
    | .error tr => .error tr
    | .ok (e1, _) =>
      if !f.lead then .ok (e1, {})
      else match shortEff q.1 (semOf q.1) q.2 2 s.thr with
        | .error tr => .error { tr with half := true }
        | .ok (e2, _) => .ok (e1, e2)
  match res with
  | .error tr => s.completeAll.takeTrap tr len
  | .ok (e1, e2) =>
    let fl := joinFlags (countedFlags s.thr (e1.flags ++ e2.flags))
    let s' := s.modThr (fun t => ((t.tickWindows.advance len).writes (e1.ws ++ e2.ws)).raiseFlags fl)
    s'.closeSlot s.thr len

end Sys2Proof.Machine
end

