-- ==== Sys2Proof/Machine/Alu.lean ====
section
/-! DEFINITION. Integer arithmetic, logic, shifts, bit fields, compare, select and the fused add-minimum
(07 R121-R128, R132). -/

namespace Sys2Proof.Machine

/-! ### Results over lanes (07 R121) -/

/-- A varying result in each selected lane, or a uniform one once. -/
def overLanes (f : Fields) (t : Thread) (g : Option Nat → Word × BitVec 5) : Eff :=
  if f.fc == 2 then
    let rs := (lanesOf (t.sel f)).map (fun l => (l, g (some l)))
    { ws := rs.map (fun r => .v (t.vKey f.d.toNat r.1) (r.2.1.setWidth 32) false)
      flags := rs.map (fun r => (r.1, r.2.2)) }
  else
    let r := g none
    { ws := [.s (t.wins.s.wb + f.d.toNat) r.1 false], flags := [(64, r.2)] }

/-- A mask result in the selected lanes, or a condition (07 R127). -/
def overBits (f : Fields) (t : Thread) (g : Option Nat → Bool × BitVec 5) : Eff :=
  if f.fc == 2 then
    let rs := (lanesOf (t.sel f)).map (fun l => (l, g (some l)))
    { ws := [.m f.d.toNat (t.sel f) (maskOf (fun l => rs.any (fun r => r.1 == l && r.2.1)))]
      flags := rs.map (fun r => (r.1, r.2.2)) }
  else
    let r := g none
    { ws := [.c f.d.toNat r.1], flags := [(64, r.2)] }

/-! ### Integer arithmetic (07 R124) -/

/-- Width of an element type in bits. -/
def etBits (et : Nat) : Nat := 8 * etBytes et

/-- An operand's low bits as the integer of its type (06 R100). -/
def intVal (et : Nat) (w : Word) : Int :=
  let n := w.toNat % 2 ^ etBits et
  if etSigned et && n ≥ 2 ^ (etBits et - 1) then (n : Int) - 2 ^ etBits et else n

/-- The least and greatest value of an integer type (06 R99). -/
def intMin (et : Nat) : Int := if etSigned et then -(2 ^ (etBits et - 1)) else 0
def intMax (et : Nat) : Int := if etSigned et then 2 ^ (etBits et - 1) - 1 else 2 ^ etBits et - 1

/-- An exact result wrapped or saturated to its type and extended to the register (06 R99, R100). -/
def intFit (et : Nat) (sat : Bool) (e : Int) : Word :=
  let e := if sat then max (intMin et) (min (intMax et) e) else e
  extendEt et (e.emod (2 ^ etBits et)).toNat

/-- A two-source integer operation over lanes. -/
def int2 (g : Int → Int → Int) (f : Fields) (t : Thread) : Except TrapInfo Eff :=
  let et := f.et.toNat
  .ok (overLanes f t (fun l => (intFit et f.ov (g (intVal et (t.opA f l)) (intVal et (t.opB f l))), 0)))

/-- A one-source integer operation over lanes. -/
def int1 (g : Int → Int) (f : Fields) (t : Thread) : Except TrapInfo Eff :=
  let et := f.et.toNat
  .ok (overLanes f t (fun l => (intFit et f.ov (g (intVal et (t.opA f l))), 0)))

def semIadd : Fields → Thread → Except TrapInfo Eff := int2 (· + ·)
def semIsub : Fields → Thread → Except TrapInfo Eff := int2 (· - ·)
def semImul : Fields → Thread → Except TrapInfo Eff := int2 (· * ·)
def semImin : Fields → Thread → Except TrapInfo Eff := int2 min
def semImax : Fields → Thread → Except TrapInfo Eff := int2 max
def semIabs : Fields → Thread → Except TrapInfo Eff := int1 (fun x => x.natAbs)
def semIneg : Fields → Thread → Except TrapInfo Eff := int1 (fun x => -x)

/-- IMULH: the high half of the exact product in two's complement (07 R124). -/
def semImulh (f : Fields) (t : Thread) : Except TrapInfo Eff :=
  int2 (fun a b => (a * b) / 2 ^ etBits f.et.toNat) f t

/-- IMAD: product and sum exact, the mode applied once (07 R124). -/
def semImad (f : Fields) (t : Thread) : Except TrapInfo Eff :=
  let et := f.et.toNat
  .ok (overLanes f t (fun l =>
    (intFit et f.ov (intVal et (t.opA f l) * intVal et (t.opB f l) + intVal et (t.opC f l)), 0)))

/-! ### Logic, shifts and bit fields (07 R125, R126) -/

/-- An operation on the low bits of two operands, as unsigned numbers of a width. -/
def bits2 (g : Nat → Nat → Nat → Nat) (f : Fields) (t : Thread) : Except TrapInfo Eff :=
  let et := f.et.toNat
  let n := etBits et
  .ok (overLanes f t (fun l =>
    (extendEt et (g n ((t.opA f l).toNat % 2 ^ n) ((t.opB f l).toNat % 2 ^ n) % 2 ^ n), 0)))

/-- An operation on the low bits of one operand. -/
def bits1 (g : Nat → Nat → Nat) (f : Fields) (t : Thread) : Except TrapInfo Eff :=
  bits2 (fun n a _ => g n a) f t

/-- Shift right with copies of the sign bit (07 R125). -/
def sarBits (n a k : Nat) : Nat :=
  let v : Int := if a ≥ 2 ^ (n - 1) then (a : Int) - 2 ^ n else a
  ((v / 2 ^ min k n).emod (2 ^ n)).toNat

/-- Rotate left (07 R125). -/
def rolBits (n a k : Nat) : Nat := a * 2 ^ (k % n) % 2 ^ n + a / 2 ^ (n - k % n)

/-- The number of 1 bits below bit `n`. -/
def popBits (n a : Nat) : Nat := ((List.range n).filter (fun i => a.testBit i)).length

/-- The number of 0 bits above the highest 1 bit. -/
def clzBits (n a : Nat) : Nat := if a = 0 then n else n - 1 - Nat.log2 a

/-- Bit i moves to bit n − 1 − i. -/
def revBits (n a : Nat) : Nat :=
  (List.range n).foldl (fun acc i => if a.testBit i then acc + 2 ^ (n - 1 - i) else acc) 0

def semAnd : Fields → Thread → Except TrapInfo Eff := bits2 (fun _ a b => a &&& b)
def semOr : Fields → Thread → Except TrapInfo Eff := bits2 (fun _ a b => a ||| b)
def semXor : Fields → Thread → Except TrapInfo Eff := bits2 (fun _ a b => a ^^^ b)
def semNot : Fields → Thread → Except TrapInfo Eff := bits1 (fun n a => 2 ^ n - 1 - a)
def semShl : Fields → Thread → Except TrapInfo Eff := bits2 (fun n a k => if k ≥ n then 0 else a * 2 ^ k)
def semShr : Fields → Thread → Except TrapInfo Eff := bits2 (fun n a k => if k ≥ n then 0 else a / 2 ^ k)
def semSar : Fields → Thread → Except TrapInfo Eff := bits2 sarBits
def semRol : Fields → Thread → Except TrapInfo Eff := bits2 rolBits
def semPopc : Fields → Thread → Except TrapInfo Eff := bits1 popBits
def semClz : Fields → Thread → Except TrapInfo Eff := bits1 clzBits
def semBrev : Fields → Thread → Except TrapInfo Eff := bits1 revBits

/-- BFX over a width (07 R126): `b` packs position and width. -/
def bfxBits (et n a b : Nat) : Word :=
  let pos := b % 256
  let w := b / 256 % 256
  if w = 0 || pos ≥ n then 0
  else
    let w' := min w (n - pos)
    let x := a / 2 ^ pos % 2 ^ w'
    let x := if etSigned et && x ≥ 2 ^ (w' - 1) then x + 2 ^ n - 2 ^ w' else x
    extendEt et x

/-- BFI over a width (07 R126). -/
def bfiBits (n a b c : Nat) : Nat :=
  let pos := b % 256
  let w := b / 256 % 256
  if w = 0 || pos ≥ n then c
  else
    let w' := min w (n - pos)
    c - c / 2 ^ pos % 2 ^ w' * 2 ^ pos + a % 2 ^ w' * 2 ^ pos

def semBfx (f : Fields) (t : Thread) : Except TrapInfo Eff :=
  let et := f.et.toNat
  let n := etBits et
  .ok (overLanes f t (fun l => (bfxBits et n ((t.opA f l).toNat % 2 ^ n) (t.opB f l).toNat, 0)))

def semBfi (f : Fields) (t : Thread) : Except TrapInfo Eff :=
  let et := f.et.toNat
  let n := etBits et
  .ok (overLanes f t (fun l => (extendEt et (bfiBits n ((t.opA f l).toNat % 2 ^ n) (t.opB f l).toNat
    ((t.opC f l).toNat % 2 ^ n)), 0)))

/-! ### Compare, select, add-minimum (07 R127, R128, R132) -/

def semIcmp (f : Fields) (t : Thread) : Except TrapInfo Eff :=
  let et := f.et.toNat
  .ok (overBits f t (fun l => (intCond f.rs.toNat (intVal et (t.opA f l)) (intVal et (t.opB f l)), 0)))

def semSel (f : Fields) (t : Thread) : Except TrapInfo Eff :=
  .ok (overLanes f t (fun l =>
    let k := match l with
      | some lane => (t.mask f.c.toNat).getLsbD lane
      | none => t.cond f.c.toNat
    (if k then t.opA f l else t.opB f l, 0)))

def semAddmin (f : Fields) (t : Thread) : Except TrapInfo Eff :=
  let et := f.et.toNat
  .ok (overLanes f t (fun l =>
    let a := t.opA f l
    let b := t.opB f l
    let c := t.opC f l
    if etIsInt et then
      (intFit et false (min (intVal et (intFit et f.ov (intVal et a + intVal et b))) (intVal et c)), 0)
    else
      let (x, fl) := fAdd et (t.rounding f.rs) a.toNat b.toNat
      let (y, fl') := fMinMax et false x c.toNat
      (BitVec.ofNat 64 y, fl ||| fl')))

def execIadd (f : Fields) (s : State) : Host.Outcome State Fault Refusal := .next (runAlu 0x20 semIadd f s)
def execIsub (f : Fields) (s : State) : Host.Outcome State Fault Refusal := .next (runAlu 0x21 semIsub f s)
def execImul (f : Fields) (s : State) : Host.Outcome State Fault Refusal := .next (runAlu 0x22 semImul f s)
def execImulh (f : Fields) (s : State) : Host.Outcome State Fault Refusal := .next (runAlu 0x23 semImulh f s)
def execImad (f : Fields) (s : State) : Host.Outcome State Fault Refusal := .next (runAlu 0x24 semImad f s)
def execImin (f : Fields) (s : State) : Host.Outcome State Fault Refusal := .next (runAlu 0x25 semImin f s)
def execImax (f : Fields) (s : State) : Host.Outcome State Fault Refusal := .next (runAlu 0x26 semImax f s)
def execIabs (f : Fields) (s : State) : Host.Outcome State Fault Refusal := .next (runAlu 0x27 semIabs f s)
def execIneg (f : Fields) (s : State) : Host.Outcome State Fault Refusal := .next (runAlu 0x28 semIneg f s)
def execIadds (f : Fields) (s : State) : Host.Outcome State Fault Refusal := .next (runAlu 0x29 semIadd f s)
def execIsubs (f : Fields) (s : State) : Host.Outcome State Fault Refusal := .next (runAlu 0x2A semIsub f s)
def execAnd (f : Fields) (s : State) : Host.Outcome State Fault Refusal := .next (runAlu 0x2B semAnd f s)
def execOr (f : Fields) (s : State) : Host.Outcome State Fault Refusal := .next (runAlu 0x2C semOr f s)
def execXor (f : Fields) (s : State) : Host.Outcome State Fault Refusal := .next (runAlu 0x2D semXor f s)
def execNot (f : Fields) (s : State) : Host.Outcome State Fault Refusal := .next (runAlu 0x2E semNot f s)
def execShl (f : Fields) (s : State) : Host.Outcome State Fault Refusal := .next (runAlu 0x2F semShl f s)
def execShr (f : Fields) (s : State) : Host.Outcome State Fault Refusal := .next (runAlu 0x30 semShr f s)
def execSar (f : Fields) (s : State) : Host.Outcome State Fault Refusal := .next (runAlu 0x31 semSar f s)
def execRol (f : Fields) (s : State) : Host.Outcome State Fault Refusal := .next (runAlu 0x32 semRol f s)
def execPopc (f : Fields) (s : State) : Host.Outcome State Fault Refusal := .next (runAlu 0x33 semPopc f s)
def execClz (f : Fields) (s : State) : Host.Outcome State Fault Refusal := .next (runAlu 0x34 semClz f s)
def execBrev (f : Fields) (s : State) : Host.Outcome State Fault Refusal := .next (runAlu 0x35 semBrev f s)
def execBfx (f : Fields) (s : State) : Host.Outcome State Fault Refusal := .next (runAlu 0x36 semBfx f s)
def execBfi (f : Fields) (s : State) : Host.Outcome State Fault Refusal := .next (runAlu 0x37 semBfi f s)
def execSel (f : Fields) (s : State) : Host.Outcome State Fault Refusal := .next (runAlu 0x38 semSel f s)
def execIcmp (f : Fields) (s : State) : Host.Outcome State Fault Refusal := .next (runAlu 0x39 semIcmp f s)
def execAddmin (f : Fields) (s : State) : Host.Outcome State Fault Refusal := .next (runAlu 0x3A semAddmin f s)

end Sys2Proof.Machine
end

