-- ==== Sys2Proof/Machine/Control.lean ====
section
/-! DEFINITION. The control range 0x00-0x1F (04 R77-R88): branches, calls, windows
and the class loop. -/

namespace Sys2Proof.Machine

/-- Move the issuing thread to a program counter. -/
def State.goto (s : State) (pc : Pc) : State := s.modThr (fun t => { t with pc := pc })

/-- Go on after the instruction. -/
def State.skip (s : State) (f : Fields) : State := s.modThr (fun t => t.advance f.parcels)

/-- A join of lane focus before `NEXTC`, `RET` or `SRET` (18 R366): the other lanes run, or the focus
ends and the instruction, of two parcels, is performed for the lanes that remain; a second pass that joins elsewhere traps to the
debugger. -/
def State.focusJoin (s : State) (perform : State → Except TrapInfo State) : Except TrapInfo State :=
  match s.thr.stack with
  | .focus e :: rest =>
    let t := s.thr
    let go (m0 : Word) : Except TrapInfo State :=
      let s := { s with thr := { t with m0 := m0, stack := rest } }
      if s.thr.active != 0 then perform s else .ok (s.settle 2)
    if !e.second then
      if (e.pend &&& ~~~ t.help) != 0 then
        .ok { s with thr := { t with
          stack := .focus { e with done := t.active, jpc := t.pc, second := true } :: rest
          m0 := e.pend, pc := e.fpc } }
      else go t.active
    else if e.done != 0 && e.jpc != t.pc then .error { cause := 0x7B }
    else go (t.m0 ||| e.done)
  | _ => perform s

/-- NOP (03 R63). -/
def doNop (f : Fields) (s : State) : Except TrapInfo State := .ok (s.skip f)

/-- BRA (04 R79). -/
def doBra (f : Fields) (s : State) : Except TrapInfo State := .ok (s.goto (s.thr.pc + dispBytes f))

/-- The condition of `BRC` (04 R79): a condition register, negated by A[3], or a nonzero `s`. -/
def brcTaken (t : Thread) (f : Fields) : Bool :=
  if f.ak == 3 then t.cond (f.a.toNat % 8) != f.a.getLsbD 3 else t.sReg f.a.toNat != 0

/-- BRC (04 R79). -/
def doBrc (f : Fields) (s : State) : Except TrapInfo State :=
  if brcTaken s.thr f then doBra f s else .ok (s.skip f)

/-- LOOP (04 R79). -/
def doLoop (f : Fields) (s : State) : Except TrapInfo State :=
  let v := s.thr.sReg f.d.toNat - 1
  let s := s.modThr (fun t => t.write (.s (t.wins.s.wb + f.d.toNat) v false))
  if v != 0 then doBra f s else .ok (s.skip f)

/-- JTAB (04 R80). -/
def doJtab (f : Fields) (s : State) : Except TrapInfo State :=
  let i := min (s.thr.sReg f.a.toNat).toNat f.uimm
  .ok (s.goto (s.thr.pc + 8 + 8 * BitVec.ofNat 55 i))

/-- Push a frame and go to a target (04 R81). -/
def callTo (f : Fields) (target : Pc) (s : State) : Except TrapInfo State :=
  let t := s.thr
  match t.push (.frame (t.pc + BitVec.ofNat 55 (4 * f.parcels)) t.wins.bases) with
  | some t => .ok { s with thr := { t with pc := target } }
  | none => .error { cause := 0x11 }

/-- CALL (04 R81). -/
def doCall (f : Fields) (s : State) : Except TrapInfo State := callTo f (s.thr.pc + dispBytes f) s

/-- CALLI (04 R81). -/
def doCalli (f : Fields) (s : State) : Except TrapInfo State :=
  let target : Pc := (s.thr.sReg f.a.toNat).setWidth 55
  if target.toNat % 4 != 0 then .error { cause := 0x07 } else callTo f target s

/-- RET without the join of lane focus (04 R81). -/
def retOver (s : State) : Except TrapInfo State :=
  match s.thr.stack with
  | [] => .error { cause := 0x14 }
  | .frame ret b :: rest =>
    .ok (s.modThr (fun t => { t with wins := t.wins.restore b, stack := rest, pc := ret }))
  | _ => .error { cause := 0x12 }

/-- RET (04 R81). -/
def doRet (_ : Fields) (s : State) : Except TrapInfo State := s.focusJoin retOver

/-- ENTER (04 R82). -/
def doEnter (f : Fields) (s : State) : Except TrapInfo State :=
  let t := s.thr
  let nv := (f.lit.extractLsb' 0 8).toNat
  let ns := (f.lit.extractLsb' 8 8).toNat
  let na := (f.lit.extractLsb' 16 8).toNat
  let bad (n : Nat) (w : Win) : Bool := n == 0 || w.alloc < n
  if bad nv t.wins.v || bad ns t.wins.s || bad na t.wins.a then .error { cause := 0x15 }
  else
    let t := { t with wins := { s := t.wins.s.move (t.wins.s.wb + f.b.toNat) ns
                                a := t.wins.a.move (t.wins.a.wb + f.c.toNat) na
                                v := t.wins.v.move (t.wins.v.wb + f.a.toNat) nv } }
    if t.spillFits then .ok { s with thr := t.advance f.parcels } else .error { cause := 0x11 }

/-- Open a class loop (04 R83). -/
def openClass (order : Order) (key : Key) (f : Fields) (s : State) : Except TrapInfo State :=
  let t := s.thr
  let dest := t.wins.s.wb + f.d.toNat
  let e : ClassEntry := { order := order, outer := t.m0, pend := t.m0, key := key
                          body := t.pc + BitVec.ofNat 55 (4 * f.parcels), fin := t.pc + dispBytes f, dest := dest }
  if t.belowFence dest then .error { cause := 0x10 }
  else match t.push (.cls e) with
    | none => .error { cause := 0x11 }
    | some t' => .ok { s with thr := startNextClass t' e t.stack }

/-- The key of `CLASS` and `CLASS.ASC` (04 R83) (DEDUCED, log 68). -/
def classKey (t : Thread) (f : Fields) : Key :=
  match f.ak.toNat with
  | 0 => .uni (t.sReg f.a.toNat)
  | 1 => .aff (t.aReg f.a.toNat).base (t.aReg f.a.toNat).stride
  | _ => .slot (t.wins.v.wb + f.a.toNat)

def doClassFirst (f : Fields) (s : State) : Except TrapInfo State := openClass .first (classKey s.thr f) f s
def doClassAsc (f : Fields) (s : State) : Except TrapInfo State := openClass .asc (classKey s.thr f) f s
def doClassM (f : Fields) (s : State) : Except TrapInfo State := openClass .mask (.mask (s.thr.mask f.a.toNat)) f s

/-- NEXTC without the join of lane focus (04 R84). -/
def nextcOver (s : State) : Except TrapInfo State :=
  match s.thr.stack with
  | .cls e :: rest =>
    if (e.pend &&& ~~~ s.thr.help) != 0 then .ok { s with thr := startNextClass s.thr e rest }
    else .ok (s.modThr (fun t => { t with m0 := e.outer, stack := rest, pc := e.fin }))
  | _ => .error { cause := 0x12 }

/-- NEXTC (04 R84). -/
def doNextc (_ : Fields) (s : State) : Except TrapInfo State := s.focusJoin nextcOver

/-- Class entries above the topmost trap entry (04 R85). -/
def levels (st : List Entry) : Nat :=
  match st with
  | [] => 0
  | .trap _ :: _ => 0
  | .cls _ :: r => levels r + 1
  | _ :: r => levels r

/-- Take lanes out of OUTER of the `k` innermost class entries (04 R85). -/
def dropOuter (k : Nat) (lanes : Word) (st : List Entry) : List Entry :=
  match st with
  | [] => []
  | .cls e :: r => if k = 0 then .cls e :: r
                   else .cls { e with outer := e.outer &&& ~~~ lanes } :: dropOuter (k - 1) lanes r
  | e :: r => e :: dropOuter k lanes r

/-- Take lanes out of every class entry and every trap entry (04 R85, 17 R326). -/
def dropEverywhere (lanes : Word) (st : List Entry) : List Entry :=
  st.map (fun e => match e with
    | .cls e => .cls { e with outer := e.outer &&& ~~~ lanes }
    | .trap e => .trap { e with savedM0 := e.savedM0 &&& ~~~ lanes }
    | e => e)

/-- The selected lanes leave `m0`; the group goes on, or settles (04 R85). -/
def leaveMask (f : Fields) (st : List Entry) (s : State) : State :=
  let t := s.thr
  let t := { t with m0 := t.m0 &&& ~~~ t.sel f, stack := st }
  if t.active != 0 then { s with thr := t.advance f.parcels } else { s with thr := t }.settle f.parcels

/-- LEAVE (04 R85). -/
def doLeave (f : Fields) (s : State) : Except TrapInfo State :=
  if levels s.thr.stack < f.uimm + 1 then .error { cause := 0x12 }
  else .ok (leaveMask f (dropOuter f.uimm (s.thr.sel f) s.thr.stack) s)

/-- EXIT (04 R85). -/
def doExit (f : Fields) (s : State) : Except TrapInfo State :=
  .ok (leaveMask f (dropEverywhere (s.thr.sel f) s.thr.stack) s)

/-- UPUT (04 R86). -/
def doUput (f : Fields) (s : State) : Except TrapInfo State :=
  let w := s.thr.operand f f.bk f.b none
  .ok (s.modThr (fun t => (t.write (.s (t.wins.s.wb + f.d.toNat) w false)).advance f.parcels))

/-- YIELD (04 R87): `age` is the time since when the thread counts as ready (14 R269). -/
def doYield (f : Fields) (s : State) : Except TrapInfo State :=
  .ok ((s.modThr (fun t => { t with sched := { t.sched with age := s.tick, starve := 0 } })).skip f)

def execNop (f : Fields) (s : State) : Host.Outcome State Fault Refusal := .next (runLong 0x00 f s (doNop f))
def execBra (f : Fields) (s : State) : Host.Outcome State Fault Refusal := .next (runLong 0x01 f s (doBra f))
def execBrc (f : Fields) (s : State) : Host.Outcome State Fault Refusal := .next (runLong 0x02 f s (doBrc f))
def execLoop (f : Fields) (s : State) : Host.Outcome State Fault Refusal := .next (runLong 0x03 f s (doLoop f))
def execJtab (f : Fields) (s : State) : Host.Outcome State Fault Refusal := .next (runLong 0x04 f s (doJtab f))
def execCall (f : Fields) (s : State) : Host.Outcome State Fault Refusal := .next (runLong 0x05 f s (doCall f))
def execCalli (f : Fields) (s : State) : Host.Outcome State Fault Refusal := .next (runLong 0x06 f s (doCalli f))
def execRet (f : Fields) (s : State) : Host.Outcome State Fault Refusal := .next (runLong 0x07 f s (doRet f))
def execEnter (f : Fields) (s : State) : Host.Outcome State Fault Refusal := .next (runLong 0x08 f s (doEnter f))
def execClassFirst (f : Fields) (s : State) : Host.Outcome State Fault Refusal :=
  .next (runLong 0x09 f s (doClassFirst f))
def execClassAsc (f : Fields) (s : State) : Host.Outcome State Fault Refusal :=
  .next (runLong 0x0A f s (doClassAsc f))
def execClassM (f : Fields) (s : State) : Host.Outcome State Fault Refusal := .next (runLong 0x0B f s (doClassM f))
def execNextc (f : Fields) (s : State) : Host.Outcome State Fault Refusal := .next (runLong 0x0C f s (doNextc f))
def execLeave (f : Fields) (s : State) : Host.Outcome State Fault Refusal := .next (runLong 0x0D f s (doLeave f))
def execExit (f : Fields) (s : State) : Host.Outcome State Fault Refusal := .next (runLong 0x0E f s (doExit f))
def execUput (f : Fields) (s : State) : Host.Outcome State Fault Refusal := .next (runLong 0x0F f s (doUput f))
def execYield (f : Fields) (s : State) : Host.Outcome State Fault Refusal := .next (runLong 0x10 f s (doYield f))

end Sys2Proof.Machine
end

