-- ==== Sys2Proof/Machine/Fp.lean ====
section
/-! DEFINITION. Floating point, transcendentals and conversion (07 R127, R129-R131). -/

namespace Sys2Proof.Machine

/-- A float result of two operands over lanes. -/
def flt2 (g : Nat → Nat → Nat → Nat → Nat × BitVec 5) (f : Fields) (t : Thread) : Except TrapInfo Eff :=
  .ok (overLanes f t (fun l =>
    let r := g f.et.toNat (t.rounding f.rs) (t.opA f l).toNat (t.opB f l).toNat
    (BitVec.ofNat 64 r.1, r.2)))

def semFadd : Fields → Thread → Except TrapInfo Eff := flt2 fAdd
def semFsub : Fields → Thread → Except TrapInfo Eff := flt2 fSub
def semFmul : Fields → Thread → Except TrapInfo Eff := flt2 fMul
def semFmin : Fields → Thread → Except TrapInfo Eff := flt2 (fun et _ a b => fMinMax et false a b)
def semFmax : Fields → Thread → Except TrapInfo Eff := flt2 (fun et _ a b => fMinMax et true a b)

def semFfma (f : Fields) (t : Thread) : Except TrapInfo Eff :=
  .ok (overLanes f t (fun l =>
    let r := fFma f.et.toNat (t.rounding f.rs) (t.opA f l).toNat (t.opB f l).toNat (t.opC f l).toNat
    (BitVec.ofNat 64 r.1, r.2)))

/-- HFMA2: both halves, their flags joined (07 R129). -/
def semHfma2 (f : Fields) (t : Thread) : Except TrapInfo Eff :=
  .ok (overLanes f t (fun l =>
    let half (k : Nat) := fFma f.et.toNat (t.rounding f.rs) ((t.opA f l).toNat >>> k) ((t.opB f l).toNat >>> k)
      ((t.opC f l).toNat >>> k)
    let lo := half 0
    let hi := half 16
    (BitVec.ofNat 64 (hi.1 * 65536 + lo.1), lo.2 ||| hi.2)))

def semFcmp (f : Fields) (t : Thread) : Except TrapInfo Eff :=
  .ok (overBits f t (fun l => fCompare f.et.toNat f.rs.toNat (t.opA f l).toNat (t.opB f l).toNat))

/-- A transcendental of `.f32` (07 R130). -/
def semTrans (op : Nat) (f : Fields) (t : Thread) : Except TrapInfo Eff :=
  .ok (overLanes f t (fun l =>
    let r := finishF 8 (t.rounding f.rs) 0 (transcend op (decEt 8 (t.opA f l).toNat))
    (BitVec.ofNat 64 r.1, r.2)))

/-- One conversion (07 R131): destination type, source type, overflow mode, rounding, random word. -/
def convert (dst src : Nat) (sat : Bool) (mode rnd : Nat) (w : Word) : Word × BitVec 5 :=
  if etIsInt src && etIsInt dst then (intFit dst sat (intVal src w), 0)
  else
    let x := if etIsInt src then ofInt (intVal src w) else decEt src w.toNat
    if etIsInt dst then
      let (v, fl) := toInt dst mode x
      (intFit dst false v, fl)
    else if dst == 13 then
      let (b, fl) := toE8m0 mode x
      (BitVec.ofNat 64 b, fl)
    else
      let (b, fl) := toFloat dst mode rnd x
      (BitVec.ofNat 64 b, fl)

def semCvt (f : Fields) (t : Thread) : Except TrapInfo Eff :=
  .ok (overLanes f t (fun l =>
    let rnd := if usesSeed f then srWord (t.wide f.ck.toNat f.c.toNat (l.getD 0)) 0 else 0
    convert f.et.toNat f.cvtSrc f.ov (t.rounding f.rs) rnd (t.opA f l)))

def execFadd (f : Fields) (s : State) : Host.Outcome State Fault Refusal := .next (runAlu 0x40 semFadd f s)
def execFsub (f : Fields) (s : State) : Host.Outcome State Fault Refusal := .next (runAlu 0x41 semFsub f s)
def execFmul (f : Fields) (s : State) : Host.Outcome State Fault Refusal := .next (runAlu 0x42 semFmul f s)
def execFfma (f : Fields) (s : State) : Host.Outcome State Fault Refusal := .next (runAlu 0x43 semFfma f s)
def execFmin (f : Fields) (s : State) : Host.Outcome State Fault Refusal := .next (runAlu 0x44 semFmin f s)
def execFmax (f : Fields) (s : State) : Host.Outcome State Fault Refusal := .next (runAlu 0x45 semFmax f s)
def execFcmp (f : Fields) (s : State) : Host.Outcome State Fault Refusal := .next (runAlu 0x46 semFcmp f s)
def execFrcp (f : Fields) (s : State) : Host.Outcome State Fault Refusal := .next (runAlu 0x47 (semTrans 0x47) f s)
def execFrsq (f : Fields) (s : State) : Host.Outcome State Fault Refusal := .next (runAlu 0x48 (semTrans 0x48) f s)
def execFexp2 (f : Fields) (s : State) : Host.Outcome State Fault Refusal := .next (runAlu 0x49 (semTrans 0x49) f s)
def execFlog2 (f : Fields) (s : State) : Host.Outcome State Fault Refusal := .next (runAlu 0x4A (semTrans 0x4A) f s)
def execFsin (f : Fields) (s : State) : Host.Outcome State Fault Refusal := .next (runAlu 0x4B (semTrans 0x4B) f s)
def execFcos (f : Fields) (s : State) : Host.Outcome State Fault Refusal := .next (runAlu 0x4C (semTrans 0x4C) f s)
def execFtanh (f : Fields) (s : State) : Host.Outcome State Fault Refusal := .next (runAlu 0x4D (semTrans 0x4D) f s)
def execHfma2 (f : Fields) (s : State) : Host.Outcome State Fault Refusal := .next (runAlu 0x4E semHfma2 f s)
def execCvt (f : Fields) (s : State) : Host.Outcome State Fault Refusal := .next (runAlu 0x60 semCvt f s)

end Sys2Proof.Machine
end

