-- ==== Sys2Proof/Machine/Lanes.lean ====
section
/-! DEFINITION. Affine arithmetic, promotion, masks and the cross-lane instructions (07 R133-R140). -/

namespace Sys2Proof.Machine

/-! ### Affine and promotion (07 R133-R135) -/

/-- Write an affine result, or trap when its exact stride does not fit (07 R133). -/
def affOut (f : Fields) (t : Thread) (base : Word) (k : Int) : Except TrapInfo Eff :=
  if k < -(2 ^ 31) || k > 2 ^ 31 - 1 then .error { cause := 0x16 }
  else .ok { ws := [.a (t.wins.a.wb + f.d.toNat) { base := base, stride := BitVec.ofInt 32 k } false] }

/-- Sources a and b as affine values; an immediate is a base with stride 0. -/
def affA (t : Thread) (f : Fields) : Affine :=
  if f.ak == 3 then { base := immWord f, stride := 0 } else t.affine f.ak.toNat f.a.toNat
def affB (t : Thread) (f : Fields) : Affine :=
  if f.bk == 3 then { base := immWord f, stride := 0 } else t.affine f.bk.toNat f.b.toNat

def semAadd (f : Fields) (t : Thread) : Except TrapInfo Eff :=
  let x := affA t f
  let y := affB t f
  affOut f t (x.base + y.base) (x.stride.toInt + y.stride.toInt)

def semAsub (f : Fields) (t : Thread) : Except TrapInfo Eff :=
  let x := affA t f
  let y := affB t f
  affOut f t (x.base - y.base) (x.stride.toInt - y.stride.toInt)

def semAmul (f : Fields) (t : Thread) : Except TrapInfo Eff :=
  let x := affA t f
  let u := (affB t f).base
  affOut f t (x.base * u) (x.stride.toInt * u.toInt)

/-- ASHL: a shift of 64 or more leaves a nonzero stride out of range. -/
def semAshl (f : Fields) (t : Thread) : Except TrapInfo Eff :=
  let x := affA t f
  let n := (affB t f).base.toNat
  affOut f t (if n ≥ 64 then 0 else x.base <<< n)
    (if x.stride == 0 then 0 else x.stride.toInt * 2 ^ min n 64)

def semAmov (f : Fields) (t : Thread) : Except TrapInfo Eff :=
  let x := affA t f
  affOut f t x.base x.stride.toInt

def semVfrom (f : Fields) (t : Thread) : Except TrapInfo Eff :=
  .ok (overLanes f t (fun l => (t.wide f.ak.toNat f.a.toNat (l.getD 0) >>> (32 * f.uimm), 0)))

/-- The value `SFROM` takes from a lane (07 R135). -/
def sfromVal (f : Fields) (t : Thread) (l : Nat) : Word :=
  if f.ak == 1 then (t.aReg f.a.toNat).at l
  else if f.et == 3 then (t.vReg f.a.toNat l).signExtend 64 else (t.vReg f.a.toNat l).setWidth 64

def semSfrom (f : Fields) (t : Thread) : Except TrapInfo Eff :=
  .ok { ws := [.s (t.wins.s.wb + f.d.toNat) (sfromVal f t (lowest t.active)) false] }

def semSfromChk (f : Fields) (t : Thread) : Except TrapInfo Eff :=
  let x := sfromVal f t (lowest t.active)
  if (lanesOf t.active).any (fun l => sfromVal f t l != x) then .error { cause := 0x17 }
  else .ok { ws := [.s (t.wins.s.wb + f.d.toNat) x false] }

/-! ### Masks (07 R136, R137) -/

/-- A mask operation in the selected lanes. -/
def maskOp (g : Word → Word → Word) (f : Fields) (t : Thread) : Except TrapInfo Eff :=
  .ok { ws := [.m f.d.toNat (t.sel f) (g (t.mask f.a.toNat) (t.mask f.b.toNat))] }

def semMand : Fields → Thread → Except TrapInfo Eff := maskOp (· &&& ·)
def semMor : Fields → Thread → Except TrapInfo Eff := maskOp (· ||| ·)
def semMxor : Fields → Thread → Except TrapInfo Eff := maskOp (· ^^^ ·)
def semMnot : Fields → Thread → Except TrapInfo Eff := maskOp (fun a _ => ~~~ a)

/-- The bits of a mask over the real lanes of `m0`. -/
def maskOver (f : Fields) (t : Thread) : Word := t.mask f.a.toNat &&& t.active

def semMcount (f : Fields) (t : Thread) : Except TrapInfo Eff :=
  .ok { ws := [.s (t.wins.s.wb + f.d.toNat) (BitVec.ofNat 64 (lanesOf (maskOver f t)).length) false] }
def semMfirst (f : Fields) (t : Thread) : Except TrapInfo Eff :=
  .ok { ws := [.s (t.wins.s.wb + f.d.toNat) (BitVec.ofNat 64 (lowest (maskOver f t))) false] }
def semMany (f : Fields) (t : Thread) : Except TrapInfo Eff := .ok { ws := [.c f.d.toNat (maskOver f t != 0)] }
def semMall (f : Fields) (t : Thread) : Except TrapInfo Eff := .ok { ws := [.c f.d.toNat (maskOver f t == t.active)] }

/-! ### Lane exchange (07 R138) -/

/-- The exchange an opcode names; invalid lanes keep their own value. -/
def semExchange (op : Nat) (f : Fields) (t : Thread) : Except TrapInfo Eff :=
  let sel := t.sel f
  let src := srcLane op f t
  let ws : List RegWrite := (lanesOf sel).map (fun l =>
    let from_ := if validSrc t (src l) then (src l).toNat else l
    .v (t.vKey f.d.toNat l) (t.lane f.ak.toNat f.a.toNat from_)
      (f.ak == 2 && t.poison.v.contains (t.vKey f.a.toNat from_)))
  .ok { ws := ws ++ (if f.rs == 0 then [] else [.m f.rs.toNat sel (maskOf (fun l => validSrc t (src l)))]) }

/-! ### Match, scan and reduce (07 R139, R140) -/

def semMatch (f : Fields) (t : Thread) : Except TrapInfo Eff :=
  let sel := t.sel f
  let parts := lanesOf (sel &&& ~~~ t.help)
  let val (l : Nat) := t.vReg f.a.toNat l
  let leader (l : Nat) : Nat := (parts.filter (fun p => val p == val l)).headD l
  let ws : List RegWrite := (lanesOf sel).map (fun l => .v (t.vKey f.d.toNat l) (BitVec.ofNat 32 (leader l)) false)
  .ok { ws := ws ++ (if f.rs == 0 then [] else
    [.m f.rs.toNat sel (maskOf (fun l => parts.contains l && leader l == l))]) }

/-- Combine values by an operation code of 07 R122 in a type (07 R140, 06 R116); at least one value. -/
def combine (opn et mode : Nat) (sat : Bool) (xs : List Word) : Word × BitVec 5 :=
  let fold (g : Word → Word → Word) : Word := match xs with | [] => 0 | x :: r => r.foldl g x
  if etIsInt et then
    let vs := xs.map (intVal et)
    let least (g : Int → Int → Int) : Int := match vs with | [] => 0 | x :: r => r.foldl g x
    match opn with
    | 0 => (intFit et sat (vs.foldl (· + ·) 0), 0)
    | 1 => (intFit et false (least min), 0)
    | 2 => (intFit et false (least max), 0)
    | 3 => (extendEt et ((fold (· &&& ·)).toNat % 2 ^ etBits et), 0)
    | 4 => (extendEt et ((fold (· ||| ·)).toNat % 2 ^ etBits et), 0)
    | _ => (extendEt et ((fold (· ^^^ ·)).toNat % 2 ^ etBits et), 0)
  else if opn == 0 then
    let (b, fl) := finishF et mode 0 (fSum mode (xs.map (fun x => decEt et x.toNat)))
    (BitVec.ofNat 64 b, fl)
  else
    let r := xs.foldl (fun (acc : Option Nat × BitVec 5) x =>
      let (b, fl) := fMinMax et (opn == 2) (acc.1.getD x.toNat) x.toNat
      (some b, acc.2 ||| fl)) (none, 0)
    (BitVec.ofNat 64 (r.1.getD 0), r.2)

/-- The value a participant supplies. -/
def partVal (f : Fields) (t : Thread) (l : Nat) : Word := (t.lane f.ak.toNat f.a.toNat l).setWidth 64

/-- Mark the varying results of some lanes poisoned: only helper lanes get so far with poison (17 R346). -/
def poisonResults (p : Nat → Bool) (e : Eff) : Eff :=
  { e with ws := e.ws.map (fun w => match w with | .v k x q => .v k x (q || p (k % 64)) | w => w) }

def semVscan (f : Fields) (t : Thread) : Except TrapInfo Eff :=
  let parts := lanesOf (t.sel f)
  .ok (poisonResults (fun l => parts.any (fun p => p ≤ l && poisonedAt f t p))
    (overLanes f t (fun l => combine f.b.toNat f.et.toNat (t.rounding f.rs) f.ov
      ((parts.filter (fun p => p ≤ l.getD 0)).map (partVal f t)))))

def semVred (f : Fields) (t : Thread) : Except TrapInfo Eff :=
  let parts := lanesOf (if f.fc == 2 then t.sel f else t.m0)
  let ext (w : Word) : Word :=
    if f.fc == 2 || f.et != 3 then w else (w.setWidth 32).signExtend 64
  let r := combine f.b.toNat f.et.toNat (t.rounding f.rs) f.ov (parts.map (fun l => ext (partVal f t l)))
  .ok (poisonResults (fun _ => parts.any (poisonedAt f t)) (overLanes f t (fun _ => r)))

def execAadd (f : Fields) (s : State) : Host.Outcome State Fault Refusal := .next (runAlu 0x50 semAadd f s)
def execAsub (f : Fields) (s : State) : Host.Outcome State Fault Refusal := .next (runAlu 0x51 semAsub f s)
def execAmul (f : Fields) (s : State) : Host.Outcome State Fault Refusal := .next (runAlu 0x52 semAmul f s)
def execAshl (f : Fields) (s : State) : Host.Outcome State Fault Refusal := .next (runAlu 0x53 semAshl f s)
def execAmov (f : Fields) (s : State) : Host.Outcome State Fault Refusal := .next (runAlu 0x54 semAmov f s)
def execMand (f : Fields) (s : State) : Host.Outcome State Fault Refusal := .next (runAlu 0x58 semMand f s)
def execMor (f : Fields) (s : State) : Host.Outcome State Fault Refusal := .next (runAlu 0x59 semMor f s)
def execMxor (f : Fields) (s : State) : Host.Outcome State Fault Refusal := .next (runAlu 0x5A semMxor f s)
def execMnot (f : Fields) (s : State) : Host.Outcome State Fault Refusal := .next (runAlu 0x5B semMnot f s)
def execMcount (f : Fields) (s : State) : Host.Outcome State Fault Refusal := .next (runAlu 0x5C semMcount f s)
def execMany (f : Fields) (s : State) : Host.Outcome State Fault Refusal := .next (runAlu 0x5D semMany f s)
def execMall (f : Fields) (s : State) : Host.Outcome State Fault Refusal := .next (runAlu 0x5E semMall f s)
def execMfirst (f : Fields) (s : State) : Host.Outcome State Fault Refusal := .next (runAlu 0x5F semMfirst f s)
def execVfrom (f : Fields) (s : State) : Host.Outcome State Fault Refusal := .next (runAlu 0x61 semVfrom f s)
def execSfrom (f : Fields) (s : State) : Host.Outcome State Fault Refusal := .next (runAlu 0x62 semSfrom f s)
def execSfromChk (f : Fields) (s : State) : Host.Outcome State Fault Refusal :=
  .next (runAlu 0x63 semSfromChk f s)
def execShfl (f : Fields) (s : State) : Host.Outcome State Fault Refusal := .next (runAlu 0x68 (semExchange 0x68) f s)
def execShflup (f : Fields) (s : State) : Host.Outcome State Fault Refusal := .next (runAlu 0x69 (semExchange 0x69) f s)
def execShfldn (f : Fields) (s : State) : Host.Outcome State Fault Refusal := .next (runAlu 0x6A (semExchange 0x6A) f s)
def execShflx (f : Fields) (s : State) : Host.Outcome State Fault Refusal := .next (runAlu 0x6B (semExchange 0x6B) f s)
def execQswap (f : Fields) (s : State) : Host.Outcome State Fault Refusal := .next (runAlu 0x6C (semExchange 0x6C) f s)
def execQbcast (f : Fields) (s : State) : Host.Outcome State Fault Refusal := .next (runAlu 0x6D (semExchange 0x6D) f s)
def execMatchV (f : Fields) (s : State) : Host.Outcome State Fault Refusal := .next (runAlu 0x6E semMatch f s)
def execVscan (f : Fields) (s : State) : Host.Outcome State Fault Refusal := .next (runAlu 0x6F semVscan f s)
def execVred (f : Fields) (s : State) : Host.Outcome State Fault Refusal := .next (runAlu 0x70 semVred f s)

end Sys2Proof.Machine
end

