-- ==== Sys2Proof/Machine/Access.lean ====
section
/-! DEFINITION. Addresses of memory operands, the apertures, and the checks that an access of a thread
meets (09 R165-R171, R177, R178; 16 R293, R298-R301; 02 R40; 18 R364). -/

namespace Sys2Proof.Machine

/-- What an access does, as its checks see it; `watch` is the read of a WAITV, which no watch point meets (18 R364). -/
inductive AccKind where
  | load | store | atomic | stag | ltag | watch
  deriving DecidableEq, Repr

/-- Whether an access writes. -/
def AccKind.writes (k : AccKind) : Bool := k == .store || k == .atomic || k == .stag

/-- Where a generic address lies (09 R166). -/
inductive Aperture where
  | shared (off : Nat)
  | spill (off : Nat)
  | own (off : Nat)
  | far (die off : Nat)
  | global (va : Nat)
  | none
  deriving DecidableEq, Repr

/-- The aperture of a generic address (09 R166) (DEDUCED, log 69). -/
def locate (a : Nat) : Aperture :=
  if a < 0x100000 then .shared a
  else if 0x8000000 ≤ a && a < 0x8010000 then .spill (a - 0x8000000)
  else if 0x10000000 ≤ a && a < 0x24000000 then .own (a - 0x10000000)
  else if 0x40000000 ≤ a && a < 0x90000000 then .far ((a - 0x40000000) / 0x14000000) ((a - 0x40000000) % 0x14000000)
  else if 0x4000000000 ≤ a && a < 2 ^ 55 then .global a
  else .none

/-- ADDR of a pointer, and the pointer layout check (09 R165, R167). -/
def addrOf (g : Word) : Nat := (g.extractLsb' 0 55).toNat
def tagOf (g : Word) : BitVec 4 := g.extractLsb' 60 4
def layoutOk (p g : Word) : Bool := p.extractLsb' 55 5 == 0 && g.extractLsb' 55 5 == 0 && tagOf p == tagOf g

/-- Whether a team's shared memory lies in its swap record (20 R387). -/
def Team.away (tm : Team) : Bool := tm.state == .swapped || tm.state == .woken

/-- The memory key of a byte of a team's shared memory: the team's KiB units on its core (09 R168), or its swap
record (20 R387). -/
def teamKey (tm : Team) (off : Nat) : Nat :=
  if tm.away then recordKey tm.uid off
  else sharedKey tm.ctx tm.core (tm.units.getD (off / 1024) 0 * 1024 + off % 1024)

/-- Key of the swizzle tag of a team's KiB unit (08 R149, 20 R387). -/
def swzKey (tm : Team) (unit : Nat) : Nat :=
  if tm.away then (64 * 160 + tm.uid) * 1024 + unit
  else (tm.ctx * 160 + tm.core) * 1024 + tm.units.getD unit 0

/-- The memory key of a byte of a group's spill stack: its slot's part of the top of its core's scratchpad slice, 64 such parts
a core (09 R169, R170). -/
def stackKey (s : State) (ctx : Nat) (p : Place) (off : Nat) : Nat :=
  let size := (s.ctx ctx).spillSize
  scratchKey (dieOf p.core) (p.core % 40 * 2 ^ 23 + (2 ^ 23 - 64 * size) + (p.part * 8 + p.slot) * size + off)

/-- phys of 08 R149. -/
def phys (swz a : Nat) : Nat := a ^^^ ((((a >>> 8) &&& 3) * swz % 8) <<< 5)

/-- Whether an offset of a die's scratchpad lies in the part of its slice that backs spill stacks (09
R169) (DEDUCED, log 49). -/
def inSpillPart (c : Ctx) (off : Nat) : Bool := 2 ^ 23 - 64 * c.spillSize ≤ off % 2 ^ 23

/-- The owner entry of the scratchpad unit of an offset: a unit that backs spill stacks belongs to the context that its core
serves (16 R293) (DEDUCED, log 49). -/
def scratchOwner (s : State) (die off : Nat) : Owner :=
  match (s.core (die * 40 + off / 2 ^ 23)).serves with
  | some c => if inSpillPart (s.ctx c) off then { who := ownerCtx c } else mget {} s.owners (scratchUnit die off)
  | none => mget {} s.owners (scratchUnit die off)

/-- Whether some granule of `n` bytes at a key has another tag, for one who sees some queued stores (16 R300, 09 R172) (DEDUCED, log 50). -/
def tagDiffers (s : State) (q : List StoreEnt) (key n : Nat) (tag : BitVec 4) : Bool :=
  (List.range ((key + n - 1) / 32 - key / 32 + 1)).any (fun i => tagSeen s q (key / 32 + i) != tag)

/-- Bytes at or above P + size of the argument granule of a launch of the context that has not finished, on a die of it (02
R40); a group of any of its launches meets it (DEDUCED, log 48). -/
def argTail (s : State) (ctx die a n : Nat) : Bool :=
  s.launches.any (fun x =>
    let lo := x.2.argAddr + x.2.kernel.args
    x.2.ctx == ctx && !x.2.finished && x.2.dies.testBit die && a < (lo + 63) / 64 * 64 && lo < a + n)

/-- The owner, bound, read-only and tag checks of `n` bytes of a die's scratchpad for a context (16
R293, 09 R169): the cause. `q` is what the accessing thread has queued; `arg` says that they fall in the argument granule's tail. -/
def scratchCheck (s : State) (q : List StoreEnt) (ctx die off n : Nat) (arg : Bool) (write : Bool) (tag : Option (BitVec 4)) : Option Nat :=
  let e := scratchOwner s die off
  if e.who != ownerCtx ctx then some 0x3C
  else if inSpillPart (s.ctx ctx) off || arg then some 0x34
  else if write && e.ro then some 0x35
  else if e.tc && (match tag with | some g => tagDiffers s q (scratchKey die off) n g | none => false) then some 0x36
  else none

/-- The checks of an access to the global window after translation (16 R298 steps 6 and 7). -/
def pageCheck (s : State) (q : List StoreEnt) (e : Word) (pa n : Nat) (write : Bool) (tag : Option (BitVec 4)) : Option Nat :=
  if write && e.getLsbD 1 then some 0x35
  else if e.getLsbD 3 && (match tag with | some g => tagDiffers s q (mainKey pa) n g | none => false) then some 0x36
  else none

/-- A handle entry's words (16 R301). -/
def handleWord (s : State) (ctx entry w : Nat) : Word := mget 0 (s.ctx ctx).handles (4 * entry + w)

/-- The table entry that handle number `h` of a team names; `none` when it is not declared or empty (09
R177, 16 R302). -/
def boundEntry (s : State) (tm : Team) (h : Nat) : Option Nat :=
  match tm.binds[h]? with
  | some e => if (handleWord s tm.ctx e 3).getLsbD 0 then some e else none
  | none => none

/-- Base of a handle's visible bank, or of its shadow bank, with its tag (09 R177, R187). -/
def handleBase (s : State) (ctx entry : Nat) (shadow : Bool) : Word :=
  let w3 := handleWord s ctx entry 3
  let bank1 := w3.getLsbD 3 && (w3.getLsbD 4 != shadow)
  let b : Word := (handleWord s ctx entry (if bank1 then 1 else 0)).extractLsb' 0 55 |>.setWidth 64
  b ||| ((handleWord s ctx entry 0).extractLsb' 60 4 |>.setWidth 64) <<< 60

/-- A handle's base plus an offset, with the handle's tag (09 R177). -/
def handlePtr (base o : Word) : Word :=
  ((base + o).extractLsb' 0 55).setWidth 64 ||| ((base.extractLsb' 60 4).setWidth 64) <<< 60

/-- LENGTH of a handle entry. -/
def handleLength (s : State) (ctx entry : Nat) : Nat := ((handleWord s ctx entry 2).extractLsb' 0 40).toNat

/-- The base of an address: a pointer in a register, or a handle number. -/
inductive Base where
  | ptr (p : Word)
  | hdl (h : Nat)
  deriving DecidableEq, Repr

/-- The aperture, alignment, ownership and permission checks of `n` bytes at pointer value `g` for a
thread (09 R166-R170, R178, R180; 16 R293, R298): the cause, or the memory key. `hdl` is what a tag access's handle lacks:
its bounds or a permission, which come after the alignment (DEDUCED, log 38). -/
def reach (s : State) (t : Thread) (k : AccKind) (g : Word) (align n : Nat) (hdl : Option Nat) : Except Nat Nat :=
  let a := addrOf g
  let ctx := t.name.ctx
  let c := s.ctx ctx
  let tm := s.team t.name.uid
  let tags := k == .stag || k == .ltag
  let mis := a % align != 0
  let right : Option Nat := if k == .stag && !c.tagw then some 0x40 else none
  let early := hdl.map (fun x => if x == 0x37 then right.getD x else x)
  let fin (chk : Option Nat) (key : Nat) : Except Nat Nat :=
    match chk with | some x => .error x | none => .ok key
  match locate a with
  | .none => .error 0x32
  | .far _ _ => .error 0x30
  | .shared off =>
    if tags then .error 0x30 else if mis then .error 0x33
    else if tm.kernel.shared < off + n then .error 0x34 else .ok (teamKey tm off)
  | .spill off =>
    if tags then .error 0x30 else if mis then .error 0x33
    else if t.name.hail || off < 32768 || c.spillSize < off + n then .error 0x34 else .ok (stackKey s ctx t.place off)
  | .own off =>
    let die := dieOf t.place.core
    let arg := argTail s ctx die a n && !k.writes && !tags
    if mis then .error 0x33
    else if tags then
      fin early 0 |>.bind (fun _ => match scratchCheck s t.queue ctx die off n false false none with
      | some x => .error x
      | none => fin (right.or (scratchCheck s t.queue ctx die off n false (k == .stag) none)) (scratchKey die off))
    else fin (scratchCheck s t.queue ctx die off n arg k.writes (some (tagOf g))) (scratchKey die off)
  | .global va =>
    if !tags then .error 0x30 else if mis then .error 0x33
    else fin early 0 |>.bind (fun _ => match translate s ctx va with
    | .error x => .error x
    | .ok (pa, e) => fin (right.or (pageCheck s t.queue e pa n (k == .stag) none)) (mainKey pa))

/-- One access of `n` bytes at base + `o` (09 R167, R177): its pointer value, and the cause or the
memory key. The handle's checks come first, as R177 lists them, those of the address after them; a tag access makes the
address's aperture and alignment check before the handle's bounds and permission (R178, R180) (DEDUCED, log 38). -/
def access (s : State) (t : Thread) (k : AccKind) (b : Base) (o : Word) (align n : Nat) : Word × Except Nat Nat :=
  let ctx := t.name.ctx
  match b with
  | .ptr p =>
    let g := p + o
    (g, if !layoutOk p g then .error 0x31 else reach s t k g align n none)
  | .hdl h =>
    match boundEntry s (s.team t.name.uid) h with
    | none => (0, .error 0x37)
    | some e =>
      let g := handlePtr (handleBase s ctx e false) o
      let w3 := handleWord s ctx e 3
      let lacks := match k with
        | .load | .ltag | .watch => !w3.getLsbD 1
        | _ => !w3.getLsbD 2
      let chk : Option Nat := if o.toInt < 0 || (handleLength s ctx e : Int) < o.toInt + n then some 0x34
        else if lacks then some 0x37 else none
      (g, match k, chk with
        | .stag, x | .ltag, x => reach s t k g align n x
        | _, some x => .error x
        | _, none => reach s t k g align n none)

/-- The base of a memory operand in a lane (09 R167). -/
def baseOf (t : Thread) (f : Fields) (l : Nat) : Base :=
  if f.ak == 3 then .hdl f.a.toNat else .ptr (t.wide f.ak.toNat f.a.toNat l)

/-- Index plus offset of a memory operand in a lane, `unit` being what a long offset counts in. -/
def indexOf (t : Thread) (f : Fields) (unit l : Nat) : Word :=
  (if f.bk == 3 then 0 else t.wide f.bk.toNat f.b.toNat l) + memOffset f unit

/-- The watch points of the context that an access meets: the lowest overlapping address and the slot number of each. A range
whose LIMIT lies below its BASE holds no byte (18 R364) (DEDUCED, log 52). -/
def watchHits (s : State) (t : Thread) (k : AccKind) (g : Word) (n : Nat) : List (Nat × Nat) :=
  if t.name.hail || t.supervisor || t.routine.isSome then []
  else
    let o := (s.ctx t.name.ctx).obs
    let a := addrOf g
    let rd := k == .load || k == .ltag || k == .atomic
    (List.range 4).filterMap (fun i =>
      let c := mget 0 o.wctl i
      let base := addrOf c
      let limit := addrOf (mget 0 o.wlimit i)
      if c.getLsbD 63 && ((rd && c.getLsbD 61) || (k.writes && c.getLsbD 62)) && base ≤ limit && a ≤ limit && base < a + n then
        some (max a base, i) else none)

/-- The trap of the watch points that some accesses meet: the lowest overlapping address, and the lowest slot number (18 R360,
R364). -/
def watchTrap (hits : List (Nat × Nat)) (lanes : Option Word) : Option TrapInfo :=
  match hits with
  | [] => none
  | h :: r => some { cause := 0x79, addr := BitVec.ofNat 64 (r.foldl (fun m x => min m x.1) h.1)
                     code := BitVec.ofNat 16 (r.foldl (fun m x => min m x.2) h.2), lanes := lanes }

/-- An access of a lane, or of the whole instruction when it acts on no lanes. -/
structure Probe where
  lane : Option Nat
  g : Word
  res : Except Nat Nat
  /-- its address was formed from poison, in a helper lane (17 R346) -/
  bad : Bool := false

/-- The verdict over the accesses of one instruction (09 R178, 17 R324, 18 R364): the trap of the
lowest-numbered failing lane that is no helper lane, else that of a watch point, else the key of each
access; a helper lane that would fault has none. -/
def judge (s : State) (t : Thread) (k : AccKind) (n : Nat) (ps : List Probe) : Except TrapInfo (List LaneAcc) :=
  let met (p : Probe) := watchHits s t k p.g n
  let helper (p : Probe) : Bool := match p.lane with | some l => t.help.getLsbD l | none => false
  let real := ps.filter (fun p => !helper p)
  let lanesWith (q : Probe → Bool) : Option Word :=
    if ps.any (fun p => p.lane.isNone) then none
    else some (maskOf (fun l => real.any (fun p => p.lane == some l && q p)))
  let bad := real.find? (fun p => match p.res with | .error _ => true | .ok _ => false)
  match bad with
  | some p =>
    let c := match p.res with | .error c => c | .ok _ => 0
    .error { cause := c, addr := p.g
             lanes := lanesWith (fun q => match q.res with | .error d => d == c | .ok _ => false) }
  | none =>
    match watchTrap (real.flatMap met) (lanesWith (fun q => !(met q).isEmpty)) with
    | some tr => .error tr
    | none => .ok (ps.map (fun p =>
        { lane := p.lane.getD 0, key := match p.res with | .ok x => some x | .error _ => none, bad := p.bad }))

/-- The accesses of an instruction whose memory operand is that of 09 R167: `unit` of the long offset,
alignment and size. -/
def probes (s : State) (t : Thread) (f : Fields) (lanes : Bool) (k : AccKind) (unit align n : Nat) : List Probe :=
  let one (l : Option Nat) : Probe :=
    let x := access s t k (baseOf t f (l.getD 0)) (indexOf t f unit (l.getD 0)) align n
    { lane := l, g := x.1, res := x.2
      bad := l.any (fun l => f.bk == 2 && t.help.getLsbD l && t.poison.v.contains (t.vKey f.b.toNat l)) }
  if lanes then (lanesOf (t.sel f)).map (fun l => one (some l)) else [one none]

/-- Loads, atomics and tile loads a thread has in flight (09 R179). -/
def loadsOut (t : Thread) : Nat := (t.pending.filter Pend.loads).length

/-- Pending instructions to complete so that `excess` loads are performed (09 R179). -/
def roomCount (ps : List Pend) (excess : Nat) : Nat :=
  match ps, excess with
  | [], _ => 0
  | _, 0 => 0
  | p :: r, e + 1 =>
    if p.work = .done then roomCount r (e + 1) else 1 + roomCount r (if p.loads then e else e + 1)

/-- A load waits at issue while 63 are in flight (09 R179). -/
def State.roomForLoad (s : State) : State := s.completeN (roomCount s.thr.pending (loadsOut s.thr - 62))

/-- Enter a load, atomic or tile load into the pending list and go on (03 R57, 09 R179). -/
def Thread.launch (t : Thread) (op : Nat) (f : Fields) (u : Uses) (w : PendWork) : Thread :=
  { t.advance f.parcels with
      memOrd := t.memOrd + 1
      pending := t.pending ++ [{ work := w, left := f.ahead.toNat, reads := heldReads op f u, writes := u.writes,
                                 ord := t.memOrd, pc := t.pc }] }

/-- Enter stores into the thread's store queue and go on (09 R172, R176). -/
def Thread.enqueue (t : Thread) (f : Fields) (es : List (List Host.Cell × List (Nat × BitVec 4))) : Thread :=
  { t.advance f.parcels with
      memOrd := t.memOrd + es.length
      queue := t.queue ++ (List.range es.length).zipWith
        (fun i e => { ord := t.memOrd + i, bytes := e.1, tags := e.2 }) es }

end Sys2Proof.Machine
end

