-- ==== Sys2Proof/Machine/Mem.lean ====
section
/-! DEFINITION. Loads, stores, tags and atomics of a thread (09 R175-R180, 10 R203-R205). -/

namespace Sys2Proof.Machine

/-- The issuing thread waits at its instruction; a wait that a context switch broke off keeps its count (17
R350). -/
def State.waitOn (s : State) (w : Wait) : State :=
  s.modThr (fun t => { t with status := .waiting w
                              sched := { t.sched with waitSince := s.clock - t.sched.waited, waited := 0 } })

/-- The slot number in its file of the destination D (04 R68). -/
def destSlot (t : Thread) (f : Fields) : Nat :=
  (match f.fc.toNat with | 0 => t.wins.s.wb | 1 => t.wins.a.wb | _ => t.wins.v.wb) + f.d.toNat

/-- LD and LDH (09 R175, R177). -/
def doLoad (op : Nat) (f : Fields) (s : State) : Except TrapInfo State :=
  let t := s.thr
  let e := etBytes f.et.toNat
  (judge s t .load e (probes s t f (f.fc == 2) .load e e e)).map (fun accs =>
    { s with thr := t.launch op f (usesOf op f false) (.load (destSlot t f) f.fc.toNat f.et.toNat accs) })

/-- LTAG (09 R180). -/
def doLtag (f : Fields) (s : State) : Except TrapInfo State :=
  let t := s.thr
  (judge s t .ltag 32 (probes s t f (f.fc == 2) .ltag 32 32 32)).map (fun accs =>
    { s with thr := t.launch 0xA5 f (usesOf 0xA5 f false) (.ltag (destSlot t f) f.fc.toNat accs) })

/-- The cells a store writes: the data of each lane that is no helper lane, in ascending lane (09 R176). -/
def storeCells (t : Thread) (f : Fields) (e : Nat) (accs : List LaneAcc) : List Host.Cell :=
  (accs.filter (fun a => f.fc == 0 || !t.help.getLsbD a.lane)).flatMap (fun a =>
    match a.key with
    | some k => cellsAt k (toBytes e (t.wide f.ck.toNat f.d.toNat a.lane).toNat)
    | none => [])

/-- ST and STH (09 R176, R177). -/
def doStore (f : Fields) (s : State) : Except TrapInfo State :=
  let t := s.thr
  let e := etBytes f.et.toNat
  (judge s t .store e (probes s t f (f.fc != 0) .store e e e)).map (fun accs =>
    let cs := storeCells t f e accs
    { s with thr := t.enqueue f (if cs.isEmpty then [] else [(cs, [])]) })

/-- STAG (09 R180): the TAG of the address formed goes to the granule. -/
def doStag (f : Fields) (s : State) : Except TrapInfo State :=
  let t := s.thr
  let ps := probes s t f (f.fc != 0) .stag 32 32 32
  (judge s t .stag 32 ps).map (fun _ =>
    let tags := ps.filterMap (fun p =>
      match p.res with
      | .ok k => if p.lane.elim false (fun l => t.help.getLsbD l) then none else some (k / 32, tagOf p.g)
      | .error _ => none)
    { s with thr := t.enqueue f (if tags.isEmpty then [] else [([], tags)]) })

/-- WAITLD (09 R179). -/
def doWaitld (f : Fields) (s : State) : Except TrapInfo State :=
  if loadsOut s.thr ≤ f.uimm then .ok (s.modThr (fun t => t.advance f.parcels)) else .ok (s.waitOn (.ld f.uimm))

/-- Index plus OFFSET of an atomic in a lane (10 R203). -/
def atomOffset (t : Thread) (f : Fields) (l : Nat) : Word :=
  (if f.bk == 3 then 0 else t.wide f.bk.toNat f.b.toNat l) + (f.lit.extractLsb' 0 24).signExtend 64

/-- ATOM and ATOMH (10 R205): checks and operands at issue, the accesses when it is performed. -/
def doAtom (op : Nat) (f : Fields) (s : State) : Except TrapInfo State :=
  let t := s.thr
  let e := etBytes f.et.toNat
  let one (l : Option Nat) : Probe :=
    let x := access s t .atomic (baseOf t f (l.getD 0)) (atomOffset t f (l.getD 0)) e e
    { lane := l, g := x.1, res := x.2 }
  let ps := if f.fc == 2 then (lanesOf (t.sel f)).map (fun l => one (some l)) else [one none]
  (judge s t .atomic e ps).map (fun accs =>
    let accs := accs.filter (fun a => f.fc != 2 || !t.help.getLsbD a.lane)
    let data := accs.map (fun a => t.wide f.ck.toNat f.c.toNat a.lane)
    let cmp := accs.map (fun a => t.wide f.fc.toNat f.d.toNat a.lane)
    let w : PendWork := .atom f.atomOp (destSlot t f) f.fc.toNat f.et.toNat accs data cmp
    { s with thr := t.launch op f (usesOf op f false) w })

def execLd (f : Fields) (s : State) : Host.Outcome State Fault Refusal :=
  .next (runLong 0xA0 f s.roomForLoad (doLoad 0xA0 f))
def execSt (f : Fields) (s : State) : Host.Outcome State Fault Refusal := .next (runLong 0xA1 f s (doStore f))
def execLdh (f : Fields) (s : State) : Host.Outcome State Fault Refusal :=
  .next (runLong 0xA2 f s.roomForLoad (doLoad 0xA2 f))
def execSth (f : Fields) (s : State) : Host.Outcome State Fault Refusal := .next (runLong 0xA3 f s (doStore f))
def execStag (f : Fields) (s : State) : Host.Outcome State Fault Refusal := .next (runLong 0xA4 f s (doStag f))
def execLtag (f : Fields) (s : State) : Host.Outcome State Fault Refusal :=
  .next (runLong 0xA5 f s.roomForLoad (doLtag f))
def execWaitld (f : Fields) (s : State) : Host.Outcome State Fault Refusal := .next (runLong 0xA6 f s (doWaitld f))
def execAtom (f : Fields) (s : State) : Host.Outcome State Fault Refusal :=
  .next (runLong 0xC0 f s.roomForLoad (doAtom 0xC0 f))
def execAtomh (f : Fields) (s : State) : Host.Outcome State Fault Refusal :=
  .next (runLong 0xC1 f s.roomForLoad (doAtom 0xC1 f))

end Sys2Proof.Machine
end

