-- ==== Sys2Proof/Machine/Short.lean ====
section
/-! DEFINITION. The short instructions and pairs (03 R50, R51, R59, R60): each performs the long form that
`shortLongOp` names. -/

namespace Sys2Proof.Machine

/-- The meaning of a short opcode, for the follower of a pair. -/
def semShort (sop : Nat) : Fields → Thread → Except TrapInfo Eff :=
  match sop with
  | 0x01 => semIadd
  | 0x02 => semIsub
  | 0x03 => semImul
  | 0x04 => semImin
  | 0x05 => semImax
  | 0x06 => semAnd
  | 0x07 => semOr
  | 0x08 => semXor
  | 0x09 => semShl
  | 0x0A => semShr
  | 0x0B => semSar
  | 0x0C => semRol
  | 0x0D => semIadd
  | 0x0E => semIsub
  | 0x0F => semFadd
  | 0x10 => semFsub
  | 0x11 => semFmul
  | 0x12 => semFmin
  | 0x13 => semFmax
  | 0x14 => semAadd
  | 0x15 => semAsub
  | 0x16 => semAmul
  | 0x17 => semAshl
  | 0x18 => semAmov
  | 0x19 => semIneg
  | 0x1A => semNot
  | 0x1B => semPopc
  | 0x1C => semClz
  | _ => fun _ _ => .ok {}

def execNopShort (f : ShortFields) (s : State) : Host.Outcome State Fault Refusal :=
  .next (runShort 0x00 (fun _ _ => .ok {}) semShort f s)
def execIaddShort (f : ShortFields) (s : State) : Host.Outcome State Fault Refusal :=
  .next (runShort 0x01 semIadd semShort f s)
def execIsubShort (f : ShortFields) (s : State) : Host.Outcome State Fault Refusal :=
  .next (runShort 0x02 semIsub semShort f s)
def execImulShort (f : ShortFields) (s : State) : Host.Outcome State Fault Refusal :=
  .next (runShort 0x03 semImul semShort f s)
def execIminShort (f : ShortFields) (s : State) : Host.Outcome State Fault Refusal :=
  .next (runShort 0x04 semImin semShort f s)
def execImaxShort (f : ShortFields) (s : State) : Host.Outcome State Fault Refusal :=
  .next (runShort 0x05 semImax semShort f s)
def execAndShort (f : ShortFields) (s : State) : Host.Outcome State Fault Refusal :=
  .next (runShort 0x06 semAnd semShort f s)
def execOrShort (f : ShortFields) (s : State) : Host.Outcome State Fault Refusal :=
  .next (runShort 0x07 semOr semShort f s)
def execXorShort (f : ShortFields) (s : State) : Host.Outcome State Fault Refusal :=
  .next (runShort 0x08 semXor semShort f s)
def execShlShort (f : ShortFields) (s : State) : Host.Outcome State Fault Refusal :=
  .next (runShort 0x09 semShl semShort f s)
def execShrShort (f : ShortFields) (s : State) : Host.Outcome State Fault Refusal :=
  .next (runShort 0x0A semShr semShort f s)
def execSarShort (f : ShortFields) (s : State) : Host.Outcome State Fault Refusal :=
  .next (runShort 0x0B semSar semShort f s)
def execRolShort (f : ShortFields) (s : State) : Host.Outcome State Fault Refusal :=
  .next (runShort 0x0C semRol semShort f s)
def execIaddsShort (f : ShortFields) (s : State) : Host.Outcome State Fault Refusal :=
  .next (runShort 0x0D semIadd semShort f s)
def execIsubsShort (f : ShortFields) (s : State) : Host.Outcome State Fault Refusal :=
  .next (runShort 0x0E semIsub semShort f s)
def execFaddShort (f : ShortFields) (s : State) : Host.Outcome State Fault Refusal :=
  .next (runShort 0x0F semFadd semShort f s)
def execFsubShort (f : ShortFields) (s : State) : Host.Outcome State Fault Refusal :=
  .next (runShort 0x10 semFsub semShort f s)
def execFmulShort (f : ShortFields) (s : State) : Host.Outcome State Fault Refusal :=
  .next (runShort 0x11 semFmul semShort f s)
def execFminShort (f : ShortFields) (s : State) : Host.Outcome State Fault Refusal :=
  .next (runShort 0x12 semFmin semShort f s)
def execFmaxShort (f : ShortFields) (s : State) : Host.Outcome State Fault Refusal :=
  .next (runShort 0x13 semFmax semShort f s)
def execAaddShort (f : ShortFields) (s : State) : Host.Outcome State Fault Refusal :=
  .next (runShort 0x14 semAadd semShort f s)
def execAsubShort (f : ShortFields) (s : State) : Host.Outcome State Fault Refusal :=
  .next (runShort 0x15 semAsub semShort f s)
def execAmulShort (f : ShortFields) (s : State) : Host.Outcome State Fault Refusal :=
  .next (runShort 0x16 semAmul semShort f s)
def execAshlShort (f : ShortFields) (s : State) : Host.Outcome State Fault Refusal :=
  .next (runShort 0x17 semAshl semShort f s)
def execAmovShort (f : ShortFields) (s : State) : Host.Outcome State Fault Refusal :=
  .next (runShort 0x18 semAmov semShort f s)
def execInegShort (f : ShortFields) (s : State) : Host.Outcome State Fault Refusal :=
  .next (runShort 0x19 semIneg semShort f s)
def execNotShort (f : ShortFields) (s : State) : Host.Outcome State Fault Refusal :=
  .next (runShort 0x1A semNot semShort f s)
def execPopcShort (f : ShortFields) (s : State) : Host.Outcome State Fault Refusal :=
  .next (runShort 0x1B semPopc semShort f s)
def execClzShort (f : ShortFields) (s : State) : Host.Outcome State Fault Refusal :=
  .next (runShort 0x1C semClz semShort f s)

end Sys2Proof.Machine
end

