-- ==== Sys2Proof/Machine/Tile.lean ====
section
/-! DEFINITION. Tiles, accumulators, the matrix multiplies, the Q4X packers and the index instructions (08
R142-R160). -/

namespace Sys2Proof.Machine

/-! ### Shapes and rows (08 R143, R144) -/

/-- A shape register's fields. -/
def shEt (w : Word) : Nat := (w.extractLsb' 0 4).toNat
def shRows (w : Word) : Nat := (w.extractLsb' 4 7).toNat
def shCols (w : Word) : Nat := (w.extractLsb' 11 7).toNat
def shSwz (w : Word) : Nat := (w.extractLsb' 19 3).toNat
def shPitch (w : Word) : Nat := 16 * (w.extractLsb' 22 10).toNat

/-- Bits per element of a tile type. -/
def tileBits (et : Nat) : Nat := if et == 14 then 4 else etBits et

/-- RB: a row's bytes in memory (08 R144). -/
def shRB (w : Word) : Nat := if shCols w * tileBits (shEt w) ≤ 128 then 16 else 32

/-- A valid shape (08 R143). -/
def shapeOk (w : Word) : Bool :=
  [8, 9, 10, 11, 12, 14].contains (shEt w) && 1 ≤ shRows w && shRows w ≤ 64 && 1 ≤ shCols w && shCols w ≤ 64 &&
  shCols w * tileBits (shEt w) ≤ 256 && (shEt w != 14 || shCols w == 32 || shCols w == 64) &&
  shRB w ≤ shPitch w && !w.getLsbD 18 && w.extractLsb' 32 32 == 0

/-- The shape of tile `n`, and keys of its rows. -/
def Thread.shape (t : Thread) (n : Nat) : Word := mget 0 t.tiles.shape n
def tileKey (n row byte : Nat) : Nat := (64 * n + row) * 32 + byte
def accKey (n row col : Nat) : Nat := (64 * n + row) * 16 + col
def Thread.tileByte (t : Thread) (n row byte : Nat) : Byte := mget 0 t.tiles.t (tileKey n row byte)
def Thread.accElem (t : Thread) (n row col : Nat) : LaneWord := mget 0 t.tiles.z (accKey n row col)

/-- Whether some rows of a tile register or accumulator are poisoned (17 R346). -/
def rowsPoisoned (t : Thread) (acc : Bool) (n : Nat) (rows : List Nat) : Bool :=
  rows.any (fun i => (if acc then t.poison.z else t.poison.t).contains (64 * n + i))

/-! ### TSHAPE and TZERO (08 R147, R148) -/

def semTshape (f : Fields) (t : Thread) : Except TrapInfo Eff :=
  let w : Word := if f.bk == 3 then BitVec.ofNat 64 f.uimm else t.sReg f.b.toNat
  if shapeOk w then .ok { ws := [.shape f.d.toNat w] } else .error { cause := 0x25 }

def semTzero (f : Fields) (t : Thread) : Except TrapInfo Eff :=
  let n := f.d.toNat
  .ok { ws := (lanesOf (t.sel f)).flatMap (fun i =>
    if f.b == 1 then .row true (64 * n + i) false :: (List.range 16).map (fun j => .acc (accKey n i j) 0)
    else .row false (64 * n + i) false :: (List.range 32).map (fun j => .tile (tileKey n i j) 0)) }

/-! ### Tile transfers (08 R149-R152) -/

/-- One row, or half an accumulator row, of a transfer: bytes in one sector. `fault` is the address a failure names, that of
the row for a handle's bounds. -/
structure Piece where
  row : Nat
  off : Nat
  g : Word
  fault : Word
  n : Nat
  res : Except Nat Nat
  /-- Its address passes the pointer layout and handle checks. -/
  formed : Bool
  /-- Its address lies where a transfer may reach, and is no multiple of the row's alignment (08 R150). -/
  mis : Bool

/-- How a tile transfer's issue ends. -/
inductive TileEnd where
  | trap (tr : TrapInfo)
  | part (tr : TrapInfo) (pre : State → State)
  | ok (s : State)

/-- The sector of a piece, by logical address. -/
def Piece.sector (p : Piece) : Nat := addrOf p.g / 32
def Piece.failed (p : Piece) : Bool := match p.res with | .error _ => true | .ok _ => false
def Piece.cause (p : Piece) : Nat := match p.res with | .error c => c | .ok _ => 0
def Piece.key (p : Piece) : Nat := match p.res with | .ok k => k | .error _ => 0
/-- The team-relative offset of a piece in shared memory. -/
def Piece.sharedOff (p : Piece) : Option Nat := match locate (addrOf p.g) with | .shared o => some o | _ => none

/-- Whether `n` bytes at offset `o` of a handle base leave the handle (09 R177). -/
def outOfHandle (s : State) (t : Thread) (b : Base) (o : Word) (n : Nat) : Bool :=
  match b with
  | .ptr _ => false
  | .hdl h => match boundEntry s (s.team t.name.uid) h with
    | none => false
    | some e => o.toInt < 0 || (handleLength s t.name.ctx e : Int) < o.toInt + n

/-- The pieces of a transfer, rows ascending (08 R150, R151): `pitch` apart, `n` bytes each, at the
offsets `offs` of a row. A handle base is checked row by row. -/
def pieces (s : State) (t : Thread) (f : Fields) (k : AccKind) (rows : List Nat) (pitch n swz : Nat)
    (offs : List Nat) : List Piece :=
  let tm := s.team t.name.uid
  rows.flatMap (fun i => offs.map (fun off =>
    let row := indexOf t f 16 0 + BitVec.ofNat 64 (i * pitch)
    let x := access s t k (baseOf t f 0) (row + BitVec.ofNat 64 off) n n
    let short := outOfHandle s t (baseOf t f 0) row (n * offs.length)
    let res := match x.2, locate (addrOf x.1) with
      | .ok _, .shared o => .ok (teamKey tm (phys swz o))
      | r, _ => r
    { row := i, off := off, g := x.1, n := n, res := if short then .error 0x34 else res
      fault := if short then (access s t k (baseOf t f 0) row n n).1 else x.1
      formed := (match x.2 with | .error c => c != 0x31 && c != 0x37 | .ok _ => true) && !short
      mis := addrOf x.1 % n != 0 && (match x.2 with | .error c => c != 0x30 && c != 0x31 && c != 0x32 | .ok _ => false) }))

/-- Bytes of KiB unit `u` that some pieces cover. -/
def covered (ps : List Piece) (u : Nat) : Nat :=
  ps.foldl (fun m p => if p.sharedOff.map (· / 1024) == some u then m + p.n else m) 0

/-- KiB units of shared memory that some pieces touch. -/
def unitsOf (ps : List Piece) : List Nat := (ps.filterMap (fun p => p.sharedOff.map (· / 1024))).eraseDups

/-- Whether a piece of a load fails its swizzle check: a swizzle outside shared memory, or another tag (08 R150). -/
def Piece.unswizzled (s : State) (tm : Team) (swz : Nat) (p : Piece) : Bool :=
  match p.sharedOff with
  | none => swz != 0 && p.formed
  | some o => (mget 0 s.swz (swzKey tm (o / 1024))).toNat != swz

/-- The checks of a transfer in order, over pieces of lanes that are no helper lanes (08 R150, R152): a misaligned row, or a
swizzle that does not fit, with the tags as they stand at issue, ends it before any sector; then the first sector that faults; a
watch point. A unit of which a sector faults is not written completely (DEDUCED, log 43). -/
def tileVerdict (s : State) (t : Thread) (k : AccKind) (swz : Nat) (ps : List Piece) :
    Option (TrapInfo × Option Nat) :=
  let tm := s.team t.name.uid
  let real := ps.filter (fun p => !t.help.getLsbD p.row)
  let good := real.filter (fun p => !p.failed)
  let trapAt (p : Piece) (c : Nat) : TrapInfo :=
    { cause := c, addr := p.fault
      lanes := some (maskOf (fun l => real.any (fun q => q.row == l && q.sector == p.sector && q.cause == c))) }
  let unitBad (u : Nat) : Bool :=
    (mget 0 s.swz (swzKey tm u)).toNat != swz && (!k.writes || covered good u < 1024)
  match real.find? Piece.mis with
  | some p => some ({ cause := 0x33, addr := p.g, lanes := some (maskOf (fun l => real.any (fun q => q.row == l && q.mis))) }, none)
  | none =>
  if (swz != 0 && real.any (fun p => p.formed && p.sharedOff.isNone)) || (unitsOf good).any unitBad then some ({ cause := 0x28 }, none)
  else match real.find? Piece.failed with
  | some p => some (trapAt p p.cause, some p.sector)
  | none =>
    (watchTrap (real.flatMap (fun p => watchHits s t k p.g p.n)) (some (maskOf (fun l => real.any (fun p =>
      p.row == l && !(watchHits s t k p.g p.n).isEmpty))))).map (fun tr => (tr, none))

/-- Group pieces by sector, ascending (DEDUCED, log 43). -/
def bySector (ps : List Piece) : List (List Piece) :=
  (ps.map Piece.sector).eraseDups.map (fun q => ps.filter (fun p => p.sector == q))

/-- The first byte's key and the fills of one sector of a tile load. -/
def sectorAcc (acc : Bool) (n : Nat) (ps : List Piece) : SectorAcc :=
  let first := ps.foldl (fun m p => min m p.key) ((ps.map Piece.key).headD 0)
  let base := first - first % 32
  let dst (p : Piece) (j : Nat) : Nat := if acc then 4 * accKey n p.row 0 + p.off + j else tileKey n p.row (p.off + j)
  { key := base
    fills := ps.flatMap (fun p => (List.range p.n).map (fun j => (p.key - base + j, dst p j))) }

/-- Poison of the rows that some performed sectors of an unfinished transfer change: a row keeps the poison of the bytes that
are not overwritten (08 R152, 17 R345). -/
def partRows (s : State) (acc : Bool) (secs : List SectorAcc) : List RegWrite :=
  let t := s.thr
  let bad := poisonedRows s t.memOrd acc secs
  let size := if acc then 64 else 32
  let old := if acc then t.poison.z else t.poison.t
  let got (r : Nat) : Nat := ((secs.flatMap SectorAcc.fills).filter (fun x => x.2 / size == r)).length
  (secs.flatMap (SectorAcc.rows acc)).eraseDups.map (fun r =>
    .row acc r (bad.contains r || (old.contains r && got r < size)))

/-- A tile load: sectors below a failing one are performed at once (08 R152), else the transfer is
pending. Rows of helper lanes whose address or swizzle fails receive zero (DEDUCED, log 43). -/
def tileLoad (op : Nat) (acc : Bool) (f : Fields) (rows : List Nat) (pitch n swz : Nat) (offs : List Nat)
    (s : State) : TileEnd :=
  let t := s.thr
  let ps := pieces s t f .load rows pitch n swz offs
  let d := f.d.toNat
  match tileVerdict s t .load swz ps with
  | some (tr, none) => .trap tr
  | some (tr, some q) =>
    let secs := (bySector ((ps.takeWhile (fun p => p.sector != q)).filter (fun p => !p.failed))).map (sectorAcc acc d)
    .part tr (fun s => s.modThr (fun t => t.writes (sectorWrites s t.memOrd acc secs ++ partRows s acc secs)))
  | none =>
    let fails (p : Piece) : Bool := p.failed || p.unswizzled s (s.team t.name.uid) swz
    let secs := (bySector (ps.filter (fun p => !fails p))).map (sectorAcc acc d)
    let lost := (ps.filter fails).flatMap (fun p =>
      if acc then (List.range (p.n / 4)).map (fun j => accKey d p.row (p.off / 4 + j))
      else (List.range p.n).map (fun j => tileKey d p.row j))
    let tail := if acc then [] else rows.flatMap (fun i => (List.range (32 - n)).map (fun j => tileKey d i (n + j)))
    .ok { s with thr := t.launch op f (usesOf op f false) (.tload acc d secs (lost ++ tail) (rows.map (64 * d + ·)) []) }

/-- A tile store: its swizzle tags are set in the issue slot, and one store a sector enters the queue,
those below a failing sector when one fails (08 R150, R152). `byteOf` reads byte j of a row. -/
def tileStore (f : Fields) (rows : List Nat) (pitch n swz : Nat) (offs : List Nat) (byteOf : Nat → Nat → Byte)
    (s : State) : TileEnd :=
  let t := s.thr
  let ps := pieces s t f .store rows pitch n swz offs
  let tm := s.team t.name.uid
  let cells (ps : List Piece) : List Host.Cell :=
    ps.flatMap (fun p => cellsAt p.key ((List.range p.n).map (fun j => byteOf p.row (p.off + j))))
  let entries (ps : List Piece) := (bySector ps).map (fun q => (cells q, ([] : List (Nat × BitVec 4))))
  let full := (unitsOf ps).filter (fun u => covered (ps.filter (fun p => !p.failed)) u == 1024)
  let setTags (s : State) : State :=
    { s with swz := full.foldl (fun m u => mset 0 m (swzKey tm u) (BitVec.ofNat 3 swz)) s.swz }
  match tileVerdict s t .store swz ps with
  | some (tr, none) => .trap tr
  | some (tr, some q) =>
    .part tr (fun s => setTags (s.modThr (fun t =>
      { t.enqueue f (entries (ps.takeWhile (fun p => p.sector != q))) with pc := t.pc })))
  | none => .ok (setTags { s with thr := t.enqueue f (entries ps) })

/-- Run a tile transfer (03 R57, 08 R152). -/
def runTile (op : Nat) (f : Fields) (s : State) (body : State → TileEnd) : State :=
  let u := usesOf op f false
  let s := s.drain u false
  match issueCheck s.thr u 1 (s.thr.sel f) 0 false false with
  | some tr => s.completeAll.takeTrap tr f.parcels
  | none =>
    match body (s.modThr Thread.tickWindows) with
    | .trap tr => s.completeAll.takeTrap tr f.parcels
    | .part tr pre => (pre s.completeAll).takeTrap tr f.parcels
    | .ok s' => s'.closeSlot s.thr 1

def doTload (f : Fields) (s : State) : TileEnd :=
  let w := s.thr.shape f.d.toNat
  if !shapeOk w then .trap { cause := 0x25 }
  else tileLoad 0x82 false f ((lanesOf (s.thr.sel f)).filter (· < shRows w)) (shPitch w) (shRB w) (shSwz w) [0] s

def doTstore (f : Fields) (s : State) : TileEnd :=
  let t := s.thr
  let n := f.d.toNat
  let w := t.shape n
  let rows := (lanesOf (t.sel f &&& ~~~ t.help)).filter (· < shRows w)
  if !shapeOk w then .trap { cause := 0x25 }
  else if rowsPoisoned t false n rows then .trap { cause := 0x61 }
  else tileStore f rows (shPitch w) (shRB w) (shSwz w) [0] (fun i j => t.tileByte n i j) s

def doTzload (f : Fields) (s : State) : TileEnd :=
  tileLoad 0x84 true f (lanesOf (s.thr.sel f)) 64 32 0 [0, 32] s

def doTzstore (f : Fields) (s : State) : TileEnd :=
  let t := s.thr
  let n := f.d.toNat
  let rows := lanesOf (t.sel f &&& ~~~ t.help)
  if rowsPoisoned t true n rows then .trap { cause := 0x61 }
  else tileStore f rows 64 32 0 [0, 32]
    (fun i j => (t.accElem n i (j / 4) >>> (8 * (j % 4))).setWidth 8) s

/-! ### The matrix multiply (08 R153, R154; 06 R117) -/

/-- The exact elements of row `i` of a tile, and whether a Q4X marker came too late (08 R144). -/
def rowVals (t : Thread) (n i : Nat) (w : Word) : List FVal × Bool :=
  let et := shEt w
  let e := etBytes et
  if et == 14 then
    (List.range (shCols w / 32)).foldl (fun (acc : List FVal × Bool) b =>
      let (v, iv) := q4xVals 32 (nibbles ((List.range 16).map (fun j => t.tileByte n i (16 * b + j)))) 0
      (acc.1 ++ v, acc.2 || iv)) ([], false)
  else ((List.range (shCols w)).map (fun k =>
    decEt et (ofBytes ((List.range e).map (fun j => t.tileByte n i (e * k + j))))), false)

/-- One element of the result: chunk sums in ascending order, each rounded, then added and rounded (06
R117). `fuel` bounds the chunks; `sc` gives a chunk's scale. -/
def mmaElem (fuel size : Nat) (c : Nat) (sc : Option (Nat → FVal)) (a b : List FVal) (acc : Nat) (fl : BitVec 5) :
    Nat × BitVec 5 :=
  match fuel with
  | 0 => (acc, fl)
  | k + 1 =>
    if a.isEmpty then (acc, fl)
    else
      let ps := (a.take size).zipWith (fun x y =>
        let (p, f1) := fMulV x y
        match sc with
        | none => (p, f1)
        | some g => let (p, f2) := fMulV p (g c); (p, f1 ||| f2)) (b.take size)
      let (x, f1) := fSum 0 (ps.map (·.1))
      let (r, f2) := (fmtOf 8).finish 0 0 x
      let (acc', f3) := fAdd 8 0 acc r
      mmaElem k size (c + 1) sc (a.drop size) (b.drop size) acc'
        (fl ||| f1 ||| f2 ||| f3 ||| ps.foldl (fun m p => m ||| p.2) 0)

/-- Whether the types of two tiles form an accepted pair (08 R153). -/
def mmaTypes (fb : Bool) (x y : Nat) : Bool :=
  ([11, 12, 14].contains x && [11, 12, 14].contains y) || (!fb && x == y && [8, 9, 10].contains x)

/-- TMMA and TMMA.FB (08 R154). -/
def semTmma (fb : Bool) (f : Fields) (t : Thread) : Except TrapInfo Eff :=
  let na := f.a.toNat
  let nb := f.b.toNat
  let nd := f.d.toNat
  let sa := t.shape na
  let sb := t.shape nb
  if !shapeOk sa || !shapeOk sb then .error { cause := 0x25 }
  else if shCols sa != shCols sb || shRows sb > 16 || !mmaTypes fb (shEt sa) (shEt sb) then .error { cause := 0x26 }
  else
    let rows := (lanesOf (t.sel f &&& ~~~ t.help)).filter (· < shRows sa)
    let cols := List.range (shRows sb)
    if rowsPoisoned t false na rows || (!rows.isEmpty && rowsPoisoned t false nb cols) || rowsPoisoned t true nd rows then
      .error { cause := 0x61 }
    else
      let bs := cols.map (fun j => rowVals t nb j sb)
      let scale (i j c : Nat) : FVal :=
        (fMulV (e8m0Dec ((t.vReg f.c.toNat i >>> (8 * c)).toNat % 256))
               (e8m0Dec ((t.vReg f.c.toNat j >>> (16 + 8 * c)).toNat % 256))).1
      let isZero (x : FVal) : Bool := match x with | .fin _ 0 _ => true | _ => false
      let outs : List (Nat × List (RegWrite × BitVec 5 × Nat)) := rows.map (fun i =>
        let (av, aiv) := rowVals t na i sa
        let es := cols.map (fun j =>
          let (bv, biv) := bs.getD j ([], false)
          let r := mmaElem 8 (if fb then 32 else 16) 0 (if fb then some (scale i j) else none) av bv
            (t.accElem nd i j).toNat 0
          let zeros := ((av.zip bv).filter (fun p => isZero p.1 || isZero p.2)).length
          (RegWrite.acc (accKey nd i j) (BitVec.ofNat 32 r.1),
           r.2 ||| (if aiv || biv then fIV else 0), zeros))
        (i, es))
      .ok { ws := outs.flatMap (fun o => o.2.map (·.1))
            flags := outs.map (fun o => (o.1, o.2.foldl (fun m e => m ||| e.2.1) 0))
            prod := rows.length * cols.length * shCols sa
            skip := (outs.flatMap (fun o => o.2.map (·.2.2))).foldl (· + ·) 0 }

/-- Run a matrix multiply: the products skipped are any number up to those with a zero factor, and the
context's counters advance (18 R367, R368; DESIGN CHOICE, log 7) (DEDUCED, log 46). -/
def runTmma (op : Nat) (fb : Bool) (f : Fields) (s : State) : State :=
  runLong op f s (fun s =>
    (semTmma fb f s.thr).bind (fun e =>
      let e := { e with skip := min e.skip (Config.mmaSkip s.tick) }
      let k := shEt (s.thr.shape f.a.toNat) * 16 + shEt (s.thr.shape f.b.toNat)
      (commit op f s e).map (fun s' => s'.modCtx s.thr.name.ctx (fun c =>
        { c with counters := { c.counters with
            prod := mset 0 c.counters.prod k (mget 0 c.counters.prod k + BitVec.ofNat 64 e.prod)
            skip := mset 0 c.counters.skip k (mget 0 c.counters.skip k + BitVec.ofNat 64 e.skip) } }))))

/-! ### TZROW and the Q4X packers (08 R156-R158) -/

def semTzrow (f : Fields) (t : Thread) : Except TrapInfo Eff :=
  let j := f.uimm % 16
  let rows := lanesOf (t.sel f)
  if f.uimm < 16 then
    if rowsPoisoned t true f.a.toNat (rows.filter (fun l => !t.help.getLsbD l)) then .error { cause := 0x61 }
    else .ok { ws := rows.map (fun l => .v (t.vKey f.d.toNat l) (t.accElem f.a.toNat l j)
      (rowsPoisoned t true f.a.toNat [l])) }
  else .ok { ws := rows.map (fun l => .acc (accKey f.d.toNat l j) (t.vReg f.a.toNat l)) }

/-- A value divided by the scale 2^(c − 127). -/
def unscale (x : FVal) (c : Nat) : FVal :=
  match x with
  | .fin n m e => .fin n m (e - ((c : Int) - 127))
  | x => x

/-- A value rounded to an integer by a mode, and whether that is exact; `none` for no number (08 R157). -/
def qInt (mode rnd : Nat) (x : FVal) : Option (Int × Bool) :=
  match x with
  | .fin neg m e =>
    let (q, rest) := shiftRest m e false
    let up := if mode == 4 then m != 0 && rest != 0 && srUp m e rnd else roundUp mode neg (q % 2 == 1) rest
    let q := if up then q + 1 else q
    some (if neg then -(q : Int) else q, rest == 0)
  | _ => none

/-- The encoding walk of 08 R157 from element `j`: nibbles and flags. -/
def qpackWalk (fuel mode : Nat) (rnd : Nat → Nat) (xs : List FVal) (j : Nat) : List Nat × BitVec 5 :=
  match fuel, xs with
  | 0, _ => ([], 0)
  | _ + 1, [] => ([], 0)
  | k + 1, x :: r =>
    let q := qInt mode (rnd j) x
    let nx (p : FVal) : BitVec 5 := match p with | .fin _ 0 _ => 0 | _ => fNX
    let zeroAt (i : Nat) : Bool :=
      match r[i]? with
      | some y => (qInt mode (rnd (j + 1 + i)) y).elim false (fun p => p.1 == 0)
      | none => false
    match q with
    | some (v, exact) =>
      if v.natAbs ≤ 7 then
        let (ns, fl) := qpackWalk k mode rnd r (j + 1)
        ((v.emod 16).toNat :: ns, fl ||| (if exact then 0 else fNX))
      else if j ≤ 29 && zeroAt 0 && zeroAt 1 then
        let (c, f1) := toFloat 11 mode (rnd j) x
        let (ns, fl) := qpackWalk k mode rnd (r.drop 2) (j + 3)
        (8 :: c % 16 :: c / 16 :: ns, fl ||| f1 ||| (r.take 2).foldl (fun m y => m ||| nx y) 0)
      else
        let (ns, fl) := qpackWalk k mode rnd r (j + 1)
        ((if v < 0 then 9 else 7) :: ns, fl ||| fOF ||| fNX)
    | none =>
      if j ≤ 29 && zeroAt 0 && zeroAt 1 then
        let (c, f1) := toFloat 11 mode (rnd j) x
        let (ns, fl) := qpackWalk k mode rnd (r.drop 2) (j + 3)
        (8 :: c % 16 :: c / 16 :: ns, fl ||| f1 ||| (r.take 2).foldl (fun m y => m ||| nx y) 0)
      else
        let (ns, fl) := qpackWalk k mode rnd r (j + 1)
        ((match x with | .inf true => 9 | .inf false => 7 | _ => 0) :: ns, fl ||| fOF ||| fNX ||| fIV)

/-- Bytes of 32 nibbles (06 R101). -/
def packNibbles (ns : List Nat) : List Nat :=
  (List.range 16).map (fun k => ns.getD (2 * k) 0 + 16 * ns.getD (2 * k + 1) 0)

/-- The shape check of the packers (08 R157). -/
def qShape (w : Word) (h : Nat) : Option TrapInfo :=
  if !shapeOk w then some { cause := 0x25 }
  else if shEt w == 14 && (shCols w == 64 || h == 0) then none
  else some { cause := 0x26 }

def semQpack (f : Fields) (t : Thread) : Except TrapInfo Eff :=
  let n := f.d.toNat % 8
  let h := f.d.toNat / 8
  let za := f.a.toNat
  let rows := lanesOf (t.sel f)
  let real := rows.filter (fun l => !t.help.getLsbD l)
  match qShape (t.shape n) h with
  | some tr => .error tr
  | none =>
    if rowsPoisoned t true za real || rowsPoisoned t true (za + 1) real then .error { cause := 0x61 }
    else
      let outs := rows.map (fun i =>
        let c := (t.vReg f.b.toNat i).toNat % 256
        let seed := if usesSeed f then t.wide f.ck.toNat f.c.toNat i else 0
        let xs := (List.range 32).map (fun e =>
          unscale (decEt 8 (t.accElem (za + e / 16) i (e % 16)).toNat) c)
        let r := if c == 255 then (List.replicate 32 0, fIV)
          else qpackWalk 32 (t.rounding f.rs) (fun j => srWord seed j) xs 0
        (i, packNibbles r.1, r.2))
      .ok { ws := outs.flatMap (fun o =>
              .row false (64 * n + o.1) (rowsPoisoned t false n [o.1] || rowsPoisoned t true za [o.1] ||
                rowsPoisoned t true (za + 1) [o.1]) ::
              (List.range 16).map (fun k => .tile (tileKey n o.1 (16 * h + k)) (BitVec.ofNat 8 (o.2.1.getD k 0))))
            flags := outs.map (fun o => (o.1, o.2.2)) }

def semQunpk (f : Fields) (t : Thread) : Except TrapInfo Eff :=
  let n := f.a.toNat % 8
  let h := f.a.toNat / 8
  let zd := f.d.toNat
  let rows := lanesOf (t.sel f)
  match qShape (t.shape n) h with
  | some tr => .error tr
  | none =>
    if rowsPoisoned t false n (rows.filter (fun l => !t.help.getLsbD l)) then .error { cause := 0x61 }
    else
      let outs := rows.map (fun i =>
        (i, q4xDecode ((List.range 16).map (fun k => t.tileByte n i (16 * h + k))) ((t.vReg f.b.toNat i).toNat % 256)))
      .ok { ws := outs.flatMap (fun o =>
              let p := rowsPoisoned t false n [o.1]
              .row true (64 * zd + o.1) p :: .row true (64 * (zd + 1) + o.1) p ::
              (List.range 32).map (fun e => .acc (accKey (zd + e / 16) o.1 (e % 16)) (BitVec.ofNat 32 (o.2.1.getD e 0))))
            flags := outs.map (fun o => (o.1, o.2.2)) }

/-! ### Index instructions (08 R159, R160) -/

/-- Results with a validity mask: `some` is found. -/
def indexOut (f : Fields) (t : Thread) (r : Nat → Option Nat) : Eff :=
  let sel := t.sel f
  { ws := (lanesOf sel).map (fun l => .v (t.vKey f.d.toNat l) (BitVec.ofNat 32 ((r l).getD 0xFFFFFFFF)) false) ++
      (if f.rs == 0 then [] else [.m f.rs.toNat sel (maskOf (fun l => sel.getLsbD l && (r l).isSome))]) }

def semXsect (f : Fields) (t : Thread) : Except TrapInfo Eff :=
  let cand := lanesOf t.active
  .ok (indexOut f t (fun l =>
    if t.help.getLsbD l then none
    else (cand.find? (fun j => j / 16 == l / 16 && t.vReg f.b.toNat j == t.vReg f.a.toNat l)).map (fun j =>
      j - 16 * (l / 16))))

def semNzscan (f : Fields) (t : Thread) : Except TrapInfo Eff :=
  let ts := lanesOf (t.sel f &&& ~~~ t.help)
  let n := etBits f.et.toNat
  let nz (l : Nat) : Bool :=
    let v := (t.vReg f.a.toNat l).toNat % 2 ^ n
    if etIsInt f.et.toNat then v != 0 else v % 2 ^ (n - 1) != 0
  let ps := ts.filter nz
  .ok (indexOut f t (fun l => if ts.contains l then ps[ts.idxOf l]? else none))

def execTshape (f : Fields) (s : State) : Host.Outcome State Fault Refusal := .next (runAlu 0x80 semTshape f s)
def execTzero (f : Fields) (s : State) : Host.Outcome State Fault Refusal := .next (runAlu 0x81 semTzero f s)
def execTload (f : Fields) (s : State) : Host.Outcome State Fault Refusal :=
  .next (runTile 0x82 f s.roomForLoad (doTload f))
def execTstore (f : Fields) (s : State) : Host.Outcome State Fault Refusal := .next (runTile 0x83 f s (doTstore f))
def execTzload (f : Fields) (s : State) : Host.Outcome State Fault Refusal :=
  .next (runTile 0x84 f s.roomForLoad (doTzload f))
def execTzstore (f : Fields) (s : State) : Host.Outcome State Fault Refusal := .next (runTile 0x85 f s (doTzstore f))
def execTmma (f : Fields) (s : State) : Host.Outcome State Fault Refusal := .next (runTmma 0x86 false f s)
def execTmmaFb (f : Fields) (s : State) : Host.Outcome State Fault Refusal := .next (runTmma 0x87 true f s)
def execTzrow (f : Fields) (s : State) : Host.Outcome State Fault Refusal := .next (runAlu 0x88 semTzrow f s)
def execQpack (f : Fields) (s : State) : Host.Outcome State Fault Refusal := .next (runAlu 0x89 semQpack f s)
def execQunpk (f : Fields) (s : State) : Host.Outcome State Fault Refusal := .next (runAlu 0x8A semQunpk f s)
def execXsect (f : Fields) (s : State) : Host.Outcome State Fault Refusal := .next (runAlu 0x90 semXsect f s)
def execNzscan (f : Fields) (s : State) : Host.Outcome State Fault Refusal := .next (runAlu 0x91 semNzscan f s)

end Sys2Proof.Machine
end

