-- ==== Sys2Proof/Machine/Hash.lean ====
section
/-! DEFINITION. SHA3-512, which images, patch images and attestation reports are digested with (02 R41, 16 R307,
R315); the manual names the function, and FIPS 202 defines it (PRESUMED, log 12). -/

namespace Sys2Proof.Machine

/-- Rotation of lane (x, y), at index x + 5y. -/
def keccakRot : List Nat :=
  [0, 1, 62, 28, 27, 36, 44, 6, 55, 20, 3, 10, 43, 25, 39, 41, 45, 15, 21, 8, 18, 2, 61, 56, 14]

/-- Round constants. -/
def keccakRc : List Word :=
  [0x0000000000000001, 0x0000000000008082, 0x800000000000808A, 0x8000000080008000, 0x000000000000808B, 0x0000000080000001,
   0x8000000080008081, 0x8000000000008009, 0x000000000000008A, 0x0000000000000088, 0x0000000080008009, 0x000000008000000A] ++
  [0x000000008000808B, 0x800000000000008B, 0x8000000000008089, 0x8000000000008003, 0x8000000000008002, 0x8000000000000080,
   0x000000000000800A, 0x800000008000000A, 0x8000000080008081, 0x8000000000008080, 0x0000000080000001, 0x8000000080008008]

/-- One round on the 25 lanes: theta, rho and pi, chi, iota. -/
def keccakRound (a : List Word) (rc : Word) : List Word :=
  let g (l : List Word) (i : Nat) : Word := l.getD i 0
  let c := (List.range 5).map (fun x => g a x ^^^ g a (x + 5) ^^^ g a (x + 10) ^^^ g a (x + 15) ^^^ g a (x + 20))
  let d := (List.range 5).map (fun x => g c ((x + 4) % 5) ^^^ (g c ((x + 1) % 5)).rotateLeft 1)
  let t := (List.range 25).map (fun i => g a i ^^^ g d (i % 5))
  let b := (List.range 25).map (fun i =>
    let src := (i % 5 + 3 * (i / 5)) % 5 + 5 * (i % 5)
    (g t src).rotateLeft (keccakRot.getD src 0))
  let e := (List.range 25).map (fun i =>
    let y := 5 * (i / 5)
    g b i ^^^ (~~~ g b (y + (i + 1 - y) % 5) &&& g b (y + (i + 2 - y) % 5)))
  (g e 0 ^^^ rc) :: e.drop 1

/-- The permutation. -/
def keccak (a : List Word) : List Word := keccakRc.foldl keccakRound a

/-- Absorb blocks of 72 bytes. -/
def absorb (fuel : Nat) (a : List Word) (bs : List Byte) : List Word :=
  match fuel with
  | 0 => a
  | n + 1 =>
    if bs.isEmpty then a
    else
      let ws := (List.range 9).map (fun i => BitVec.ofNat 64 (ofBytes ((bs.drop (8 * i)).take 8)))
      absorb n (keccak ((List.range 25).map (fun i => a.getD i 0 ^^^ ws.getD i 0))) (bs.drop 72)

/-- SHA3-512, 64 bytes. -/
def sha3 (bs : List Byte) : List Byte :=
  let k := 72 - bs.length % 72
  let pad : List Byte := if k == 1 then [0x86] else 0x06 :: List.replicate (k - 2) 0 ++ [0x80]
  let m := bs ++ pad
  ((absorb (m.length / 72) (List.replicate 25 0) m).take 8).flatMap (fun w => toBytes 8 w.toNat)

end Sys2Proof.Machine
end

