-- ==== Sys2Proof/Machine/Sync.lean ====
section
/-! DEFINITION. Fences, team and span barriers, `WAITV`, transaction barriers and publishing (10 R206-R214). -/

namespace Sys2Proof.Machine

/-- An instruction that a hail thread may not execute (09 R193). -/
def notInHail (s : State) (body : State → Except TrapInfo State) : Except TrapInfo State :=
  if s.thr.name.hail then .error { cause := 0x55 } else body s

/-- Move past the instruction. -/
def State.past (s : State) (f : Fields) : State := s.modThr (fun t => t.advance f.parcels)

/-- Write `s` and condition registers named by the instruction. -/
def State.putS (s : State) (n : Nat) (w : Word) : State := s.modThr (fun t => t.write (.s (t.wins.s.wb + n) w false))
def State.putC (s : State) (n : Nat) (b : Bool) : State := s.modThr (fun t => t.write (.c n b))

/-- Wait for a condition, or go on at once when it holds already. -/
def waitOrPass (f : Fields) (w : Wait) (now : State → State) (s : State) : State :=
  if waitOver s s.thr w then (now s).past f else s.waitOn w

/-- FENCE (10 R206): the memory order is 1 `.acq`, 2 `.rel`, 3 `.ar` (DEDUCED, log 54). -/
def doFence (f : Fields) (s : State) : Except TrapInfo State :=
  .ok (waitOrPass f (.fence (f.mo != 1) (f.mo != 2) s.thr.memOrd s.nextId) id s)

/-- BAR (10 R207): the arrival is a release; the group waits for the phase. -/
def doBar (f : Fields) (s : State) : Except TrapInfo State :=
  notInHail s (fun s =>
    let s := s.release
    let uid := s.thr.name.uid
    let k := teamBarKey uid f.uimm
    let b := mget {} s.teamBars k
    let s := { s with teamBars := mset {} s.teamBars k { b with count := b.count + 1 } }
    .ok (((s.past f).waitOn (.bar f.uimm b.phase)).barPhases uid))

/-- SBAR (10 R207, R208). -/
def doSbar (f : Fields) (s : State) : Except TrapInfo State :=
  notInHail s (fun s =>
    let uid := s.thr.name.uid
    let tm := s.team uid
    if tm.kernel.span ≤ 1 then .error { cause := 0x5B }
    else
      let s := s.release
      let k := spanBarKey tm.launch (tm.index / tm.kernel.span) f.uimm
      let b := mget {} s.spanBars k
      let s := { s with spanBars := mset {} s.spanBars k { b with count := b.count + 1 } }
      .ok (((s.past f).waitOn (.sbar f.uimm b.phase)).barPhases uid))

/-- WAITV (10 R209): older loads are performed before the location is read (09 R172). -/
def doWaitv (f : Fields) (s : State) : Except TrapInfo State :=
  notInHail s (fun s =>
    let t := s.thr
    let e := etBytes f.et.toNat
    let x := access s t .watch (.ptr (t.sReg f.a.toNat)) 0 e e
    (judge s t .watch e [{ lane := none, g := x.1, res := x.2 }]).map (fun accs =>
      let key := ((accs.head?.bind (·.key)).getD 0)
      let sg := etSigned f.et.toNat
      let v := t.sReg f.b.toNat
      let s := s.finishAll
      if waitvHolds s s.thr key e f.c.toNat sg v then s.past f else s.waitOn (.val key e f.c.toNat sg v)))

/-- TXALLOC (10 R211). -/
def doTxalloc (f : Fields) (s : State) : Except TrapInfo State :=
  let core := s.thr.place.core
  let c := f.c.toNat
  match (List.range 256).find? (fun i => (s.bar core i).refs == 0) with
  | none => .ok (((s.putS f.d.toNat 0).putC c false).past f)
  | some i =>
    let b := s.bar core i
    let gen := if (b.gen + 1) % 2 ^ 32 = 0 then 1 else (b.gen + 1) % 2 ^ 32
    let s := s.setBar core i { gen := gen, owner := s.thr.name.uid, pend := 0, phase := 0, refs := 1, held := true }
    .ok (((s.putS f.d.toNat (mkRef gen core i)).putC c true).past f)

/-- The count of TXEXPECT and TXARRIVE: an immediate, or an unsigned register value. -/
def txCount (t : Thread) (f : Fields) : Nat := if f.bk == 3 then f.uimm else (t.sReg f.b.toNat).toNat

/-- The greatest count of pending arrivals (10 R210). -/
def pendMax : Nat := 16777215

/-- Act on the barrier that `s`A names, with a count of arrivals in its range (10 R210, R211). -/
def onBarrier (f : Fields) (n : Nat) (g : TxBar → Except TrapInfo TxBar) (s : State) : Except TrapInfo State :=
  let t := s.thr
  let r := t.sReg f.a.toNat
  if n = 0 || n > pendMax then .error { cause := 0x03 }
  else if !refValid s t.name.uid t.place.core r then .error { cause := 0x59 }
  else (g (s.bar t.place.core (refIndex r))).map (fun b =>
    (s.setBar t.place.core (refIndex r) b).txWake t.place.core (refIndex r))

def doTxexpect (f : Fields) (s : State) : Except TrapInfo State :=
  let n := txCount s.thr f
  (onBarrier f n (fun b =>
    if b.pend + n > pendMax then .error { cause := 0x5A } else .ok { b with pend := b.pend + n }) s).map
    (fun s => s.past f)

/-- TXARRIVE: a release at its scope (10 R212) (DEDUCED, log 54). -/
def doTxarrive (f : Fields) (s : State) : Except TrapInfo State :=
  let n := txCount s.thr f
  (onBarrier f n (fun b => if n > b.pend then .error { cause := 0x5A } else .ok (b.arrive n)) s).map
    (fun s => s.release.past f)

/-- TXWAIT (10 R211). -/
def doTxwait (f : Fields) (s : State) : Except TrapInfo State :=
  notInHail s (fun s =>
    let t := s.thr
    let r := t.sReg f.a.toNat
    if !refValid s t.name.uid t.place.core r then .error { cause := 0x59 }
    else
      let b := s.bar t.place.core (refIndex r)
      .ok (if b.pend = 0 then s.past f else s.waitOn (.tx (refIndex r) b.phase)))

/-- TXFREE (10 R211). -/
def doTxfree (f : Fields) (s : State) : Except TrapInfo State :=
  (onBarrier f 1 (fun b => .ok { b.release with held := false }) s).map (fun s => s.past f)

/-- The table entry of a shadow-pair handle that the thread may write; cause 0x37 otherwise (09 R187, 10
R213). -/
def shadowEntry (s : State) (t : Thread) (h : Nat) : Except TrapInfo Nat :=
  match boundEntry s (s.team t.name.uid) h with
  | none => .error { cause := 0x37 }
  | some e =>
    let w3 := handleWord s t.name.ctx e 3
    if w3.getLsbD 3 && w3.getLsbD 2 then .ok e else .error { cause := 0x37 }

/-- PUBL (10 R213): the publish point is a release, so the thread's earlier loads and stores come before it (R214). -/
def doPubl (f : Fields) (s : State) : Except TrapInfo State :=
  (shadowEntry s s.thr f.a.toNat).map (fun e =>
    waitOrPass f (.publ e s.thr.memOrd s.nextId) (fun s => s.publish s.thr.name.ctx e) s)

def execFence (f : Fields) (s : State) : Host.Outcome State Fault Refusal := .next (runLong 0xC2 f s (doFence f))
def execBar (f : Fields) (s : State) : Host.Outcome State Fault Refusal := .next (runLong 0xC3 f s (doBar f))
def execSbar (f : Fields) (s : State) : Host.Outcome State Fault Refusal := .next (runLong 0xC4 f s (doSbar f))
def execWaitv (f : Fields) (s : State) : Host.Outcome State Fault Refusal := .next (runLong 0xC5 f s (doWaitv f))
def execTxalloc (f : Fields) (s : State) : Host.Outcome State Fault Refusal := .next (runLong 0xC6 f s (doTxalloc f))
def execTxexpect (f : Fields) (s : State) : Host.Outcome State Fault Refusal :=
  .next (runLong 0xC7 f s (doTxexpect f))
def execTxarrive (f : Fields) (s : State) : Host.Outcome State Fault Refusal :=
  .next (runLong 0xC8 f s (doTxarrive f))
def execTxwait (f : Fields) (s : State) : Host.Outcome State Fault Refusal := .next (runLong 0xC9 f s (doTxwait f))
def execTxfree (f : Fields) (s : State) : Host.Outcome State Fault Refusal := .next (runLong 0xCA f s (doTxfree f))
def execPubl (f : Fields) (s : State) : Host.Outcome State Fault Refusal := .next (runLong 0xCB f s (doPubl f))

end Sys2Proof.Machine
end

