-- ==== Sys2Proof/Machine/Engine.lean ====
section
/-! DEFINITION. Issue of engine commands: copies, `BSTORE` and hail reads (09 R181-R195, R394), and `HRET`. -/

namespace Sys2Proof.Machine

/-! ### Spans and apertures -/

/-- Bytes from `lo` to `hi − 1`, as integers on ADDR, of a pointer's area (09 R185). -/
structure Span where
  p : Word
  lo : Int
  hi : Int
  deriving DecidableEq, Repr

/-- The pointer layout check of a span (09 R167): reserved bits clear and no address leaves ADDR. -/
def Span.layoutOk (x : Span) : Bool := x.p.extractLsb' 55 5 == 0 && 0 ≤ x.lo && x.hi ≤ 2 ^ 55

/-- A number of each aperture that copies reach: 1 shared, 2 own scratchpad, 3 global, 4 + d die d. -/
def apertureNo (a : Nat) : Nat :=
  match locate a with
  | .shared _ => 1
  | .own _ => 2
  | .global _ => 3
  | .far d _ => 4 + d
  | _ => 0

/-- Whether a global address is remote (19 R380) (DEDUCED, log 69). -/
def isRemote (a : Nat) : Bool := a ≥ 2 ^ 54 && a < 2 ^ 55

/-- The aperture check of a span for copies and `BSTORE` (09 R185, R166): the cause. -/
def Span.aperture (x : Span) : Option Nat :=
  let a := x.lo.toNat
  let z := (x.hi - 1).toNat
  match locate a, locate z with
  | .none, _ => some 0x32
  | .spill _, _ => some 0x30
  | _, .none => some 0x32
  | _, _ => if apertureNo a == apertureNo z && isRemote a == isRemote z then none else some 0x30

/-- The aperture check of a hail read: the global window, this device (09 R190, 19 R380). -/
def Span.hailAperture (x : Span) : Option Nat :=
  let a := x.lo.toNat
  let z := (x.hi - 1).toNat
  match locate a, locate z with
  | .none, _ => some 0x32
  | .global _, .global _ => if isRemote z then some 0x30 else none
  | .global _, .none => some 0x32
  | _, _ => some 0x30

/-- Scratchpad offsets of a die that a span covers. -/
def Span.scratch (core : Nat) (x : Span) : Option (Nat × Nat × Nat) :=
  match locate x.lo.toNat with
  | .own o => some (dieOf core, o, (x.hi - x.lo).toNat)
  | .far d o => some (d, o, (x.hi - x.lo).toNat)
  | _ => none

/-- Bound, ownership and spill-stack checks of a span at issue (09 R394 step 11). -/
def Span.owned (s : State) (t : Thread) (x : Span) : Option Nat :=
  match locate x.lo.toNat with
  | .shared o => if (s.team t.name.uid).kernel.shared < o + (x.hi - x.lo).toNat then some 0x34 else none
  | _ =>
    match x.scratch t.place.core with
    | none => none
    | some (die, o, n) =>
      let units := (List.range ((o + n - 1) / 65536 - o / 65536 + 1)).map (fun i => (o / 65536 + i) * 65536)
      if units.any (fun u => (scratchOwner s die u).who != ownerCtx t.name.ctx) then some 0x3C
      else if units.any (fun u => inSpillPart (s.ctx t.name.ctx) (max u o) ||
        inSpillPart (s.ctx t.name.ctx) (min (u + 65535) (o + n - 1))) then some 0x34
      else none

/-! ### Layouts (09 R182-R184) -/

/-- Fields of a layout. -/
def layElog (w : List Word) : Nat := ((w.getD 0 0).extractLsb' 0 2).toNat
def layEb (w : List Word) : Nat := 2 ^ layElog w
def laySwz (w : List Word) : Nat := ((w.getD 0 0).extractLsb' 2 3).toNat
def layN (w : List Word) (j : Nat) : Nat := ((w.getD 1 0) >>> (16 * j)).toNat % 65536
def laySS (w : List Word) (j : Nat) : Int := (w.getD (1 + j) 0).toInt
def layDS (w : List Word) (j : Nat) : Int := (w.getD (4 + j) 0).toInt
/-- The number of elements. -/
def layCount (w : List Word) : Nat := layN w 0 * layN w 1 * layN w 2 * layN w 3

/-- The destination span test of 09 R183, dimensions 1 to 3. -/
def spanTest (w : List Word) (span : Int) (js : List Nat) : Bool :=
  match js with
  | [] => true
  | j :: r =>
    if layN w j > 1 then !(layDS w j < span) && spanTest w ((layN w j - 1 : Nat) * layDS w j + span) r
    else spanTest w span r

/-- A valid layout for two bases (09 R183). -/
def layoutValid (w : List Word) (dst src : Word) : Bool :=
  let eb := layEb w
  (w.getD 0 0).extractLsb' 5 59 == 0 &&
  ([1, 2, 3].all (fun j => laySS w j % eb == 0 && layDS w j % eb == 0)) &&
  addrOf dst % eb == 0 && addrOf src % eb == 0 && layCount w * eb ≤ 2 ^ 32 &&
  spanTest w (layN w 0 * eb : Nat) [1, 2, 3]

/-- Offset of element `k`, in linear order, from a base with dimension strides `st` (09 R182). -/
def elemOff (w : List Word) (st : Nat → Int) (k : Nat) : Int :=
  let n0 := layN w 0
  let n1 := layN w 1
  let n2 := layN w 2
  (k % n0 * layEb w : Nat) + (k / n0 % n1 : Nat) * st 1 + (k / (n0 * n1) % n2 : Nat) * st 2 +
    (k / (n0 * n1 * n2) : Nat) * st 3

/-- The span of one side of a copy; one element at the base when an extent is 0 (09 R183). -/
def copySpan (w : List Word) (st : Nat → Int) (p : Word) : Span :=
  let eb : Int := layEb w
  let a : Int := addrOf p
  if layCount w = 0 then { p := p, lo := a, hi := a + eb }
  else
    let reach (j : Nat) : Int := (layN w j - 1 : Nat) * st j
    let ext (g : Int → Int) : Int := g (reach 1) + g (reach 2) + g (reach 3)
    { p := p, lo := a + ext (min 0), hi := a + ext (max 0) + layN w 0 * eb }

/-- CRC-32C over bytes (09 R184). -/
def crcBits (n c : Nat) : Nat :=
  match n with
  | 0 => c
  | k + 1 => crcBits k (if c % 2 == 1 then c / 2 ^^^ 0x82F63B78 else c / 2)
def crc32c (bs : List Byte) : Nat := (bs.foldl (fun c b => crcBits 8 (c ^^^ b.toNat)) 0xFFFFFFFF) ^^^ 0xFFFFFFFF

/-- Where an engine's access of `n` bytes in one sector lies, with its checks (09 R185; 16 R293, R298):
the cause, or the memory key. Remote addresses are treated apart. -/
def engineReach (s : State) (ctx core uid : Nat) (write : Bool) (swz : Nat) (p : Word) (n : Nat) : Except Nat Nat :=
  let fin (chk : Option Nat) (key : Nat) : Except Nat Nat :=
    match chk with | some x => .error x | none => .ok key
  match locate (addrOf p) with
  | .none => .error 0x32
  | .spill _ => .error 0x30
  | .shared o =>
    let tm := s.team uid
    if tm.kernel.shared < o + n then .error 0x34 else .ok (teamKey tm (phys swz o))
  | .own o => fin (scratchCheck s [] ctx (dieOf core) o n false write (some (tagOf p))) (scratchKey (dieOf core) o)
  | .far d o => fin (scratchCheck s [] ctx d o n false write (some (tagOf p))) (scratchKey d o)
  | .global va =>
    match translate s ctx va with
    | .error c => .error c
    | .ok (pa, e) => fin (pageCheck s [] e pa n write (some (tagOf p))) (mainKey pa)

/-- The sealed record at an address (09 R184): its own read's trap, or its eight words, or cause 0x51. -/
def readRecord (s : State) (p : Word) : Except TrapInfo (List Word) :=
  let t := s.thr
  let sp : Span := { p := p, lo := addrOf p, hi := addrOf p + 72 }
  let bad (c : Nat) (a : Word) : Except TrapInfo (List Word) := .error { cause := c, addr := a }
  if !sp.layoutOk then bad 0x31 p
  else match sp.aperture with
  | some c => bad c p
  | none =>
    if isRemote (addrOf p) then bad 0x30 p
    else if addrOf p % 8 != 0 then bad 0x33 p
    else
      let keys := (List.range 9).map (fun i =>
        (p + BitVec.ofNat 64 (8 * i), engineReach s t.name.ctx t.place.core t.name.uid false 0 (p + BitVec.ofNat 64 (8 * i)) 8))
      match keys.find? (fun k => match k.2 with | .error _ => true | .ok _ => false) with
      | some (a, .error c) => bad c a
      | _ =>
        let bs := keys.flatMap (fun k =>
          match k.2 with
          | .ok key => (List.range 8).map (fun i => loadByte s t t.memOrd (key + i))
          | .error _ => [])
        let body := bs.drop 8
        if ofBytes (bs.take 2) != 1 || ofBytes ((bs.drop 2).take 2) != 0 || ofBytes ((bs.drop 4).take 4) != crc32c body
        then .error { cause := 0x51 }
        else .ok ((List.range 8).map (fun i => BitVec.ofNat 64 (ofBytes ((body.drop (8 * i)).take 8))))

/-! ### The issue of a command (09 R181) -/

/-- Steps 14 and 15 of 09 R394. -/
def barrierCheck (s : State) (t : Thread) (r : Word) : Option Nat :=
  if r == 0 then none
  else if !refValid s t.name.uid t.place.core r then some 0x59
  else if (s.bar t.place.core (refIndex r)).pend == pendMax then some 0x5A else none

/-- The first cause of a list of checks in order. -/
def firstCause (cs : List (Option Nat)) : Option Nat := cs.findSome? id

/-- A fabric engine of a die that serves a context: any, and in strict-partition mode one that the host gave it (01 R12, 16 R291;
DESIGN CHOICE, log 66). -/
def fabricEngine (s : State) (ctx die seed : Nat) : Nat :=
  let es := (List.range 24).filter (fun e => !s.hub.mode || Config.engineOwner die e == ctx)
  es.getD (Config.choice seed % es.length) 0

/-- Take the launch site, the barrier's pending arrival and hold, and start the command (09 R181, 10
R211); the thread goes on. -/
def State.issueCmd (s : State) (f : Fields) (bar : Word) (scope : Nat) (work : Work) (fabric : Bool) : State :=
  let t := s.thr
  let (id, s) := s.fresh
  let s := if bar == 0 then s else
    let b := s.bar t.place.core (refIndex bar)
    s.setBar t.place.core (refIndex bar) { b with pend := b.pend + 1, refs := b.refs + 1 }
  let c : Cmd := { id := id, ctx := t.name.ctx, uid := t.name.uid, tid := t.id, core := t.place.core
                   launch := t.name.launch, team := t.name.team, group := t.name.group, pc := t.pc, seq := t.seq
                   bar := bar, scope := scope, work := work, ord := t.memOrd, fabric := fabric
                   engine := if fabric then fabricEngine s t.name.ctx (dieOf t.place.core) id else 0 }
  { s.setCmd id c with thr := { t.advance f.parcels with seq := t.seq + 1, memOrd := t.memOrd + 1 } }

/-- Step 13 of 09 R394 for one side of a copy in shared memory: a unit whose tag differs from SWZ is read,
or written only in part (R186). -/
def copyTags (s : State) (tm : Team) (w : List Word) (st : Nat → Int) (p : Word) (write : Bool) : Bool :=
  match locate (addrOf p) with
  | .shared base =>
    let eb := layEb w
    let offs := (List.range (layCount w)).map (fun k => ((base : Int) + elemOff w st k).toNat)
    let units := (offs.map (· / 1024)).eraseDups
    units.any (fun u => (mget 0 s.swz (swzKey tm u)).toNat != laySwz w &&
      (!write || (offs.filter (fun o => o / 1024 == u)).length * eb < 1024))
  | _ => false

/-- The checks of a copy from step 6 of 09 R394 on, destination before source within a step, and its
issue. `entry` is the shadow handle's table entry, with its length. A fabric engine serves a copy that crosses dies or
devices (01 R12). -/
def issueCopy (f : Fields) (dst src : Word) (w : List Word) (bar : Word) (entry : Option Nat) (s : State) :
    Except TrapInfo State :=
  let t := s.thr
  let d := copySpan w (layDS w) dst
  let r := copySpan w (laySS w) src
  let isShared (p : Word) : Bool := match locate (addrOf p) with | .shared _ => true | _ => false
  let isFar (p : Word) : Bool := match locate (addrOf p) with
    | .far d _ => d != dieOf t.place.core
    | .global va => isRemote va
    | _ => false
  let tm := s.team t.name.uid
  let chk (g : Span → Option Nat) : List (Option Nat × Word) := [(g d, dst), (g r, src)]
  let one (c : Option Nat) : List (Option Nat × Word) := [(c, 0)]
  let steps : List (Option Nat × Word) :=
    chk (fun x => if x.layoutOk then none else some 0x31) ++
    one (if layoutValid w dst src then none else some 0x52) ++
    chk Span.aperture ++
    [(match entry with
      | some e => if (handleLength s t.name.ctx e : Int) < d.hi - addrOf dst then some 0x34 else none
      | none => none, dst)] ++
    chk (Span.owned s t) ++
    one (if laySwz w != 0 && !isShared dst && !isShared src then some 0x52 else none) ++
    one (if copyTags s tm w (layDS w) dst true || copyTags s tm w (laySS w) src false then some 0x28 else none) ++
    one (barrierCheck s t bar)
  match steps.find? (fun x => x.1.isSome) with
  | some (some c, a) => .error { cause := c, addr := a }
  | _ => .ok (s.issueCmd f bar f.rs.toNat (.copy dst src w entry) (isFar dst || isFar src))

/-- The eight layout registers from `s`n. -/
def layoutRegs (t : Thread) (n : Nat) : List Word := (List.range 8).map (fun i => t.sReg (n + i))

/-- BCOPY and BCOPY.R (09 R184, R185). -/
def doBcopy (reg : Bool) (f : Fields) (s : State) : Except TrapInfo State :=
  notInHail s (fun s =>
    let t := s.thr
    if (s.ctx t.name.ctx).regLayout != reg then .error { cause := 0x53 }
    else
      (if reg then .ok (layoutRegs t f.b.toNat) else readRecord s (t.sReg f.b.toNat)).bind (fun w =>
        issueCopy f (t.sReg f.d.toNat) (t.sReg f.a.toNat) w (t.sReg f.c.toNat) none s))

/-- BCOPY.S (09 R187). -/
def doBcopyS (f : Fields) (s : State) : Except TrapInfo State :=
  notInHail s (fun s =>
    let t := s.thr
    let reg := (s.ctx t.name.ctx).regLayout
    (if reg then .ok (layoutRegs t f.b.toNat) else readRecord s (t.sReg f.b.toNat)).bind (fun w =>
      (shadowEntry s t f.d.toNat).bind (fun e =>
        issueCopy f (handleBase s t.name.ctx e true) (t.sReg f.a.toNat) w (t.sReg f.c.toNat) (some e) s)))

/-- The base of a command's address: the pointer, the handle's causes (09 R394 steps 4 and 10) for `n` bytes
at offset `o`. `perm` is the permission bit of word 3. -/
def cmdBase (s : State) (t : Thread) (f : Fields) (o : Word) (n perm : Nat) : Word × Option Nat × Option Nat :=
  if f.ak == 3 then
    match boundEntry s (s.team t.name.uid) f.a.toNat with
    | none => (0, some 0x37, none)
    | some e =>
      (handlePtr (handleBase s t.name.ctx e false) o,
       if (handleWord s t.name.ctx e 3).getLsbD perm then none else some 0x37,
       if o.toInt < 0 || (handleLength s t.name.ctx e : Int) < o.toInt + n then some 0x34 else none)
  else (t.sReg f.a.toNat + o, none, none)

/-- The pointer layout check of an address formed from a base (09 R167). -/
def cmdLayout (t : Thread) (f : Fields) (x : Span) : Option Nat :=
  if x.layoutOk && (f.ak == 3 || layoutOk (t.sReg f.a.toNat) x.p) then none else some 0x31

/-- BSTORE (09 R188): its data moves with its poison, and only a poisoned uniform operand traps (17 R345, R346) (DEDUCED,
log 35). -/
def doBstore (f : Fields) (s : State) : Except TrapInfo State :=
  notInHail s (fun s =>
    let t := s.thr
    let e := etBytes f.et.toNat
    let n := f.d.toNat * t.width * e
    if (usesOf 0xAB f false).reads.any (poisonedWhole t) then .error { cause := 0x60, lanes := some (t.sel f) } else
    let o : Word := if f.ext then f.lit.signExtend 64 else 0
    let bar := t.sReg f.c.toNat
    let (p, perm, bound) := cmdBase s t f o n 2
    let x : Span := { p := p, lo := addrOf p, hi := addrOf p + n }
    match firstCause [perm, cmdLayout t f x, if addrOf p % e != 0 then some 0x33 else none, x.aperture, bound,
                      x.owned s t, barrierCheck s t bar] with
    | some c => .error { cause := c, addr := p }
    | none =>
      let lanes := lanesOf (t.sel f &&& ~~~ t.help)
      let bytes := (List.range f.d.toNat).flatMap (fun r => lanes.flatMap (fun l =>
        cellsAt (e * (r * t.width + l)) (toBytes e (t.vReg (f.b.toNat + r) l).toNat)))
      let bad := (List.range f.d.toNat).flatMap (fun r =>
        (lanes.filter (fun l => t.poison.v.contains (t.vKey (f.b.toNat + r) l))).flatMap (fun l =>
          (List.range e).map (fun i => e * (r * t.width + l) + i)))
      .ok (s.issueCmd f bar f.rs.toNat (.bstore p bytes bad) false))

/-! ### Hail reads (09 R190-R195) -/

/-- The image of a context that holds an address (02 R41). -/
def imageAt (c : Ctx) (pc : Nat) : Option Image :=
  c.images.find? (fun im => im.base ≤ pc && pc < im.base + 65536 * im.frames.length)

/-- The handler entry at an address of the image that holds `pc` (09 R190). -/
def handlerAt (c : Ctx) (pc target : Nat) : Option Kernel :=
  (imageAt c pc).bind (fun im => im.kernels.find? (fun k => k.kind == 1 && im.base + k.entry == target))

/-- The bursts of a segment: pointer, byte count, index, segment (09 R190). -/
def burstsOf (p : Word) (len seg : Nat) : List (Word × Nat × Nat × Nat) :=
  (List.range ((len + 255) / 256)).map (fun k =>
    (p + BitVec.ofNat 64 (256 * k), min 256 (len - 256 * k), k, seg))

/-- The handler's address and its check (09 R190). -/
def hailHandler (s : State) (f : Fields) : Pc × Option Nat :=
  let t := s.thr
  let h : Pc := t.pc + 4 * f.lit.signExtend 55
  (h, if (handlerAt (s.ctx t.name.ctx) t.pc.toNat h.toNat).isSome then none else some 0x58)

/-- The span of a hail read or segment; its first byte when it is empty. -/
def hailSpan (p : Word) (len : Nat) : Span := { p := p, lo := addrOf p, hi := addrOf p + max len 1 }

/-- HREAD (09 R190). -/
def doHread (f : Fields) (s : State) : Except TrapInfo State :=
  notInHail s (fun s =>
    let t := s.thr
    let len := (t.sReg f.b.toNat).toNat
    let bar := t.sReg f.d.toNat
    let (h, hc) := hailHandler s f
    let (p, perm, bound) := cmdBase s t f 0 len 1
    let x := hailSpan p len
    match firstCause [perm, hc, cmdLayout t f x, if len % 4 != 0 || len > 16777216 then some 0x52 else none,
                      if addrOf p % 4 != 0 then some 0x33 else none, x.hailAperture, bound, barrierCheck s t bar] with
    | some c => .error { cause := c, addr := p }
    | none => .ok (s.issueCmd f bar f.rs.toNat (.hread (burstsOf p len 0) (t.sReg f.c.toNat) h) false))

/-- HREAD.V (09 R195): each check over the segments in ascending lane. -/
def doHreadV (f : Fields) (s : State) : Except TrapInfo State :=
  notInHail s (fun s =>
    let t := s.thr
    let len := (t.sReg (f.c.toNat + 1)).toNat
    let bar := t.sReg f.d.toNat
    let (h, hc) := hailHandler s f
    let segs := (lanesOf (t.sel f &&& ~~~ t.help)).map (fun l =>
      (l, cmdBase s t f ((t.vReg f.b.toNat l).signExtend 64) len 1))
    let each (g : Word → Option Nat) : List (Option Nat × Word) := segs.map (fun x => (g x.2.1, x.2.1))
    let perm := (cmdBase s t f 0 0 1).2.1
    let steps : List (Option Nat × Word) :=
      [(perm, 0), (hc, 0)] ++ each (fun p => cmdLayout t f (hailSpan p len)) ++
      [(if len % 4 != 0 || len > 4096 then some 0x52 else none, 0)] ++
      each (fun p => if addrOf p % 4 != 0 then some 0x33 else none) ++
      each (fun p => (hailSpan p len).hailAperture) ++
      segs.map (fun x => (x.2.2.2, x.2.1)) ++ [(barrierCheck s t bar, 0)]
    match steps.find? (fun x => x.1.isSome) with
    | some (some c, a) => .error { cause := c, addr := a }
    | _ =>
      .ok (s.issueCmd f bar f.rs.toNat
        (.hread (segs.flatMap (fun x => burstsOf x.2.1 len x.1)) (t.sReg f.c.toNat) h) false))

/-- HRET (09 R194). -/
def doHret (_ : Fields) (s : State) : Except TrapInfo State :=
  if s.thr.name.hail then .ok s.finishAll.endHail else .error { cause := 0x56 }

def execBcopy (f : Fields) (s : State) : Host.Outcome State Fault Refusal := .next (runLong 0xA8 f s (doBcopy false f))
def execBcopyR (f : Fields) (s : State) : Host.Outcome State Fault Refusal := .next (runLong 0xA9 f s (doBcopy true f))
def execBcopyS (f : Fields) (s : State) : Host.Outcome State Fault Refusal := .next (runLong 0xAA f s (doBcopyS f))
def execBstore (f : Fields) (s : State) : Host.Outcome State Fault Refusal := .next (runLong 0xAB f s (doBstore f))
def execHread (f : Fields) (s : State) : Host.Outcome State Fault Refusal := .next (runLong 0xAC f s (doHread f))
def execHreadV (f : Fields) (s : State) : Host.Outcome State Fault Refusal := .next (runLong 0xAD f s (doHreadV f))
def execHret (f : Fields) (s : State) : Host.Outcome State Fault Refusal := .next (runLong 0xAE f s (doHret f))

end Sys2Proof.Machine
end

