-- ==== Sys2Proof/Machine/Team.lean ====
section
/-! DEFINITION. Launches, graph nodes at work, placement and admission of teams, and their retirement (14
R257-R266, R395; 01 R15, R16, R22; 04 R88; 10 R218; 19 R376, R377). -/

namespace Sys2Proof.Machine

/-! ### Kernels and what they take (14 R263, R264) -/

/-- The energy weight of a class (14 R263). -/
def weight (k : Nat) : Nat := [2, 3, 4, 6, 8, 11, 15, 20].getD k 20

/-- Groups of a team (01 R14). -/
def Kernel.groups (k : Kernel) : Nat := (k.lanes + k.width - 1) / k.width

/-- Energy units of a team (14 R264). -/
def Kernel.cost (k : Kernel) : Nat := k.groups * weight k.energy

/-- Units of shared memory of a team (14 R264). -/
def Kernel.sharedUnits (k : Kernel) : Nat := (k.shared + 1023) / 1024

/-- What a partition holds: the taken group slots, and granules, entries and tile bytes in use. -/
structure PartUse where
  slots : List Nat := []
  v : Nat := 0
  s : Nat := 0
  a : Nat := 0
  tile : Nat := 0
  deriving DecidableEq, Repr

/-- One more group of a kernel in slot `n` of a partition. -/
def PartUse.add (u : PartUse) (k : Kernel) (n : Nat) : PartUse :=
  { slots := n :: u.slots, v := u.v + k.vwin * k.width / 16, s := u.s + k.swin, a := u.a + k.awin
    tile := u.tile + 2048 * k.nt + 4096 * k.nz }

/-- Whether a partition has room for one more group (14 R264). -/
def PartUse.fits (u : PartUse) (k : Kernel) : Bool :=
  let w := u.add k 0
  w.slots.length ≤ 8 && w.v ≤ 2048 && w.s ≤ 512 && w.a ≤ 128 && w.tile ≤ 65536

/-- The lowest-numbered free slot. -/
def PartUse.free (u : PartUse) : Nat := ((List.range 8).find? (fun n => !u.slots.contains n)).getD 8

/-- The partition that a group goes to: with room, holding the fewest groups, lowest number (14 R265). -/
def choosePart (k : Kernel) (us : List PartUse) : Option Nat :=
  (List.range us.length).foldl (fun b p =>
    let u := us.getD p {}
    if !u.fits k then b
    else match b with
      | none => some p
      | some q => if u.slots.length < (us.getD q {}).slots.length then some p else some q) none

/-- Partition and slot of each of `n` groups in turn; `none` when one finds no partition (14 R265). -/
def assignGroups (k : Kernel) (n : Nat) (us : List PartUse) : Option (List (Nat × Nat)) :=
  match n with
  | 0 => some []
  | n + 1 =>
    match choosePart k us with
    | none => none
    | some p =>
      let u := us.getD p {}
      (assignGroups k n (us.set p (u.add k u.free))).map (fun r => (p, u.free) :: r)

/-- Teams of the context that a core serves with resources on it. -/
def residentTeams (s : State) (core : Nat) : List (Nat × Team) :=
  s.teams.filter (fun p => p.2.core == core && some p.2.ctx == (s.core core).serves &&
    (p.2.state == .resident || p.2.state == .swapping))

/-- Groups whose slots a core holds (DEDUCED, log 59). -/
def residentGroups (s : State) (core : Nat) : List Thread :=
  s.threads.filter (fun t => !t.name.hail && t.place.core == core &&
    (residentTeams s core).any (fun p => p.1 == t.name.uid))

/-- What each partition of a core holds. -/
def coreUse (s : State) (core : Nat) : List PartUse :=
  let gs := residentGroups s core
  (List.range 8).map (fun p =>
    (gs.filter (fun t => t.place.part == p)).foldl (fun u t => u.add (s.team t.name.uid).kernel t.place.slot) {})

/-- CHARGED of a core: the cost of every team that is not retired, swapped out or not (14 R266) (DEDUCED, log 59). -/
def charged (s : State) (core : Nat) : Nat :=
  (s.teams.filter (fun p => p.2.core == core && some p.2.ctx == (s.core core).serves &&
    p.2.state != .retired)).foldl (fun n p => n + p.2.cost) 0

/-- Free units of a core's shared memory. -/
def freeUnits (s : State) (core : Nat) : List Nat :=
  let used := (residentTeams s core).flatMap (fun p => p.2.units)
  (List.range 1024).filter (fun u => !used.contains u)

/-- Some `n` units of a list, any of which serve (14 R261; DESIGN CHOICE, log 10). -/
def pickUnits (n seed : Nat) (free : List Nat) : List Nat :=
  match n with
  | 0 => []
  | n + 1 =>
    match free[Config.choice seed % free.length]? with
    | none => []
    | some u => u :: pickUnits n (seed + 1) (free.erase u)

/-- A list of distinct numbers below `n`, ascending. -/
def ascending (n : Nat) (l : List Nat) : List Nat := (List.range n).filter (fun u => l.contains u)

/-- Admission by a core (14 R264): the places of the groups, when resources and, for a new team, energy
suffice. -/
def admits (s : State) (core : Nat) (k : Kernel) (groups : Nat) (fresh : Bool) : Option (List (Nat × Nat)) :=
  if k.sharedUnits ≤ (freeUnits s core).length && (!fresh || charged s core + k.cost ≤ (s.core core).budget) then
    assignGroups k groups (coreUse s core)
  else none

/-! ### What a launch needs (14 R262, 16 R314) -/

/-- A slot covers a patch requirement of a context (16 R314). -/
def covers (s : State) (ctx n : Nat) (need : Nat × Nat × Nat) : Bool :=
  let sl := mget {} s.hub.solder n
  let (fmt, op, minor) := need
  let m := sl.mtch.toNat
  sl.en && !sl.causeKind && sl.act == 2 && sl.minor == minor && sl.ctxMask.getLsbD ctx &&
  (!(s.ctx ctx).conf || (s.ctx ctx).frozen.contains n) &&
  (match fmt with
  | 0 => sl.mask == 0x7E && m / 4 % 32 == op && m / 2 % 2 == 0
  | 1 => sl.mask == 0x3FF && m / 4 % 256 == op && m % 4 == 2
  | 2 => sl.mask == 0x3FF && m / 4 % 256 == op && m % 4 == 3
  | _ => false)

/-- Step 7 of 02 R44 for an image of a context, and its repetition at launch (R45). -/
def needsMet (s : State) (ctx minor : Nat) (needs : List (Nat × Nat × Nat)) : Bool :=
  minor ≤ 1 || needs.all (fun x => x.2.2 ≤ 1 || (List.range 32).any (fun n => covers s ctx n x))

/-- Teams of a kernel that one empty core with a BUDGET of 256 admits, counted up to `fuel`. -/
def emptyCoreTeams (k : Kernel) (us : List PartUse) (n fuel : Nat) : Nat :=
  match fuel with
  | 0 => n
  | fuel + 1 =>
    if (n + 1) * k.cost ≤ 256 && (n + 1) * k.sharedUnits ≤ 1024 then
      match assignGroups k k.groups us with
      | none => n
      | some ps =>
        emptyCoreTeams k (ps.foldl (fun us p => us.set p.1 ((us.getD p.1 {}).add k p.2)) us) (n + 1) fuel
    else n

/-- Whether a span fits some die of a mask when the context's cores there are empty (14 R262). -/
def spanFits (s : State) (ctx dies : Nat) (k : Kernel) : Bool :=
  let per := emptyCoreTeams k (List.replicate 8 {}) 0 64
  (List.range 4).any (fun d => dies.testBit d &&
    k.span ≤ per * ((s.ctx ctx).cores.filter (fun c => dieOf c == d)).length)

/-! ### Starting a group (01 R15, R16, R22) -/

/-- Real lanes of group `g` of a team of `n` lanes at width `w` (01 R15). -/
def realLanes (n w g : Nat) : Word := firstLanes (min w (n - g * w))

/-- Helper lanes: the other lanes of the quads that hold a real lane (01 R15). -/
def helpLanes (n w g : Nat) : Word := firstLanes ((min w (n - g * w) + 3) / 4 * 4) &&& ~~~ realLanes n w g

/-- Windows as wide as the allocations (04 R68). -/
def startWins (v s a : Nat) : Wins :=
  { s := { ws := s, alloc := s }, a := { ws := a, alloc := a }, v := { ws := v, alloc := v } }

/-- The control thread of a group when it starts (01 R22). -/
def newGroup (l : Launch) (id uid index g : Nat) (place : Place) (tick : Nat) : Thread :=
  let k := l.kernel
  let real := realLanes k.lanes k.width g
  let help := helpLanes k.lanes k.width g
  { id := id
    name := { ctx := l.ctx, launch := l.number, team := index, group := g, uid := uid }
    place := place, status := .ready, width := k.width, real := real, help := help, pc := l.entryPc
    m0 := real ||| help
    wins := startWins k.vwin k.swin k.awin
    files := { s := [(0, BitVec.ofNat 64 index), (1, BitVec.ofNat 64 g), (2, BitVec.ofNat 64 l.argAddr)].filter
                      (fun p => p.2 != 0)
               a := [(0, { base := 0, stride := 1 }), (1, { base := BitVec.ofNat 64 (g * k.width), stride := 1 })] }
    tiles := { nt := k.nt, nz := k.nz }
    fpmode := l.fpmode
    sched := { age := tick } }

/-- Start the groups of a team at their places. -/
def State.startGroups (s : State) (l : Launch) (uid index core g : Nat) (ps : List (Nat × Nat)) : State :=
  match ps with
  | [] => s
  | p :: r =>
    let (id, s) := s.fresh
    let t := newGroup l id uid index g { core := core, part := p.1, slot := p.2 } s.tick
    { s with parked := parkIn s.parked t }.startGroups l uid index core (g + 1) r

/-! ### Launches and the distributor (14 R257-R261, R395) -/

/-- The queue of a die for a context: launches with teams left to place, started ones first, then by PRIO,
then by arrival (14 R258). Its head comes first. -/
def queueHead (s : State) (ctx die : Nat) : Option (Nat × Launch) :=
  let ls := s.launches.filter (fun p => p.2.ctx == ctx && !p.2.finished && p.2.dies.testBit die && p.2.next < p.2.teams)
  let before (x y : Launch) : Bool :=
    let sx := x.started.testBit die
    let sy := y.started.testBit die
    if sx != sy then sx else if x.prio != y.prio then x.prio < y.prio else x.arrival < y.arrival
  ls.foldl (fun b p => match b with
    | none => some p
    | some q => if before p.2 q.2 then some p else some q) none

/-- Whether a core takes new teams of a context: it serves it, and no woken team waits there (14 R275). -/
def takesNew (s : State) (ctx core : Nat) : Bool :=
  (s.core core).serves == some ctx && (s.core core).switching.isNone && !(s.ctx ctx).stopping &&
  !s.teams.any (fun p => p.2.core == core && p.2.ctx == ctx && p.2.state == .woken)

/-- Place the next team of a launch on the lowest-numbered core of a die that admits it (14 R260, R261). -/
def State.placeOne (s : State) (key die : Nat) : Option State :=
  let l := s.launch key
  let cores := (List.range 40).map (fun c => 40 * die + c)
  match cores.find? (fun c => takesNew s l.ctx c && (admits s c l.kernel l.kernel.groups true).isSome) with
  | none => none
  | some core =>
    match admits s core l.kernel l.kernel.groups true with
    | none => none
    | some ps =>
      let (uid, s) := s.fresh
      let units := ascending 1024 (pickUnits l.kernel.sharedUnits (uid * 2048) (freeUnits s core))
      let tm : Team := { uid := uid, ctx := l.ctx, launch := key, index := l.next, core := core, kernel := l.kernel
                         cost := l.kernel.cost, live := l.kernel.groups, units := units, binds := l.binds
                         argAddr := l.argAddr }
      let tags := units.foldl (fun m u => mset 0 m ((l.ctx * 160 + core) * 1024 + u) 0) s.swz
      let s := { s with swz := tags }.setTeam uid tm
      let s := s.setLaunch key { l with next := l.next + 1, started := l.started ||| 2 ^ die }
      some (s.startGroups l uid l.next core 0 ps)

/-- Place `n` teams of one launch, all or none. -/
def State.placeTeams (s : State) (key die n : Nat) : Option State :=
  match n with
  | 0 => some s
  | n + 1 => (s.placeOne key die).bind (fun s => s.placeTeams key die n)

/-- The unit that a die's distributor places next: the context whose turn it is, the launch, and the state
after placing its next team or span (14 R395). -/
def nextUnit (s : State) (die : Nat) : Option (Nat × Nat × State) :=
  let last := mget 63 s.lastPlaced die
  ((List.range 64).map (fun i => (last + 1 + i) % 64)).findSome? (fun ctx =>
    match queueHead s ctx die with
    | none => none
    | some (key, l) => (s.placeTeams key die (max 1 l.kernel.span)).map (fun s' => (ctx, key, s')))

/-- One placement of a die's distributor, when the unit whose turn it is is a span (`span`) or a team. -/
def State.distribute (s : State) (die : Nat) (span : Bool) : State :=
  match nextUnit s die with
  | none => s
  | some (ctx, key, s') =>
    if span == ((s.launch key).kernel.span ≥ 2) then { s' with lastPlaced := mset 63 s'.lastPlaced die ctx } else s

/-! ### Argument blocks and completions (19 R373, R376, R377) -/

/-- Scratchpad units of a die that hold bytes of a block of `n` bytes at aperture address `p`. -/
def blockUnits (die p n : Nat) : List Nat :=
  if n = 0 then [] else
    let o := p - 0x10000000
    (List.range ((o + n - 1) / 65536 - o / 65536 + 1)).map (fun i => scratchUnit die ((o / 65536 + i) * 65536))

/-- Units that the argument block of a launch makes read-only. -/
def Launch.argUnits (l : Launch) : List Nat :=
  ((List.range 4).filter (fun d => l.dies.testBit d)).flatMap (fun d => blockUnits d l.argAddr l.kernel.args)

/-- Set or clear RO of some units (16 R293). -/
def State.setRo (s : State) (units : List Nat) (ro : Bool) : State :=
  { s with owners := units.foldl (fun m u => mset {} m u { mget {} m u with ro := ro }) s.owners }

/-- Whether two byte ranges meet. -/
def rangesMeet (a n b m : Nat) : Bool := n != 0 && m != 0 && a < b + m && b < a + n

/-- Whether a block would overlap that of an unfinished launch of the context (19 R377). -/
def blockTaken (s : State) (ctx dies p n : Nat) : Bool :=
  s.launches.any (fun x => x.2.ctx == ctx && !x.2.finished && x.2.dies &&& dies != 0 &&
    rangesMeet p n x.2.argAddr x.2.kernel.args)

/-- Whether a block lies in units that the context owns on a die (19 R377, 10 R216) (DEDUCED, log 48). -/
def blockOwned (s : State) (ctx die p n : Nat) : Bool :=
  0x10000000 ≤ p && p + n ≤ 0x24000000 &&
  (let o := p - 0x10000000
   n == 0 || (List.range ((o + n - 1) / 65536 - o / 65536 + 1)).all (fun i =>
     (scratchOwner s die ((o / 65536 + i) * 65536)).who == ownerCtx ctx))

/-- The completion ring is full when one more entry would make it look empty (19 R372; DEDUCED, log 22). -/
def cplFull (h : Hub) : Bool := (h.cplTail + 1) % 256 == h.cplHead

/-- Write a completion (19 R373). -/
def State.putCpl (s : State) (tag : BitVec 32) (status reason : Nat) (r0 r1 : Word) : State :=
  let c : BitVec 256 := s.hub.gts ++ r1 ++ r0 ++ (0 : BitVec 16) ++ BitVec.ofNat 8 reason ++ BitVec.ofNat 8 status ++ tag
  s.modHub (fun h => { h with cpl := mset 0 h.cpl h.cplTail c, cplTail := (h.cplTail + 1) % 256 })

/-- Entries that the completion ring has room for (19 R372). -/
def cplFree (h : Hub) : Nat := (h.cplHead + 255 - h.cplTail) % 256

/-- Write the finish completions that launches still owe, while the ring has room for them and for `keep` more (19 R372, R376). -/
def State.flushOwed (s : State) (keep : Nat) : State :=
  s.launches.foldl (fun s p =>
    if p.2.owed && keep < cplFree s.hub then
      (s.putCpl p.2.tag 2 p.2.reason (BitVec.ofNat 64 p.2.number) 0).setLaunch p.1 { p.2 with owed := false }
    else s) s

/-- A launch is finished: its units are writable again unless another unfinished launch holds them, and
its finish completion is owed (19 R376, R377) (DEDUCED, log 42). -/
def State.finishLaunch (s : State) (key : Nat) : State :=
  let l := s.launch key
  if l.finished then s
  else
    let s := s.setLaunch key { l with finished := true, owed := l.notify }
    let held := (s.launches.filter (fun p => p.2.ctx == l.ctx && !p.2.finished)).flatMap (fun p => p.2.argUnits)
    s.setRo (l.argUnits.filter (fun u => !held.contains u)) false

/-- Enter a launch: it takes its number and its place in the queues, and its block becomes read-only (14
R257, 19 R377). The launch's number, and the state. -/
def State.addLaunch (s : State) (l : Launch) : Nat × State :=
  let (key, s) := s.fresh
  let n := freshNumber key (2 ^ 32) ((s.launches.filter (fun p => p.2.ctx == l.ctx)).map (fun p => p.2.number))
  (n, (s.setLaunch key { l with number := n, arrival := key }).setRo l.argUnits true)

/-! ### Graph nodes at work (10 R215-R218) -/

/-- A node's key, and its reference. -/
def nodeKey (die slot : Nat) : Nat := die * 4096 + slot
def nodeRef (key gen : Nat) : Word := BitVec.ofNat 64 (gen * 2 ^ 32 + key / 4096 * 4096 + key % 4096)

/-- The generation after one; 0 is never taken. -/
def nextGen (g : Nat) : Nat := if (g + 1) % 2 ^ 32 = 0 then 1 else (g + 1) % 2 ^ 32

/-- A field of a node's descriptor (10 R216). -/
def Node.field (x : Node) (off n : Nat) : Nat := ofBytes ((x.desc.drop off).take n)

/-- The kernel of a loaded image whose ENTRY is an address (10 R216). -/
def kernelAt (c : Ctx) (a : Nat) : Option (Image × Kernel) :=
  c.images.findSome? (fun im =>
    (im.kernels.find? (fun k => k.kind == 0 && im.base + k.entry == a)).map (fun k => (im, k)))

/-- Free a node's slot (10 R218). -/
def State.freeNode (s : State) (key : Nat) : State := s.setNode key { gen := nextGen (s.node key).gen }

/-- A node finishes: its successors have one predecessor fewer and the slot is freed. Also the
successors that now start (10 R218). -/
def State.finishNode (s : State) (key : Nat) : State × List Nat :=
  let succ := (s.node key).succ
  let s := succ.foldl (fun s k => let x := s.node k; s.setNode k { x with cnt := x.cnt - 1 }) s
  let s := s.freeNode key
  (s, succ.eraseDups.filter (fun k => let x := s.node k; x.kind.isSome && x.armed && !x.started && x.cnt == 0))

/-- An arrival that releases its hold, on a barrier of a core that may serve another context (10 R211, 09
R197): the pool saved for the context holds it then. -/
def State.arriveFor (s : State) (ctx core : Nat) (r : Word) : State :=
  if (s.core core).serves == some ctx then s.complete core r
  else if r == 0 then s
  else
    let k := core * 256 + refIndex r
    let b := mget {} (s.ctx ctx).savedBars k
    let b := (if b.pend > 0 then b.arrive 1 else b).release
    (s.modCtx ctx (fun c => { c with savedBars := mset {} c.savedBars k b })).txWakeWith core (refIndex r) b

/-- Whether the accesses that a thread made before one of its commands are performed: its stores (09 R181), and the loads and
atomics that the command is ordered after (09 R164, R173, 11 R232). -/
def earlierDone (s : State) (tid ord : Nat) : Bool :=
  match s.thread? tid with
  | some t => t.queue.all (fun e => ord ≤ e.ord) && t.pending.all (fun p => !p.loads || ord ≤ p.ord)
  | none => true

/-- The work of a started event or launch node: an event finishes at once, and the successors it frees are given (10 R218). A
launch that R262 or R45 of 02 refuses places nothing, and its node never finishes (DEDUCED, log 24). -/
def State.workNode (s : State) (key : Nat) : State × List Nat :=
  let x := s.node key
  match x.kind with
  | some 0 => ((s.arriveFor x.ctx x.cmd.core x.cmd.bar).endWaits).finishNode key
  | some 2 =>
    let c := s.ctx x.ctx
    (match kernelAt c (x.field 8 8) with
    | none => (s, [])
    | some (im, k) =>
      let l : Launch := { ctx := x.ctx, image := im.number, kernel := k, entryPc := BitVec.ofNat 55 (x.field 8 8)
                          teams := x.field 4 4, prio := 2, dies := 2 ^ (key / 4096)
                          fpmode := BitVec.ofNat 7 (x.field 0x22 1), argAddr := x.field 0x10 8, binds := x.binds
                          node := some key }
      if l.teams % max 1 k.span != 0 || !spanFits s x.ctx l.dies k || !needsMet s x.ctx im.minor im.needs then
        (s.setNode key { x with started := true, failed := true }, [])
      else ((s.addLaunch l).2, []))
  | _ => (s, [])

/-- Start a node: a copy, or one whose thread's earlier stores are not performed yet, becomes a command that the engine starts (10
R216, R218, 09 R181); another does its work at once. -/
def State.startNode (s : State) (key : Nat) : State × List Nat :=
  let x := s.node key
  let s := s.setNode key { x with started := true }
  if x.kind == some 1 || !earlierDone s x.cmd.tid x.cmd.ord then
    let (id, s) := s.fresh
    let copy := x.kind == some 1
    (s.setCmd id { x.cmd with id := id, node := some key, fabric := copy
                              engine := if copy then fabricEngine s x.ctx (key / 4096) id else 0 }, [])
  else s.workNode key

/-- Start some nodes and, in turn, those that their finishes release; each starts at most once. -/
def State.runNodes (s : State) (fuel : Nat) (work : List Nat) : State :=
  match fuel, work with
  | _, [] => s
  | 0, _ => s
  | fuel + 1, k :: r =>
    let (s, more) := s.startNode k
    s.runNodes fuel (r ++ more)

/-- Nodes of the device. -/
def nodeCount : Nat := 16384

/-- A started event or launch node does its work, and released successors start (10 R216, R218). -/
def State.runNode (s : State) (key : Nat) : State :=
  let (s, more) := s.workNode key
  s.runNodes nodeCount more

/-- A node's work has ended: it finishes, and released successors start (10 R218). -/
def State.endNode (s : State) (key : Nat) : State :=
  let (s, more) := s.finishNode key
  s.runNodes nodeCount more

/-! ### Retirement (04 R88, 10 R211, R221, 14 R266) -/

/-- Free the barriers a team still holds, as TXFREE would (10 R211). -/
def State.freeBars (s : State) (uid core : Nat) : State :=
  (List.range 256).foldl (fun s i =>
    let b := s.bar core i
    if b.owner == uid && b.held && b.refs != 0 then
      (s.setBar core i { b.release with held := false }).txWake core i
    else s) s

/-- The last group of a team has gone (04 R88): its resources, barriers and tickets return; the last team
finishes the launch, and with it a graph node (10 R218). Its entry keeps the unit numbers, by which copies still running
find what they write (DEDUCED, log 55). -/
def State.retireTeam (s : State) (uid : Nat) : State :=
  let tm := s.team uid
  let s := (s.freeBars uid tm.core).setTeam uid { tm with state := .retired, live := 0, tickets := [], frames := [] }
  let s := s.modCtx tm.ctx (fun c => { c with swapFrames := c.swapFrames ++ tm.frames })
  let s := { s with
    colls := s.colls.map (fun (p : Nat × Coll) =>
      (p.1, if p.2.ctx == tm.ctx && tm.tickets.contains p.2.ticket && p.2.ticket != 0 then { p.2 with ticket := 0 }
            else p.2))
    teamBars := mclear s.teamBars (teamBarKey uid 0) 16 }
  let l := s.launch tm.launch
  let s := s.setLaunch tm.launch { l with done := l.done + 1 }
  if l.done + 1 == l.teams then
    let s := s.finishLaunch tm.launch
    match l.node with
    | some key => s.endNode key
    | none => s
  else s

/-- A retiring group's store queue has drained: its slot is freed, barrier phases are looked at again, and
the team may retire (04 R88, 10 R207). -/
def State.freeSlot (s : State) (tid : Nat) : State :=
  match s.thread? tid with
  | none => s
  | some t =>
    if t.status != .retiring || !t.queue.isEmpty then s
    else
      let s := (s.focus tid).dropThr
      let tm := s.team t.name.uid
      let s := (s.setTeam t.name.uid { tm with live := tm.live - 1 }).barPhases t.name.uid
      if tm.live ≤ 1 then s.retireTeam t.name.uid else s

end Sys2Proof.Machine
end

