-- ==== Sys2Proof/Machine/Graph.lean ====
section
/-! DEFINITION. The graph instructions GNODE, GEDGE and GARM (10 R215-R217), and the checks of a node's
descriptor, which the host's graph submission shares (19 R375). -/

namespace Sys2Proof.Machine

/-- Bytes that an instruction reads in its issue slot, where LD may reach, as words of 8 bytes (or `unit`
bytes) each checked as R178 of 09 states; older loads are performed first (09 R172). -/
def slotRead (s : State) (p : Word) (unit count : Nat) : Except TrapInfo (List Byte) :=
  let t := s.thr
  let ps := (List.range count).map (fun i =>
    let x := access s t .watch (.ptr p) (BitVec.ofNat 64 (unit * i)) unit unit
    ({ lane := none, g := x.1, res := x.2 } : Probe))
  (judge s t .watch unit ps).map (fun accs =>
    accs.flatMap (fun a => match a.key with
      | some k => (List.range unit).map (fun i => loadByte s s.thr s.thr.memOrd (k + i))
      | none => []))

/-- A little-endian field of some bytes. -/
def fieldOf (bs : List Byte) (off n : Nat) : Nat := ofBytes ((bs.drop off).take n)

/-- The eight layout words of a copy node (10 R216). -/
def nodeLayout (bs : List Byte) : List Word := (List.range 8).map (fun i => BitVec.ofNat 64 (fieldOf bs (64 + 8 * i) 8))

/-- Reserved values and Reserved fields of a node descriptor (10 R216) (DEDUCED, log 56). -/
def nodeShape (bs : List Byte) : Bool :=
  let f := fieldOf bs
  let kind := f 0 1
  kind ≤ 2 && f 2 2 == 0 && f 0x24 4 == 0 && f 0x30 16 == 0 && (kind != 1 || f 1 1 ≤ 5) &&
  (kind != 2 || f 4 4 != 0) && (kind == 2 || (f 0x20 2 == 0 && f 0x22 1 == 0 && f 0x23 1 == 0)) &&
  (f 0x23 1 != 0 || f 0x28 8 == 0)

/-- The checks of a copy node: a valid layout, and spans that a copy may reach (10 R216, 09 R183, R185, R186).
`t` is the issuing thread; a node the host submits has none and reaches no shared memory. A swizzle tag that does not fit, or
SWZ with no endpoint in shared memory, makes spans that no copy may reach (DEDUCED, log 56). -/
def nodeCopyOk (s : State) (t : Thread) (host : Bool) (bs : List Byte) : Bool :=
  let dst := BitVec.ofNat 64 (fieldOf bs 8 8)
  let src := BitVec.ofNat 64 (fieldOf bs 16 8)
  let w := nodeLayout bs
  let d := copySpan w (layDS w) dst
  let r := copySpan w (laySS w) src
  let shared (p : Word) : Bool := match locate (addrOf p) with | .shared _ => true | _ => false
  layoutValid w dst src &&
  [d, r].all (fun x => x.layoutOk && x.aperture.isNone && !(host && shared x.p) && (x.owned s t).isNone) &&
  (laySwz w == 0 || shared dst || shared src) &&
  !copyTags s (s.team t.name.uid) w (layDS w) dst true && !copyTags s (s.team t.name.uid) w (laySS w) src false

/-- The checks of a launch node on a die, its bindings given (10 R216). -/
def nodeLaunchOk (s : State) (ctx die : Nat) (bs : List Byte) (binds : List Nat) : Bool :=
  let f := fieldOf bs
  match kernelAt (s.ctx ctx) (f 8 8) with
  | none => false
  | some (_, k) =>
    f 0x20 2 == k.args && f 0x23 1 == k.handles && f 0x22 1 < 128 && f 0x10 8 % 64 == 0 &&
    (f 0x20 2 == 0 || blockOwned s ctx die (f 0x10 8) (f 0x20 2)) &&
    !blockTaken s ctx (2 ^ die) (f 0x10 8) (f 0x20 2) &&
    binds.all (fun e => e < 4096 && (handleWord s ctx e 3).getLsbD 0)

/-- Two-byte table indices (10 R216, 19 R375). -/
def indexList (bs : List Byte) : List Nat := (List.range (bs.length / 2)).map (fun i => fieldOf bs (2 * i) 2)

/-- The lowest-numbered slot of a die's graph unit that is free to a context: in strict-partition mode one of those that the
host gave the context (10 R216, 16 R291) (DESIGN CHOICE, log 66). -/
def freeNodeSlot (s : State) (ctx die : Nat) : Option Nat :=
  (List.range 4096).find? (fun n => (s.node (nodeKey die n)).kind.isNone && (!s.hub.mode || Config.nodeOwner die n == ctx))

/-- Fill a node slot, with the next GEN (10 R216). -/
def State.fillNode (s : State) (key : Nat) (bs : List Byte) (binds : List Nat) (cmd : Cmd) : State :=
  s.setNode key { gen := nextGen (s.node key).gen, kind := some (fieldOf bs 0 1), ctx := cmd.ctx
                  desc := bs, binds := binds, cmd := cmd }

/-- The work of a copy node; other kinds hold none. -/
def nodeWork (bs : List Byte) : Work :=
  .copy (BitVec.ofNat 64 (fieldOf bs 8 8)) (BitVec.ofNat 64 (fieldOf bs 16 8)) (nodeLayout bs) none

/-- GNODE (10 R216). -/
def doGnode (f : Fields) (s : State) : Except TrapInfo State :=
  notInHail s (fun s =>
    let s := s.finishAll
    let t := s.thr
    (slotRead s (t.sReg f.a.toNat) 8 16).bind (fun bs =>
      let g := fieldOf bs
      let nb := if nodeShape bs && g 0 1 == 2 then g 0x23 1 else 0
      let bad : Except TrapInfo State := .error { cause := 0x5C }
      (slotRead s (BitVec.ofNat 64 (g 0x28 8)) 2 nb).bind (fun lb =>
        let binds := indexList lb
        let die := dieOf t.place.core
        let bar : Word := if g 0 1 == 0 then BitVec.ofNat 64 (g 0x18 8) else 0
        if !nodeShape bs then bad
        else if g 0 1 == 1 && !nodeCopyOk s t false bs then bad
        else if g 0 1 == 2 && !nodeLaunchOk s t.name.ctx die bs binds then bad
        else match barrierCheck s t bar with
        | some c => .error { cause := if c == 0x59 then 0x5C else c }
        | none =>
          match freeNodeSlot s t.name.ctx die with
          | none => .ok (((s.putS f.d.toNat 0).putC f.c.toNat false).past f)
          | some n =>
            let key := nodeKey die n
            let cmd : Cmd := { ctx := t.name.ctx, uid := t.name.uid, tid := t.id, core := t.place.core
                               launch := t.name.launch, team := t.name.team, group := t.name.group, pc := t.pc
                               seq := t.seq, bar := bar, scope := g 1 1, work := nodeWork bs, ord := t.memOrd }
            let s := if bar == 0 then s else
              let b := s.bar t.place.core (refIndex bar)
              s.setBar t.place.core (refIndex bar) { b with pend := b.pend + 1, refs := b.refs + 1 }
            let s := s.fillNode key bs binds cmd
            let s := s.modThr (fun t => { t with seq := t.seq + 1, memOrd := t.memOrd + 1 })
            .ok (((s.putS f.d.toNat (nodeRef key (s.node key).gen)).putC f.c.toNat true).past f))))

/-- The slot that a node reference names; `none` when the die does not exist (10 R215). -/
def refNode (r : Word) : Option Nat :=
  let die := (r.extractLsb' 12 3).toNat
  if die > 3 then none else some (nodeKey die (r.extractLsb' 0 12).toNat)

/-- Whether the Reserved bits of a node reference are zero, which GEDGE asks for (10 R217) and GARM does not (00 R3). -/
def refClean (r : Word) : Bool := r.extractLsb' 15 17 == 0

/-- Whether a reference's GEN is that of its slot, which holds a node of the context. -/
def nodeLive (s : State) (ctx key : Nat) (r : Word) : Bool :=
  let x := s.node key
  x.kind.isSome && x.gen == (r.extractLsb' 32 32).toNat && x.ctx == ctx

/-- GEDGE (10 R217). A predecessor's reference that names no node of the context, be its slot free or another context's, is
that of a finished node (DEDUCED, log 56). -/
def doGedge (f : Fields) (s : State) : Except TrapInfo State :=
  notInHail s (fun s =>
    let t := s.thr
    let ra := t.sReg f.a.toNat
    let rb := t.sReg f.b.toNat
    let bad : Except TrapInfo State := .error { cause := 0x5C }
    match refNode ra, refNode rb with
    | some a, some b =>
      if !refClean ra || !refClean rb || !nodeLive s t.name.ctx b rb || a / 4096 != b / 4096 || (s.node b).armed || ra == rb then bad
      else if !nodeLive s t.name.ctx a ra then .ok ((s.putC f.c.toNat true).past f)
      else if (s.node a).succ.length ≥ 16 then .ok ((s.putC f.c.toNat false).past f)
      else
        let xa := s.node a
        let s := s.setNode a { xa with succ := xa.succ ++ [b] }
        let xb := s.node b
        .ok (((s.setNode b { xb with cnt := xb.cnt + 1 }).putC f.c.toNat true).past f)
    | _, _ => bad)

/-- Arm a node; it starts when it has no unfinished predecessor (10 R217). -/
def State.armNode (s : State) (key : Nat) : State :=
  let x := s.node key
  let s := s.setNode key { x with armed := true }
  if x.cnt == 0 then s.runNodes nodeCount [key] else s

/-- GARM (10 R217). -/
def doGarm (f : Fields) (s : State) : Except TrapInfo State :=
  notInHail s (fun s =>
    let r := s.thr.sReg f.a.toNat
    match refNode r with
    | some k =>
      if !nodeLive s s.thr.name.ctx k r || (s.node k).armed then .error { cause := 0x5C }
      else .ok ((s.armNode k).past f)
    | none => .error { cause := 0x5C })

def execGnode (f : Fields) (s : State) : Host.Outcome State Fault Refusal := .next (runLong 0xD0 f s (doGnode f))
def execGedge (f : Fields) (s : State) : Host.Outcome State Fault Refusal := .next (runLong 0xD1 f s (doGedge f))
def execGarm (f : Fields) (s : State) : Host.Outcome State Fault Refusal := .next (runLong 0xD2 f s (doGarm f))

end Sys2Proof.Machine
end

