-- ==== Sys2Proof/Machine/Service.lean ====
section
/-! DEFINITION. What the engines and Zephyr share: zeroing at a change of owner (16 R292), the service of
first-touch pages (17 R339-R342), commands that end with a fault (09 R189, 17 R343, R348), the egress fence (16
R303), and the accesses of engines to whole spans (09 R185; 16 R298, R300). -/

namespace Sys2Proof.Machine

/-! ### Owners and zeroing (16 R292) -/

/-- The memory keys and tag keys of an owner unit, which is a frame of main memory or a scratchpad unit. -/
def unitBase (u : Nat) : Nat := u * 65536

/-- Write zero to every byte and tag of a frame or unit, and give it an owner (16 R292). -/
def State.assignUnit (s : State) (u : Nat) (o : Owner) : State :=
  { s with mem := mclear s.mem (unitBase u) 65536, tags := mclear s.tags (unitBase u / 32) 2048
           poisonMem := s.poisonMem.filter (fun k => k / 2048 != u), owners := mset {} s.owners u o }

/-- Give some frames or units an owner, each zeroed first. -/
def State.assignUnits (s : State) (us : List Nat) (who : Nat) : State :=
  us.foldl (fun s u => s.assignUnit u { who := who }) s

/-! ### First-touch pages (17 R337, R339-R341) -/

/-- The lowest of some numbers. -/
def lowestOf (l : List Nat) : Option Nat :=
  match l with
  | [] => none
  | x :: r => some (r.foldl min x)

/-- MAPPG on a page of a context (17 R337): cause 0x39, or whether the page is mapped now. Commands suspended on
the page resume (R341). -/
def State.mapPage (s : State) (ctx va : Nat) : Except Nat (Bool × State) :=
  let c := s.ctx ctx
  let k := leafIndex va
  let e := mget 0 c.leaf k
  let resume (s : State) : State := { s with cmds := s.cmds.map (fun (p : Nat × Cmd) =>
    (p.1, if p.2.ctx == ctx && p.2.suspended == some k then { p.2 with suspended := none } else p.2)) }
  if e.getLsbD 0 then .ok (true, resume s)
  else if !e.getLsbD 5 then .error 0x39
  else match lowestOf c.poolFrames with
    | none => .ok (false, s)
    | some f =>
      let e' : Word := (e &&& 0x1E) ||| (BitVec.ofNat 64 f <<< 16) ||| 1
      let s := s.assignUnit (frameUnit f) { who := ownerCtx ctx }
      let s := s.modCtx ctx (fun c => { c with poolFrames := c.poolFrames.erase f, leaf := mset 0 c.leaf k e'
                                               counters := { c.counters with ft := c.counters.ft + 1 } })
      .ok (true, resume s)

/-- Whether a group can take a supervisor entry for an engine's first-touch fault (17 R342). A group that the debugger has
halted cannot: it issues nothing, and the fault is served on the hub (DEDUCED, log 36). -/
def takesService (s : State) (tid : Nat) : Bool :=
  match s.thread? tid with
  | none => false
  | some t =>
    t.status != .retiring && t.status != .halted && (s.team t.name.uid).state == .resident &&
    !t.holds .supervisor &&
    (match t.status with | .waiting (.bar _ _) | .waiting (.sbar _ _) => false | _ => true) &&
    { t with wins := t.wins.handler, stack := t.trapEntry .supervisor t.pc 0 :: t.stack }.spillFits

/-! ### Sectors -/

/-- One byte that a command moves: its destination, and its source or the captured byte. -/
structure Move where
  dst : Word
  src : Option Word
  val : Byte := 0
  /-- the captured byte is poisoned (17 R345) -/
  bad : Bool := false
  deriving DecidableEq, Repr

/-- Every byte a command moves (09 R182, R188). -/
def Cmd.moves (c : Cmd) : List Move :=
  match c.work with
  | .copy dst src w _ =>
    (List.range (layCount w)).flatMap (fun k => (List.range (layEb w)).map (fun (i : Nat) =>
      { dst := dst + BitVec.ofInt 64 (elemOff w (layDS w) k + (i : Int))
        src := some (src + BitVec.ofInt 64 (elemOff w (laySS w) k + (i : Int))) }))
  | .bstore dst bytes bad => bytes.map (fun b =>
      { dst := dst + BitVec.ofNat 64 b.1, src := none, val := b.2, bad := bad.contains b.1 })
  | .hread _ _ _ => []

/-- The bytes of each destination sector, in ascending order of logical address (09 R185). -/
def Cmd.sectors (c : Cmd) : SMap (List Move) :=
  c.moves.foldl (fun m x => let k := addrOf x.dst / 32; mins (mdel m k) k (mget [] m k ++ [x])) []

/-- The lowest destination address of a command. -/
def Cmd.lowestDst (c : Cmd) : Nat :=
  match c.work with
  | .copy dst _ w _ => (copySpan w (layDS w) dst).lo.toNat
  | _ => (c.moves.map (fun m => addrOf m.dst)).foldl min (2 ^ 55)

/-- The pointer a command's addresses are formed from. -/
def Cmd.pointer (c : Cmd) : Word :=
  match c.work with
  | .copy dst _ _ _ => dst
  | .bstore dst _ _ => dst
  | .hread bs _ _ => (bs.head?.map (·.1)).getD 0

/-- TADDR of a command's fault (17 R329): the sector watermark (09 R185) with the pointer's tag, or the first byte of the
burst at the watermark (DEDUCED, log 41). -/
def Cmd.watermark (c : Cmd) : Word :=
  match c.work with
  | .hread bs _ _ => (bs[c.mark]?.map (·.1)).getD 0
  | _ =>
    let a := if c.mark = 0 then c.lowestDst else ((c.sectors[c.mark - 1]?.map (·.1)).getD 0 + 1) * 32
    (BitVec.ofNat 55 a).setWidth 64 ||| (tagOf c.pointer).setWidth 64 <<< 60

/-! ### Commands that end with a fault (09 R189, 17 R343, R347, R348) -/

/-- The source number of the engine that serves a command (01 R26). -/
def Cmd.source (c : Cmd) : BitVec 16 :=
  if c.fabric then
    let die := match c.node with | some k => k / 4096 | none => dieOf c.core
    BitVec.ofNat 16 (die * 2 ^ 13 + (40 + c.engine) * 2 ^ 7 + 13)
  else sourceNo c.core 0 12

/-- The 0x50 of a command (17 R329, R332) (DEDUCED, log 41). -/
def Cmd.fault50 (c : Cmd) (under : Nat) (addr : Word) : TrapInfo :=
  { cause := 0x50, under := under, async := true, addr := addr, site := c.pc, seq := c.seq, src := c.source }

/-- A command ends with a fault: no further access, no arrival, its hold released, its record written, and
a graph node that it works for never finishes (10 R218, 17 R343, R348). -/
def State.stopCmd (s : State) (c : Cmd) (under : Nat) (addr : Word) : State :=
  let nm : Name := { ctx := c.ctx, launch := c.launch, team := c.team, group := c.group }
  let s := s.ringPut c.ctx (faultRecord s (c.fault50 under addr) 2 nm c.source 0 c.pc 0)
  let s := if c.spoiled then s
    else if (s.core c.core).serves == some c.ctx then s.abandonBar c.core c.bar
    else s.modCtx c.ctx (fun x =>
      let k := c.core * 256 + refIndex c.bar
      if c.bar == 0 then x else { x with savedBars := mset {} x.savedBars k (mget {} x.savedBars k).release })
  let s := s.modCmd c.id (fun c => { c with failed := true, suspended := none })
  match c.node with
  | some k => s.setNode k { s.node k with failed := true }
  | none => s

/-- As `stopCmd`, and the cause becomes due to the issuing group while it lives (09 R189). -/
def State.failCmd (s : State) (id under : Nat) (addr : Word) : State :=
  let c := s.cmd id
  if !s.hasCmd id || c.failed then s
  else (s.stopCmd c under addr).holdCause c.tid (c.fault50 under addr)

/-! ### The egress fence (16 R303) -/

/-- A window register: CTRL 0, CTXMASK 1, BASE 2, LIMIT 3 of a window of a port. -/
def fenceKey (port win reg : Nat) : Nat := (port * 16 + win) * 4 + reg
def fenceReg (h : Hub) (port win reg : Nat) : Word := mget 0 h.fence (fenceKey port win reg)

/-- Whether a transaction on the bytes `lo` to `lo + n - 1` passes a window of its port: `ctx` is none for Zephyr's own
traffic. One window holds every byte. -/
def fencePasses (h : Hub) (port : Nat) (ctx : Option Nat) (dev lo n : Nat) : Bool :=
  (List.range 16).any (fun w =>
    let c := fenceReg h port w 0
    c.getLsbD 31 &&
    (match ctx with | some k => (fenceReg h port w 1).getLsbD k | none => c.getLsbD 29) &&
    (c.extractLsb' 0 12).toNat ≤ dev && dev ≤ (c.extractLsb' 12 12).toNat &&
    (fenceReg h port w 2).toNat ≤ lo && lo + n ≤ (fenceReg h port w 3).toNat + 1)

/-- The port that a transaction to a device leaves by: one that is up and whose peer it is, else a failed one, else one that no
rule names (19 R380; DESIGN CHOICE, log 15). -/
def portTo (h : Hub) (dev : Nat) : Nat :=
  let leads (st p : Nat) : Bool := (mget {} h.ports p).state == st && (mget {} h.ports p).peer.toNat == dev
  (((List.range 12).find? (leads 2)).or ((List.range 12).find? (leads 3))).getD (Config.choice dev % 12)

/-- Whether the port to a device has failed (19 R380). -/
def linkFailed (h : Hub) (dev : Nat) : Bool := (mget {} h.ports (portTo h dev)).state == 3

/-- A refused transaction advances the port's counter (16 R303). -/
def State.countRefusal (s : State) (port : Nat) : State :=
  s.modHub (fun h => { h with refusals := mset 0 h.refusals port (mget 0 h.refusals port + 1) })

/-- The device and address a remote pointer names (19 R380). -/
def remoteDev (a : Nat) : Nat := a / 2 ^ 42 % 4096
def remoteAddr (a : Nat) : Nat := a % 2 ^ 42

/-- Flits pass a port; how many, no rule states (19 R380; DESIGN CHOICE, log 15). -/
def State.noteFlits (s : State) (port : Nat) : State :=
  s.modHub (fun h =>
    let p := mget {} h.ports port
    let p' : Port := { p with received := p.received + BitVec.ofNat 64 (Config.choice s.tick)
                              sent := p.sent + BitVec.ofNat 64 (Config.choice (s.tick + 1)) }
    { h with ports := mset {} h.ports port p' })

/-- Whether an access of a context to a remote address can be sent: the fence admits it, and its link has not failed (16 R303, 19
R380). -/
def egressOk (s : State) (ctx a n : Nat) : Bool :=
  !linkFailed s.hub (remoteDev a) &&
  fencePasses s.hub (portTo s.hub (remoteDev a)) (some ctx) (remoteDev a) (remoteAddr a) n

/-- The lowest of the remote addresses in a sector whose transaction cannot be sent: one window must hold every byte that it
targets (16 R303). -/
def sectorRefused (s : State) (ctx : Nat) (as : List Nat) : Option Nat :=
  let far := as.filter (fun a => 2 ^ 54 ≤ a && a < 2 ^ 55)
  ((far.map (· / 32)).eraseDups.filterMap (fun sec =>
    let mine := far.filter (fun a => a / 32 == sec)
    let lo := mine.foldl min (mine.headD 0)
    if egressOk s ctx lo (mine.foldl max 0 + 1 - lo) then none else some lo)).head?

/-- A transaction that was not sent for the fence advances its port's counter; a failed link counts nothing (16 R303). -/
def State.noteRefusal (s : State) (dev : Nat) : State :=
  if linkFailed s.hub dev then s else s.countRefusal (portTo s.hub dev)

/-! ### Accesses of engines to byte addresses (09 R185, 16 R298) -/

/-- One byte that an engine reads: its value and whether its sector is poisoned, or the cause. That a remote sector can be sent
for, `sectorRefused` says. -/
def engineByte (s : State) (c : Cmd) (swz : Nat) (p : Word) (seed : Nat) : Except Nat (Byte × Bool) :=
  if isRemote (addrOf p) then
    .ok (Config.remoteByte seed (addrOf p), false)
  else (engineReach s c.ctx c.core c.uid false swz p 1).map (fun k => (rdByte s.mem k, s.poisonMem.contains (k / 32)))

/-- The key of a byte that an engine writes; `none` when it lies on another device. -/
def engineKey (s : State) (c : Cmd) (swz : Nat) (p : Word) : Except Nat (Option Nat) :=
  if isRemote (addrOf p) then .ok none
  else (engineReach s c.ctx c.core c.uid true swz p 1).map some

/-- Do something for each item, stopping at the first cause, which is given with its item. -/
def eachOk {α β : Type} (g : α → Except Nat β) (l : List α) : Except (Nat × α) (List β) :=
  match l with
  | [] => .ok []
  | x :: r =>
    match g x with
    | .error c => .error (c, x)
    | .ok y => (eachOk g r).map (fun ys => y :: ys)

/-- Pointers to `n` bytes upward. -/
def bytePtrs (p : Word) (n : Nat) : List Word := (List.range n).map (fun i => p + BitVec.ofNat 64 i)

end Sys2Proof.Machine
end

