-- ==== Sys2Proof/Machine/Coll.lean ====
section
/-! DEFINITION. Collectives: COLL and COLLW (10 R219, R221), the sums of 06 R119 and R120, and the completion of a
collective at this device (10 R220). -/

namespace Sys2Proof.Machine

/-! ### Descriptors (10 R219) -/

/-- Fields of a collective descriptor. -/
def collOpn (d : List Byte) : Nat := fieldOf d 0 1
def collMode (d : List Byte) : Nat := fieldOf d 1 1
def collEt (d : List Byte) : Nat := fieldOf d 2 1
def collWire (d : List Byte) : Nat := fieldOf d 3 1
def collRnd (d : List Byte) : Nat := fieldOf d 4 1
def collComm (d : List Byte) : Nat := fieldOf d 5 1
def collRoot (d : List Byte) : Nat := fieldOf d 6 2
def collCount (d : List Byte) : Nat := fieldOf d 8 4
/-- EXP as a signed number. -/
def collExp (d : List Byte) : Int := (BitVec.ofNat 16 (fieldOf d 12 2)).toInt
def collSrc (d : List Byte) : Word := BitVec.ofNat 64 (fieldOf d 16 8)
def collDst (d : List Byte) : Word := BitVec.ofNat 64 (fieldOf d 24 8)
def collResid (d : List Byte) : Word := BitVec.ofNat 64 (fieldOf d 32 8)

/-- Whether a descriptor asks for a sum in residual mode. -/
def collResidual (d : List Byte) : Bool := collOpn d == 0 && collMode d == 1

/-- The members of a collective group of a context, by device index (19 R375). -/
def commOf (s : State) (ctx comm : Nat) : List Nat := mget [] (s.ctx ctx).comms comm

/-- The conditions whose failure is cause 0x5D (10 R219); its Reserved fields are ignored (00 R3) (DEDUCED, log 57). -/
def collOk (s : State) (ctx : Nat) (d : List Byte) : Bool :=
  let members := commOf s ctx (collComm d)
  let et := collEt d
  let res := collResidual d
  let exact := collOpn d == 0 && collMode d == 0
  collOpn d ≤ 3 && (if collOpn d == 0 then collMode d ≤ 1 else collMode d == 0) &&
  [8, 9, 10, 11, 12, 2].contains et &&
  (if res then [9, 10, 11, 12].contains (collWire d) else collWire d == 0) && collRnd d ≤ 3 &&
  !members.isEmpty && (collRoot d == 0xFFFF && collOpn d != 3 || collRoot d < members.length) &&
  1 ≤ collCount d && collCount d ≤ 2 ^ 28 &&
  (if exact && et != 2 then -192 ≤ collExp d && collExp d ≤ 127 else collExp d == 0) &&
  (et != 2 || collMode d == 0) && (!exact || members.length ≤ 64) &&
  (res || collResid d == 0)

/-- Whether this device is a root of a collective (10 R219). -/
def collIsRoot (s : State) (ctx : Nat) (d : List Byte) : Bool :=
  collRoot d == 0xFFFF || collOpn d == 3 ||
  (commOf s ctx (collComm d))[collRoot d]? == some s.hub.devnum.toNat

/-- The areas that a collective touches here: SRC, DST at a root, RESID in residual mode. -/
def collSpans (s : State) (ctx : Nat) (d : List Byte) : List Span :=
  let n := collCount d * etBytes (collEt d)
  let sp (p : Word) (n : Nat) : Span := { p := p, lo := addrOf p, hi := addrOf p + n }
  [sp (collSrc d) n] ++ (if collIsRoot s ctx d then [sp (collDst d) n] else []) ++
  (if collResidual d then [sp (collResid d) (4 * collCount d)] else [])

/-- The checks of an area at issue: pointer layout, and the global window (10 R219). -/
def Span.collective (x : Span) : Option Nat :=
  if !x.layoutOk then some 0x31
  else match locate x.lo.toNat, locate (x.hi - 1).toNat with
    | .none, _ => some 0x32
    | .global _, .global _ => if isRemote x.lo.toNat == isRemote (x.hi - 1).toNat then none else some 0x30
    | .global _, .none => some 0x32
    | _, _ => some 0x30

/-- Tickets of a context in use. -/
def ticketsUsed (s : State) (ctx : Nat) : List Nat :=
  ((s.colls.filter (fun p => p.2.ctx == ctx && p.2.ticket != 0)).map (fun p => p.2.ticket))

/-- COLL (10 R219) (DEDUCED, log 57). -/
def doColl (f : Fields) (s : State) : Except TrapInfo State :=
  notInHail s (fun s =>
    let s := s.finishAll
    let t := s.thr
    let ctx := t.name.ctx
    (slotRead s (t.sReg f.a.toNat) 8 8).bind (fun d =>
      let bar := t.sReg f.b.toNat
      if !collOk s ctx d then .error { cause := 0x5D }
      else match (collSpans s ctx d).find? (fun x => x.collective.isSome) with
      | some x => .error { cause := x.collective.getD 0, addr := x.p }
      | none =>
        match barrierCheck s t bar with
        | some c => .error { cause := c }
        | none =>
          let used := ticketsUsed s ctx
          if used.length ≥ 256 then .ok (((s.putS f.d.toNat 0).putC f.c.toNat false).past f)
          else
            let (id, s) := s.fresh
            let ticket := freshNumber id (2 ^ 64) (0 :: used)
            let comm := collComm d
            let n := mget 0 (s.ctx ctx).collSeq comm
            let s := s.modCtx ctx (fun c => { c with collSeq := mset 0 c.collSeq comm (n + 1) })
            let s := if bar == 0 then s else
              let b := s.bar t.place.core (refIndex bar)
              s.setBar t.place.core (refIndex bar) { b with pend := b.pend + 1, refs := b.refs + 1 }
            let cmd : Cmd := { id := id, ctx := ctx, uid := t.name.uid, tid := t.id, core := t.place.core
                               launch := t.name.launch, team := t.name.team, group := t.name.group, pc := t.pc
                               seq := t.seq, bar := bar, scope := 5, ord := t.memOrd }
            let x : Coll := { id := id, ctx := ctx, comm := comm, seqNo := n, ticket := ticket, desc := d, cmd := cmd }
            let s := { s with colls := mins (mdel s.colls id) id x }
            let s := s.modTeam t.name.uid (fun tm => { tm with tickets := tm.tickets ++ [ticket] })
            let s := s.modThr (fun t => { t with seq := t.seq + 1, memOrd := t.memOrd + 1 })
            .ok (((s.putS f.d.toNat (BitVec.ofNat 64 ticket)).putC f.c.toNat true).past f)))

/-- The status word of a collective (10 R221). -/
def Coll.status (x : Coll) : Word := BitVec.ofNat 64 (x.code * 256 + x.flags.toNat)

/-- The collective whose ticket a team holds. -/
def collHeld (s : State) (t : Thread) (ticket : Nat) : Option (Nat × Coll) :=
  if (s.team t.name.uid).tickets.contains ticket then
    s.colls.find? (fun p => p.2.ctx == t.name.ctx && p.2.ticket == ticket && ticket != 0)
  else none

/-- COLLW (10 R221). -/
def doCollw (f : Fields) (s : State) : Except TrapInfo State :=
  let t := s.thr
  let ticket := (t.sReg f.a.toNat).toNat
  match collHeld s t ticket with
  | none => .error { cause := 0x5E }
  | some (k, x) =>
    let s' := ((s.putS f.d.toNat x.status).putC f.c.toNat x.done).past f
    if x.done then
      .ok ({ s' with colls := mdel s'.colls k }.modTeam t.name.uid (fun tm =>
        { tm with tickets := tm.tickets.erase ticket }))
    else .ok s'

/-! ### Results (06 R119, R120; 10 R220) -/

/-- Elements of a byte list. -/
def elements (e : Nat) (bs : List Byte) : List Nat := (List.range (bs.length / e)).map (fun i => fieldOf bs (e * i) e)

/-- The bounds of the exact sum (06 R119). -/
def fixMax : Int := 2 ^ 127 - 1
def clampFix (n : Int) : Int × BitVec 5 :=
  if n > fixMax then (fixMax, fOF) else if n < -fixMax then (-fixMax, fOF) else (n, 0)

/-- RNE(x × 2^−E) of a finite value, saturated, with its flags (06 R119 step 1). A saturation raises OF alone, and NX only a
fractional rest (DEDUCED, log 57). -/
def toFix (e : Int) (x : FVal) : Int × BitVec 5 :=
  match x with
  | .fin neg m exp =>
    let (q, rest) := shiftRest m (exp - e) false
    let q := if roundUp 0 neg (q % 2 == 1) rest then q + 1 else q
    let (n, fl) := clampFix (if neg then -(q : Int) else q)
    (n, fl ||| (if rest == 0 then 0 else fNX))
  | _ => (0, 0)

/-- The exact-accumulate sum of one element (06 R119): a NaN or infinite contribution makes the result NaN with IV, and
the flags of the other contributions' conversions are raised as well. -/
def exactSum (et : Nat) (e : Int) (xs : List Nat) : Nat × BitVec 5 :=
  let vs := xs.map (decEt et)
  let ns := vs.map (toFix e)
  let raised : BitVec 5 := ns.foldl (fun a n => a ||| n.2) 0
  if vs.any (fun v => match v with | .fin _ _ _ => false | _ => true) then ((fmtOf et).nanBits, raised ||| fIV)
  else
    let (total, fl) := clampFix ((ns.map (·.1)).foldl (· + ·) 0)
    let (r, fl') := toFloat et 0 0 (.fin (total < 0) total.natAbs e)
    (r, raised ||| fl ||| fl')

/-- The saturating sum of `.i32` elements (10 R220). -/
def intSum (xs : List Nat) : Nat × BitVec 5 :=
  let t := xs.foldl (fun (a : Int) x => a + (BitVec.ofNat 32 x).toInt) 0
  let c := max (-2147483648) (min 2147483647 t)
  ((BitVec.ofInt 32 c).toNat, if c == t then 0 else fOF)

/-- What a sender in residual mode sends and keeps: the wire value, the new residual, the flags (06 R120). -/
def residualStep (et wire rnd v rho : Nat) : Nat × Nat × BitVec 5 :=
  let (w, f1) := finishF 8 0 0 (fSum 0 [decEt et v, decEt 8 rho])
  let (c, f2) := toFloat wire rnd 0 (decEt 8 w)
  let (r, f3) := finishF 8 0 0 (fSum 0 [decEt 8 w, (decEt wire c).neg])
  (c, r, f1 ||| f2 ||| f3)

/-- The engine's sum in FP32 of wire values, in some order, rounded to the destination type (06 R120). -/
def residualSum (et wire : Nat) (cs : List Nat) : Nat × BitVec 5 :=
  let fs := cs.map (fun c => toFloat 8 0 0 (decEt wire c))
  let (t, fl) := match fs with
    | [] => (0, 0)
    | x :: r => r.foldl (fun a b => let y := fAdd 8 0 a.1 b.1; (y.1, a.2 ||| b.2 ||| y.2)) x
  let (r, fl') := toFloat et 0 0 (decEt 8 t)
  (r, fl ||| fl')

/-- An element as an operation that interprets it gives it: a NaN is canonical, and a signalling one raises IV (06 R109). -/
def canonical (et x : Nat) : Nat × BitVec 5 :=
  if et == 2 then (x, 0)
  else if (decEt et x).isNan then ((fmtOf et).nanBits, if (decEt et x).isSig then fIV else 0) else (x, 0)

/-- The minimum or maximum of one element over the members (10 R220, 06 R109). -/
def extremeOf (et : Nat) (isMax : Bool) (xs : List Nat) : Nat × BitVec 5 :=
  match xs with
  | [] => (0, 0)
  | [x] => canonical et x
  | x :: r => r.foldl (fun a b =>
      if et == 2 then
        let ia := (BitVec.ofNat 32 a.1).toInt
        let ib := (BitVec.ofNat 32 b).toInt
        (if (if isMax then ia < ib else ib < ia) then b else a.1, a.2)
      else let y := fMinMax et isMax a.1 b; (y.1, a.2 ||| y.2)) (x, 0)

/-- One element of the result from the members' elements, in the order given for a residual sum. -/
def collElement (d : List Byte) (xs : List Nat) : Nat × BitVec 5 :=
  match collOpn d with
  | 0 =>
    if collEt d == 2 then intSum xs
    else if collMode d == 0 then exactSum (collEt d) (collExp d) xs
    else residualSum (collEt d) (collWire d) xs
  | 1 => extremeOf (collEt d) false xs
  | _ => extremeOf (collEt d) true xs

/-! ### Completion (10 R220, R221) -/

/-- Descriptors match in OPN, MODE, ET, WIRE, RND, COUNT, EXP and ROOT (10 R220). -/
def collMatch (a b : List Byte) : Bool :=
  [(0, 1), (1, 1), (2, 1), (3, 1), (4, 1), (6, 2), (8, 4), (12, 2)].all (fun x => fieldOf a x.1 x.2 == fieldOf b x.1 x.2)

/-- The contribution of a member, once it has arrived. -/
def contribution? (s : State) (x : Coll) (dev : Nat) : Option Contribution :=
  s.contribs.find? (fun c => c.ctx == x.ctx && c.comm == x.comm && c.seqNo == x.seqNo && c.dev == dev)

/-- The cause of an area of this collective whose sectors cannot be sent to or from another device (16 R303). -/
def collSent (s : State) (x : Coll) (p : Word) (n : Nat) : Except (Nat × Word) Unit :=
  match sectorRefused s x.ctx ((bytePtrs p n).map addrOf) with
  | some a => .error (0x3D, BitVec.ofNat 64 a)
  | none => .ok ()

/-- Bytes that the engine reads of an area of this collective. -/
def collRead (s : State) (x : Coll) (p : Word) (n : Nat) : Except (Nat × Word) (List (Byte × Bool)) :=
  (collSent s x p n).bind (fun _ => eachOk (fun (q : Word) => engineByte s x.cmd 0 q x.id) (bytePtrs p n))

/-- Cells that write bytes to an area of this collective. -/
def collWrite (s : State) (x : Coll) (p : Word) (bs : List Byte) : Except (Nat × Word) (List Host.Cell) :=
  (collSent s x p bs.length).bind fun _ => (eachOk (fun (q : Word) => engineKey s x.cmd 0 q) (bytePtrs p bs.length)).map (fun ks =>
    (ks.zip bs).filterMap (fun kb => kb.1.map (fun k => (k, kb.2))))

/-- What a collective comes to here: a status code with flags and the cells to write, or an access fault; poison of any member
is CODE 3 (17 R345). `order` is the order of the residual sum's additions, by device (06 R120; DEDUCED, log 8). The residual
buffer is what its memory holds: no event binds one, so the engine zeroes none (06 R120; DEDUCED, log 57). -/
def collOutcome (s : State) (x : Coll) (order : List Nat) : Except (Nat × Word) (Nat × BitVec 5 × List Host.Cell) :=
  let d := x.desc
  let e := etBytes (collEt d)
  let n := collCount d
  let me := s.hub.devnum.toNat
  let members := commOf s x.ctx x.comm
  let others := members.filter (· != me)
  let theirs := others.filterMap (fun dev => (contribution? s x dev).map (fun c => (dev, c)))
  if theirs.any (fun c => !collMatch d c.2.desc) then .ok (2, 0, [])
  else if theirs.any (fun c => c.2.poison) then .ok (3, 0, [])
  else
    (collRead s x (collSrc d) (n * e)).bind (fun src =>
    (if collResidual d then collRead s x (collResid d) (4 * n) else .ok []).bind (fun rho =>
      if (src ++ rho).any (·.2) then .ok (3, 0, [])
      else
        let mine := elements e (src.map (·.1))
        let sent := if collResidual d then
            mine.zipWith (fun v r => residualStep (collEt d) (collWire d) (collRnd d) v r) (elements 4 (rho.map (·.1)))
          else mine.map (fun v => (v, 0, 0))
        let we := if collResidual d then etBytes (collWire d) else e
        -- a residual sender's flags follow its elements in the contribution (DEDUCED, log 8)
        let wires (dev : Nat) : List Nat :=
          if dev == me then sent.map (·.1)
          else match theirs.find? (fun c => c.1 == dev) with
            | some c => elements we (c.2.data.take (n * we))
            | none => []
        let peerFlags : BitVec 5 := if collResidual d then
            theirs.foldl (fun a c => a ||| BitVec.ofNat 5 (fieldOf c.2.data (n * we) 1)) 0 else 0
        let used := if collResidual d && order.length == members.length && members.all order.contains then order
          else members
        let used := if members.contains me then used else used ++ [me]
        let lists := used.map wires
        let res := (List.range n).map (fun i => collElement d (lists.map (fun l => l.getD i 0)))
        let fl := (res.map (·.2) ++ sent.map (fun y => y.2.2)).foldl (· ||| ·) peerFlags
        let bytes := if collOpn d == 3 then (wires (members.getD (collRoot d) 0)).flatMap (toBytes e)
          else res.flatMap (fun r => toBytes e r.1)
        let fl := if collOpn d == 3 then 0 else fl
        (if collIsRoot s x.ctx d then collWrite s x (collDst d) bytes else .ok []).bind (fun c1 =>
          (if collResidual d then collWrite s x (collResid d) (sent.flatMap (fun y => toBytes 4 y.2.1)) else .ok []).map
            (fun c2 => (0, fl, c1 ++ c2)))))

/-- The members of a collective on other devices. -/
def collPeers (s : State) (x : Coll) : List Nat := (commOf s x.ctx x.comm).filter (· != s.hub.devnum.toNat)

/-- Every member has contributed, and the accesses that the issuing thread made before the instruction are performed (10 R219,
R220, 09 R181). -/
def collReady (s : State) (x : Coll) : Bool :=
  earlierDone s x.cmd.tid x.cmd.ord && (collPeers s x).all (fun dev => (contribution? s x dev).isSome)

/-- A peer that the fence lets no contribution reach; its target is the area of the result (16 R303; DESIGN CHOICE, log 57). -/
def collRefused (s : State) (x : Coll) : Option Nat :=
  (collPeers s x).find? (fun dev => !fencePasses s.hub (portTo s.hub dev) (some x.ctx) dev (remoteAddr (addrOf (collDst x.desc)))
    (collCount x.desc * etBytes (collEt x.desc)))

/-- A collective ends here with a code; its arrival is made, and one that no team holds is forgotten (10 R220,
R221). -/
def State.endColl (s : State) (x : Coll) (code : Nat) (fl : BitVec 5) (arrive : Bool) : State :=
  let y := { x with code := code, flags := fl, done := true }
  let s := { s with
    colls := if x.ticket == 0 then mdel s.colls x.id else mins (mdel s.colls x.id) x.id y
    contribs := s.contribs.filter (fun c => !(c.ctx == x.ctx && c.comm == x.comm && c.seqNo == x.seqNo)) }
  if arrive then (s.arriveFor x.ctx x.cmd.core x.cmd.bar).endWaits else s

/-- The completion of a collective at this device (10 R220), with CODE 4 once a port that it uses has failed (19 R380): held while the context does not stand on its core (R221,
09 R197). A first-touch page is mapped on the way as Zephyr serves it on the hub (17 R341, R342). -/
def State.completeColl (s : State) (id : Nat) (order : List Nat) : State :=
  match s.colls.find? (fun p => p.1 == id) with
  | none => s
  | some (_, x) =>
    let fail (u : Nat) (p : Word) (s : State) : State :=
      let nm : Name := { ctx := x.ctx, launch := x.cmd.launch, team := x.cmd.team, group := x.cmd.group }
      let src := BitVec.ofNat 16 (4 * 2 ^ 13 + 32 * 2 ^ 7)
      let tr := { x.cmd.fault50 u p with src := src }
      let s := s.ringPut x.ctx (faultRecord s tr 2 nm src 0 x.cmd.pc 0)
      ((s.abandonBar x.cmd.core x.cmd.bar).endColl x 3 0 false).holdCause x.cmd.tid tr
    if x.done || (s.core x.cmd.core).serves != some x.ctx then s
    else if (collPeers s x).any (linkFailed s.hub) then s.endColl x 4 0 true
    else if !collReady s x then s
    else match collRefused s x with
    | some dev => fail 0x3D (collDst x.desc) (s.noteRefusal dev)
    | none =>
      let s := (collPeers s x).foldl (fun s dev => s.noteFlits (portTo s.hub dev)) s
      match collOutcome s x order with
      | .ok (code, fl, cells) => (((s.store cells).endColl x code fl true).reread none)
      | .error (c, p) =>
        if c == 0x3A then
          (match s.mapPage x.ctx (addrOf p) with
          | .ok (true, s) => s
          | .ok (false, s) => fail 0x3B p s
          | .error u => fail u p s)
        else fail c p (if c == 0x3D then s.noteRefusal (remoteDev (addrOf p)) else s)

def execColl (f : Fields) (s : State) : Host.Outcome State Fault Refusal := .next (runLong 0xD4 f s (doColl f))
def execCollw (f : Fields) (s : State) : Host.Outcome State Fault Refusal := .next (runLong 0xD5 f s (doCollw f))

/-- COLL_COMPLETION (10 R220). -/
def execCollCompletion (coll : Nat) (order : List Nat) (s : State) : Host.Outcome State Fault Refusal :=
  .next (s.completeColl coll order)

end Sys2Proof.Machine
end

