-- ==== Sys2Proof/Machine/System.lean ====
section
/-! DEFINITION. The system range 0xE0-0xE7 (17 R333-R338): traps, control registers, and the supervisor's
instructions. -/

namespace Sys2Proof.Machine

/-- The first-touch fault of an engine command that a supervisor entry serves ends the command; another
becomes cause `k` of the trapped instruction (17 R334). The supervisor entry is popped as SRET would. -/
def State.superTrap (s : State) (k : Nat) : State :=
  let t := s.thr
  let rest := t.stack.dropWhile (fun e => match e with | .trap x => x.mode != .supervisor | _ => true)
  match rest with
  | .trap e :: st =>
    let cmd := t.service.bind (·.cmd)
    let s := { s with thr := { t.leaveTrap e st with pc := e.tpc } }
    (match cmd with
    | some id =>
      let c := s.cmd id
      if s.hasCmd id && !c.failed then (s.stopCmd c k c.watermark).takeTrap (c.fault50 k c.watermark) e.tlen else s
    | none => s.takeTrap { cause := k, addr := t.trap.addr, lanes := some t.trap.mask } e.tlen)
  | _ => s

/-- TRAP (17 R334). -/
def doTrap (f : Fields) (s : State) : Except TrapInfo State :=
  if s.thr.supervisor then
    if f.uimm < 1 || f.uimm > 0x7F then .error { cause := 0x03 } else .ok (s.superTrap f.uimm)
  else .error { cause := 0x72, code := BitVec.ofNat 16 f.uimm }

/-- SRET (17 R334), with the join of lane focus (18 R366) (DEDUCED, log 31). -/
def doSret (f : Fields) (s : State) : Except TrapInfo State :=
  s.focusJoin (fun s => (s.thr.sret f.uimm).map (fun t => { s with thr := t }))

/-- CORESCHED of a core (14 R267). -/
def coresched (s : State) (core : Nat) : Word :=
  let wait := match (s.core core).serves with | some c => (s.ctx c).swapWait | none => 20000
  BitVec.ofNat 64 (wait * 2 ^ 32 + (residentGroups s core).length * 2 ^ 25 + charged s core % 512 * 2 ^ 9 +
    (s.core core).budget)

/-- The value of a control register; `none` for a number that is not listed (17 R329, 18 R369). -/
def csrValue (s : State) (n : Nat) : Option Word :=
  let t := s.thr
  match n with
  | 0x001 => some (t.fpstat.setWidth 64)
  | 0x002 => some (t.fpmode.setWidth 64)
  | 0x004 => some t.help
  | 0x010 => some (coresched s t.place.core)
  | 0x020 => some (s.ctx t.name.ctx).word
  | 0x030 => some s.hub.gts
  | 0x040 => some t.trap.vec
  | 0x041 => some t.trap.cause
  | 0x042 => some t.trap.tpc
  | 0x043 => some t.trap.mask
  | 0x044 => some t.trap.addr
  | 0x045 => some t.trap.info
  | 0x046 => some t.trap.site
  | 0x050 => some t.counts.issued
  | 0x051 => some t.counts.prod
  | 0x052 => some t.counts.skip
  | _ => none

/-- CSRR (17 R335). -/
def doCsrr (f : Fields) (s : State) : Except TrapInfo State :=
  match csrValue s f.uimm with
  | some w => .ok ((s.putS f.d.toNat w).past f)
  | none => .error { cause := 0x71 }

/-- Write a control register; `none` for one that is read-only or not listed (17 R329, 06 R110, R111, R114). -/
def Thread.csrWrite (t : Thread) (n : Nat) (w : Word) : Option Thread :=
  match n with
  | 0x001 => some { t with fpstat := w.setWidth 5 }
  | 0x002 => some { t with fpmode := if t.name.hail then (w.extractLsb' 0 2).setWidth 7 else w.setWidth 7 }
  | _ => none

/-- CSRW (17 R335). -/
def doCsrw (f : Fields) (s : State) : Except TrapInfo State :=
  match s.thr.csrWrite f.uimm (s.thr.sReg f.a.toNat) with
  | some t => .ok ({ s with thr := t }.past f)
  | none => .error { cause := 0x71 }

/-- TRAPVEC (17 R330, R336). -/
def doTrapvec (f : Fields) (s : State) : Except TrapInfo State :=
  let t := s.thr
  if t.name.hail then .error { cause := 0x70 }
  else
    let addr : Word := if f.a == 0 then (t.trap.vec.extractLsb' 0 55).setWidth 64 else (t.pc + dispBytes f).setWidth 64
    let vec := addr ||| (f.a.extractLsb' 0 5).setWidth 64 <<< 56
    .ok ({ s with thr := { t with trap := { t.trap with vec := vec } } }.past f)

/-- MAPPG (17 R337) (DEDUCED, log 53). -/
def doMappg (f : Fields) (s : State) : Except TrapInfo State :=
  notInHail s (fun s =>
    if !s.thr.supervisor then .error { cause := 0x70 }
    else match s.mapPage s.thr.name.ctx (addrOf (s.thr.sReg f.a.toNat) / 65536 * 65536) with
      | .error c => .error { cause := c }
      | .ok (b, s') => .ok ((s'.putC f.c.toNat b).past f))

/-- TLBINV (17 R337): the model keeps no stale entries, so the invalidation is complete at once (16 R299; DESIGN CHOICE, log 25) (DEDUCED, log 53). -/
def doTlbinv (f : Fields) (s : State) : Except TrapInfo State :=
  notInHail s (fun s => if !s.thr.supervisor then .error { cause := 0x70 } else .ok (s.past f))

/-- MARK (17 R338, 18 R360). -/
def doMark (f : Fields) (s : State) : Except TrapInfo State :=
  let t := s.thr
  let c := s.ctx t.name.ctx
  let s := if c.obs.word.getLsbD 2 && !c.conf then
      s.tracePut t.name.ctx (traceRecord s 1 0 t.name t.source f.uimm t.pc.toNat (t.sReg f.a.toNat).toNat)
    else s
  .ok (s.past f)

def execTrap (f : Fields) (s : State) : Host.Outcome State Fault Refusal := .next (runLong 0xE0 f s (doTrap f))
def execSret (f : Fields) (s : State) : Host.Outcome State Fault Refusal := .next (runLong 0xE1 f s (doSret f))
def execCsrr (f : Fields) (s : State) : Host.Outcome State Fault Refusal := .next (runLong 0xE2 f s (doCsrr f))
def execCsrw (f : Fields) (s : State) : Host.Outcome State Fault Refusal := .next (runLong 0xE3 f s (doCsrw f))
def execTrapvec (f : Fields) (s : State) : Host.Outcome State Fault Refusal := .next (runLong 0xE4 f s (doTrapvec f))
def execMappg (f : Fields) (s : State) : Host.Outcome State Fault Refusal := .next (runLong 0xE5 f s (doMappg f))
def execTlbinv (f : Fields) (s : State) : Host.Outcome State Fault Refusal := .next (runLong 0xE6 f s (doTlbinv f))
def execMark (f : Fields) (s : State) : Host.Outcome State Fault Refusal := .next (runLong 0xE7 f s (doMark f))

end Sys2Proof.Machine
end

