-- ==== Sys2Proof/Machine/Sched.lean ====
section
/-! DEFINITION. The issue choice (14 R269), what stands at a slot boundary (17 R323, R340; 18 R364, R365), instruction
fetch with its checks (03 R46-R48, 16 R297, R298), the Solder match (03 R64, 16 R309, R310) and what passes with every step. -/

namespace Sys2Proof.Machine

/-! ### The issue choice (14 R269) -/

/-- Threads of a partition whose state is Ready or Stalled (14 R277) and that their core lets issue: while a core is being
switched or a context stopped, hail threads and Solder routines run on to their end (17 R350). -/
def readyThreads (s : State) (core part : Nat) : List Thread :=
  s.threads.filter (fun t => t.place.core == core && t.place.part == part && t.status == .ready &&
    (s.core core).serves == some t.name.ctx &&
    (t.name.hail || ((s.team t.name.uid).state == .resident &&
      (t.routine.isSome || ((s.core core).switching.isNone && !(s.ctx t.name.ctx).stopping)))))

/-- The oldest of some threads (DESIGN CHOICE, log 71). -/
def oldest (ts : List Thread) : Option Thread :=
  ts.foldl (fun b t => match b with
    | none => some t
    | some u => if t.sched.age < u.sched.age || (t.sched.age == u.sched.age && t.id < u.id) then some t else some u) none

/-- The thread that a partition issues in a clock, and the ready ones (14 R269); with one candidate there is no
choice to make (DESIGN CHOICE, log 71). -/
def pick (s : State) (core part : Nat) : Option (Thread × List Thread) :=
  match readyThreads s core part with
  | [] => none
  | [t] => some (t, [t])
  | ts =>
    let r := ts.filter (fun t => !Config.stalls s.tick t.id)
    let r := if r.isEmpty then ts else r
    let st := r.filter (fun t => t.sched.starve == 64)
    (oldest (if st.isEmpty then r else st)).map (fun t => (t, r))

/-- Make the chosen thread the issuing one, count for the others, and note the choice (14 R269, 18 R362). -/
def State.choose (s : State) (core part : Nat) : Option State :=
  (pick s core part).map (fun (t, r) =>
    let s := s.mapThreads (fun u =>
      if u.id == t.id then { u with sched := { u.sched with starve := 0 } }
      else if r.any (fun x => x.id == u.id) then { u with sched := { u.sched with starve := min (u.sched.starve + 1) 64 } }
      else u)
    { s with picks := mset {} s.picks (8 * core + part) { tid := t.id, clock := s.clock, starved := t.sched.starve == 64 } }.focus t.id)

/-- STARVATION_GUARD (14 R269): the choice in a clock in which some ready thread has reached the guard; the step issues
the slot of the thread chosen. -/
def execStarvationGuard (core part : Nat) (s : State) : Host.Outcome State Fault Refusal :=
  .next (if (readyThreads s core part).any (fun t => t.sched.starve == 64) then (s.choose core part).getD s else s)

/-! ### Fetch (03 R46-R48, 16 R297, R298) -/

/-- One parcel of the thread's own code, or the cause. -/
def fetchOwn (s : State) (ctx a : Nat) : Except Nat (BitVec 32) :=
  match locate a with
  | .global va =>
    match translate s ctx va with
    | .error c => .error c
    | .ok (pa, e) =>
      if e.getLsbD 2 then .error 0x38
      else if s.poisonMem.contains (mainKey pa / 32) then .error 0x62
      else .ok (BitVec.ofNat 32 (rdNat s.mem (mainKey pa) 4))
  | _ => .error 0x38

/-- One parcel of a routine; a place outside its own code is cause 0x3F (16 R297, R311). -/
def fetchPatch (s : State) (r : Routine) (a : Nat) : Except Nat (BitVec 32) :=
  let o := a - Config.patchBase.toNat
  if a < Config.patchBase.toNat || o < r.lo || r.hi < o + 4 then .error 0x3F
  else if s.poisonMem.contains (patchKey o / 32) then .error 0x62
  else .ok (BitVec.ofNat 32 (rdNat s.mem (patchKey o) 4))

/-- A parcel for the issuing thread. -/
def fetchParcel (s : State) (a : Nat) : Except Nat (BitVec 32) :=
  match s.thr.routine with
  | some r => fetchPatch s r a
  | none => fetchOwn s s.thr.name.ctx a

/-- The parcels of the instruction at the program counter and their number, or the trap and its length. A first parcel
that cannot be read names no length (DESIGN CHOICE, log 26). -/
def fetch (s : State) : Except (TrapInfo × Nat) (BitVec 32 × BitVec 32 × BitVec 32 × Nat) :=
  let a := s.thr.pc.toNat
  let bad (c a n : Nat) : Except (TrapInfo × Nat) (BitVec 32 × BitVec 32 × BitVec 32 × Nat) :=
    .error ({ cause := c, addr := BitVec.ofNat 64 a }, n)
  match fetchParcel s a with
  | .error c => bad c a (1 + Config.choice s.tick % 3)
  | .ok p0 =>
    match parcelCount p0 with
    | 1 => .ok (p0, 0, 0, 1)
    | 2 => (match fetchParcel s ((a + 4) % 2 ^ 55) with
        | .error c => bad c ((a + 4) % 2 ^ 55) 2
        | .ok p1 => .ok (p0, p1, 0, 2))
    | _ => (match fetchParcel s ((a + 4) % 2 ^ 55) with
        | .error c => bad c ((a + 4) % 2 ^ 55) 3
        | .ok p1 => (match fetchParcel s ((a + 8) % 2 ^ 55) with
            | .error c => bad c ((a + 8) % 2 ^ 55) 3
            | .ok p2 => .ok (p0, p1, p2, 3)))

/-- What the Solder match makes of a fetched instruction (03 R64 step 1, 16 R310). -/
inductive Match where
  | decode (p0 p1 : BitVec 32)
  | trap (cause : Nat) (half : Bool)
  | emulate (sl : Solder)
  deriving DecidableEq, Repr

/-- The result of a Rewrite (16 R310). -/
def Solder.rewrite (sl : Solder) (x : Word) : Word := (x &&& ~~~ sl.mask) ||| (sl.arg &&& sl.mask)

/-- The Solder match of the parcels for a context. A pair is matched half by half; a Trap or Emulate of either half
is the pair's, and a Rewrite that changes the half's LEN is cause 0x06. When both halves match, the leader's Trap or Emulate
decides, and either one comes before a Rewrite; HALF of a Trap that only the follower matches is 1 (DEDUCED, log 76). -/
def solderMatch (s : State) (ctx : Nat) (p0 p1 : BitVec 32) : Match :=
  let half (p : BitVec 32) : Option Solder := solderPick s ctx false (p.setWidth 64)
  if p0.getLsbD 1 then
    match solderPick s ctx false (p1 ++ p0) with
    | none => .decode p0 p1
    | some sl =>
      if sl.act == 0 then .trap sl.cause false
      else if sl.act == 2 then .emulate sl
      else let x := sl.rewrite (p1 ++ p0); .decode (x.extractLsb' 0 32) (x.extractLsb' 32 32)
  else if !p0.getLsbD 0 then
    match half p0 with
    | none => .decode p0 p1
    | some sl =>
      if sl.act == 0 then .trap sl.cause false
      else if sl.act == 2 then .emulate sl
      else .decode ((sl.rewrite (p0.setWidth 64)).setWidth 32) p1
  else
    let a := half p0
    let b := half p1
    let acts (x : Option Solder) (n : Nat) : Bool := match x with | some sl => sl.act == n | none => false
    let put (x : Option Solder) (p : BitVec 32) : BitVec 32 :=
      match x with | some sl => (sl.rewrite (p.setWidth 64)).setWidth 32 | none => p
    if acts a 0 then .trap (a.elim 0 (·.cause)) false
    else if acts a 2 then .emulate (a.getD {})
    else if acts b 0 then .trap (b.elim 0 (·.cause)) true
    else if acts b 2 then .emulate (b.getD {})
    else
      let q0 := put a p0
      let q1 := put b p1
      if q0.extractLsb' 0 2 != p0.extractLsb' 0 2 || q1.extractLsb' 0 2 != p1.extractLsb' 0 2 then .trap 0x06 false
      else .decode q0 q1

/-! ### The slot boundary -/

/-- How the slot of the chosen thread begins: with an instruction to perform, or with the step complete. -/
inductive SlotStart where
  | over (s : State)
  | run (i : Instr) (s : State)

/-- Length in parcels of the instruction at the program counter. -/
def hereLength (s : State) : Nat := match fetch s with | .ok (_, _, _, n) => n | .error (_, n) => n

/-- Whether a held cause goes to the group itself: a first-touch fault that it cannot serve is left to Zephyr (17
R342). -/
def deliverable (s : State) (t : Thread) (tr : TrapInfo) : Bool :=
  tr.cause != 0x3A || takesService s t.id

/-- TLEN of an A trap: the length of a waiting instruction that it abandons, else 0 (17 R323, R324); a group at a barrier has
arrived and abandons nothing. -/
def abandonedLength (s : State) : Nat :=
  match s.thr.status with
  | .waiting (.bar _ _) | .waiting (.sbar _ _) => 0
  | .waiting _ => hereLength s
  | _ => 0

/-- The wait of a group goes on, and ends if its condition came while a cause was due to it (10 R206, R209, R212). -/
def State.recheck (s : State) (tid : Nat) : State :=
  match s.thread? tid with
  | none => s
  | some t =>
    match t.status with
    | .waiting (.tx i _) => if (s.core t.place.core).serves == some t.name.ctx then s.txWake t.place.core i else s
    | .waiting (.val _ _ _ _ _) => s.reread (some tid)
    | _ => s.endWaits

/-- Deliver the oldest cause held for the issuing group; a wait is abandoned (17 R323) (DEDUCED, log 36). -/
def State.deliverHeld (s : State) : State :=
  match s.thr.held with
  | [] => s
  | tr :: rest =>
    let t := s.thr
    let s' := { s with thr := { t with held := rest } }
    if deliverable s t tr then s'.completeAll.takeTrap tr (abandonedLength s) else s'.recheck t.id

/-- The lowest breakpoint slot that matches the issuing group's slot (18 R364), in a handler as anywhere. -/
def breakHit (s : State) : Option Nat :=
  let t := s.thr
  if t.name.hail || t.routine.isSome || t.skipBp then none
  else (List.range 8).find? (fun n =>
    let b := mget 0 (s.ctx t.name.ctx).obs.bp n
    b.getLsbD 63 && addrOf b == t.pc.toNat)

/-- Whether the access that `MAPPG` makes to the frame it takes is refused: Zephyr names the context, and reaches nothing that the
context does not own (16 R304, 17 R337) (DEDUCED, log 18). -/
def frameRefused (s : State) (ctx va : Nat) : Bool :=
  let e := mget 0 (s.ctx ctx).leaf (leafIndex va)
  !e.getLsbD 0 && e.getLsbD 5 &&
  (lowestOf (s.ctx ctx).poolFrames).any (fun f => (mget {} s.owners (frameUnit f)).who != ownerCtx ctx)

/-- One slot of Zephyr's supervisor routine (17 R340): MAPPG on TADDR, whose access to the frame 16 R304 may refuse with cause 0x75,
then SRET #0, which may be a join of lane focus (18 R366), or TRAP #0x3B. Each is one instruction of two parcels, and the routine
has no other (DESIGN CHOICE, log 18); a 65,537th instruction is cause 0x76. -/
def State.serviceStep (s : State) (v : Service) : State :=
  let t := s.thr
  let slot (s : State) : State := s.closeSlot t 1
  if v.count ≥ 65536 then
    let tr := s.causeSlots { cause := 0x76 }
    { s with thr := t.setTrap tr 2 }.endGroup tr 2 1
  else if t.pc == Config.supervisorPc then
    let va := addrOf t.trap.addr / 65536 * 65536
    if frameRefused s t.name.ctx va then s.takeTrap { cause := 0x75 } 2
    else match s.mapPage t.name.ctx va with
    | .error c => s.takeTrap { cause := c } 2
    | .ok (b, s') => slot (s'.modThr (fun t => { t with pc := t.pc + 8, service := some { v with count := v.count + 1, mapped := b } }))
  else if v.mapped then
    match s.focusJoin (fun s => (s.thr.sret 0).map (fun t => { s with thr := t })) with
    | .ok s' => slot s'
    | .error tr => s.takeTrap tr 2
  else slot (s.superTrap 0x3B)

/-- Fetch, match and decode the issuing thread's instruction; every trap of these is taken here (03 R64, R65). An
Emulate action completes what is pending and ends every window, as a trap does (DEDUCED, log 33); its routine receives the
parcels matched, and with no room for its entry the instruction is cause 0x11 (04 R70; DEDUCED, log 39). -/
def fetchStart (s : State) : SlotStart :=
  let trap (s : State) (tr : TrapInfo) (n : Nat) : SlotStart := .over (s.completeAll.takeTrap tr n)
  match fetch s with
  | .error (tr, n) => trap s tr n
  | .ok (p0, p1, p2, n) =>
    let s := if s.thr.firstFetch then s.modThr Thread.fetched else s
    match solderMatch s s.thr.name.ctx p0 p1 with
    | .trap c h => trap s { cause := c, half := h } n
    | .emulate sl =>
      let s := s.completeAll
      (match s.thr.enterRoutine sl (s.thr.pc + BitVec.ofNat 55 (4 * n)) 0 n (p1 ++ p0) with
      | some t => .over { s with thr := t }
      | none => .over (s.takeTrap { cause := 0x11 } n))
    | .decode q0 q1 =>
      match decodeParcels (s.thr.pc.toNat % 8 == 0) q0 q1 p2 with
      | .ok i => .run i s
      | .error e => trap s { cause := e.cause.1, half := e.cause.2 } n

/-- The debugger's cause that is due to a thread: its step's slot has issued, or a halt was asked for (18 R365). -/
def Thread.debugCause (t : Thread) : Option Nat := if t.stepDone then some 0x7A else if t.haltReq then some 0x7B else none

/-- What stands at the slot boundary of the issuing thread, in order: settle (04 R75), held causes (17 R323), the
debugger's halt (18 R365), a breakpoint (18 R364), the supervisor routine (17 R340), else the fetch. A routine is one slot (16
R311) (DEDUCED, log 70). -/
def slotStart (s : State) : SlotStart :=
  let t := s.thr
  if t.active == 0 then .over (s.settle (hereLength s))
  else if t.routine.isNone && !t.held.isEmpty then .over s.deliverHeld
  else match t.debugCause.filter (fun _ => t.routine.isNone) with
    | some c => .over (s.completeAll.takeTrap { cause := c } (hereLength s))
    | none =>
      match breakHit s with
      | some n => .over (s.completeAll.takeTrap { cause := 0x78, code := BitVec.ofNat 16 n } (hereLength s))
      | none =>
        match t.service with
        | some v => .over (s.serviceStep v)
        | none => fetchStart s

/-! ### Causes and limits that come as steps of their own -/

/-- Whether the issuing thread can take a held cause now (17 R323): it is ready, or waits otherwise than at a barrier, and
its core lets it. -/
def canDeliver (s : State) : Bool :=
  let t := s.thr
  t.routine.isNone && (s.core t.place.core).serves == some t.name.ctx && (s.core t.place.core).switching.isNone &&
  (t.name.hail || (!(s.ctx t.name.ctx).stopping && (s.team t.name.uid).state == .resident)) &&
  (match t.status with
  | .ready => true
  | .waiting (.bar _ _) | .waiting (.sbar _ _) => false
  | .waiting _ => true
  | _ => false)

/-- Make a thread the issuing one and act, when a condition holds of it (DESIGN CHOICE, log 72). -/
def State.whenThread (s : State) (tid : Nat) (ok : State → Bool) (act : State → State) : State :=
  match s.thread? tid with
  | none => s
  | some _ => let s' := s.focus tid; if ok s' then act s' else s

/-- ASYNC_TRAP_DELIVERY (17 R323). A debugger's halt of a waiting group comes the same way (18 R365). -/
def execAsyncTrapDelivery (tid : Nat) (s : State) : Host.Outcome State Fault Refusal :=
  .next (s.whenThread tid (fun s => canDeliver s && (!s.thr.held.isEmpty || s.thr.debugCause.isSome)) (fun s =>
    if s.thr.held.isEmpty then s.completeAll.takeTrap { cause := s.thr.debugCause.getD 0x7B } (hereLength s)
    else s.deliverHeld))

/-- Deliver every cause that is held for the groups that `p` holds of and that can take one (17 R351). -/
def State.deliverDue (s : State) (p : Thread → Bool) : State :=
  (s.threads.filter (fun t => p t && !t.held.isEmpty)).foldl (fun s t =>
    (List.range t.held.length).foldl (fun s _ =>
      s.whenThread t.id (fun s => canDeliver s && !s.thr.held.isEmpty) State.deliverHeld) s) s

/-- A group inside a routine to which a cause is due takes it after the routine (17 R323, R351). -/
def dueInRoutine (s : State) (p : Thread → Bool) : Bool :=
  s.threads.any (fun t => p t && t.routine.isSome && !t.held.isEmpty)

/-- Whether the next slot of the issuing thread fetches an instruction that passes the Solder match and decodes. -/
def decodesNext (s : State) : Bool :=
  s.thr.active != 0 &&
  (match fetch s with
  | .error _ => false
  | .ok (p0, p1, p2, _) =>
    match solderMatch s s.thr.name.ctx p0 p1 with
    | .decode q0 q1 => (decodeParcels (s.thr.pc.toNat % 8 == 0) q0 q1 p2).isOk
    | _ => false)

/-- HANDLER_INSTRUCTION_LIMIT (09 R193): a hail thread's 513th instruction, which decodes, traps with cause 0x54. When it is the
follower of a pair, the pair's own slot says which half traps (03 R60). -/
def execHandlerInstructionLimit (tid : Nat) (s : State) : Host.Outcome State Fault Refusal :=
  .next (s.whenThread tid (fun s => s.thr.name.hail && 512 ≤ s.thr.hailCount && decodesNext s)
    (fun s => s.completeAll.takeTrap { cause := 0x54 } (hereLength s)))

/-- EMULATION_LIMIT (16 R311): a routine's 4,097th instruction, which decodes, traps the thread with cause 0x3E; a pair that it
follows in says so in its own slot (03 R60). -/
def execEmulationLimit (tid : Nat) (s : State) : Host.Outcome State Fault Refusal :=
  .next (s.whenThread tid
    (fun s => (match s.thr.routine with | some r => decide (4096 ≤ r.count) | none => false) && decodesNext s)
    (fun s => s.completeAll.takeTrap { cause := 0x3E } (hereLength s)))

/-- SUPERVISOR_WATCHDOG (17 R340): a supervisor routine's 65,537th instruction ends the group with cause 0x76. -/
def execSupervisorWatchdog (tid : Nat) (s : State) : Host.Outcome State Fault Refusal :=
  .next (s.whenThread tid (fun s => match s.thr.service with | some v => decide (v.count ≥ 65536) | none => false)
    (fun s => match s.thr.service with | some v => s.serviceStep v | none => s))

end Sys2Proof.Machine
end

