-- ==== Sys2Proof/Machine/Transfer.lean ====
section
/-! DEFINITION. The steps of the engines after issue: sectors of copies and BSTORE (09 R185-R189), bursts of hail
reads and the birth of their threads (09 R190-R197), completions (10 R211), and first-touch service on the hub (17
R341, R342). -/

namespace Sys2Proof.Machine

/-- Whether a core serves a context, and whether it also goes on working for it: a core being saved stops (17
R350). -/
def here (s : State) (core ctx : Nat) : Bool := (s.core core).serves == some ctx
def hereNow (s : State) (core ctx : Nat) : Bool := here s core ctx && (s.core core).switching.isNone

/-- Whether a command may make accesses (09 R197): its context stands on its core; a node's copy needs no core. -/
def Cmd.mayRun (c : Cmd) (s : State) : Bool := !(s.ctx c.ctx).stopping && if c.node.isSome then s.hasCtx c.ctx else hereNow s c.core c.ctx

/-- SWZ of a command's shared-memory endpoints (09 R186) (DEDUCED, log 35). -/
def Cmd.swz (c : Cmd) : Nat := match c.work with | .copy _ _ w _ => laySwz w | _ => 0

/-- The cause at the lowest address among some checks. -/
def lowestCause {α : Type} (l : List (Nat × Except Nat α)) : Option (Nat × Nat) :=
  l.foldl (fun b x => match x.2 with
    | .ok _ => b
    | .error c => match b with
      | none => some (x.1, c)
      | some y => if x.1 < y.1 then some (x.1, c) else b) none

/-- What performing a sector comes to: the cause with its address, or the cells and whether the sector is
poisoned. The source's checks come before the sector's own (09 R185). -/
def sectorTry (s : State) (c : Cmd) (ms : List Move) : Except (Nat × Nat) (List Host.Cell × Bool) :=
  let srcs := ms.filterMap (fun m => m.src.map (fun p => (addrOf p, engineByte s c c.swz p (s.tick * 4096 + addrOf p % 4096))))
  let dsts := ms.map (fun m => (addrOf m.dst, engineKey s c c.swz m.dst))
  let sent (as : List Nat) : Option (Nat × Nat) := (sectorRefused s c.ctx as).map (fun a => (a, 0x3D))
  match (lowestCause srcs).or (sent (ms.filterMap (fun m => m.src.map addrOf))) with
  | some x => .error x
  | none =>
    match (lowestCause dsts).or (sent (ms.map (fun m => addrOf m.dst))) with
    | some x => .error x
    | none =>
      let bytes := ms.map (fun m => match m.src with
        | none => (m.val, m.bad)
        | some p => (match engineByte s c c.swz p (s.tick * 4096 + addrOf p % 4096) with | .ok b => b | .error _ => (0, false)))
      let cells := (dsts.zip bytes).filterMap (fun x => match x.1.2 with
        | .ok (some k) => some (k, x.2.1)
        | _ => none)
      .ok (cells, bytes.any (·.2))

/-- Whether a command names another device. -/
def Cmd.remote (c : Cmd) : Bool :=
  match c.work with
  | .copy dst src _ _ => isRemote (addrOf dst) || isRemote (addrOf src)
  | .bstore dst _ _ => isRemote (addrOf dst)
  | .hread _ _ _ => false

/-- The other device that a command names. -/
def Cmd.device (c : Cmd) : Option Nat :=
  match c.work with
  | .copy dst src _ _ =>
    if isRemote (addrOf dst) then some (remoteDev (addrOf dst))
    else if isRemote (addrOf src) then some (remoteDev (addrOf src)) else none
  | .bstore dst _ _ => if isRemote (addrOf dst) then some (remoteDev (addrOf dst)) else none
  | .hread _ _ _ => none

/-- A command in the midst of its accesses. -/
def Cmd.active (c : Cmd) (s : State) : Bool :=
  s.hasCmd c.id && c.started && !c.failed && !c.done && c.suspended.isNone && c.mayRun s

/-- The copy writes every byte of the shared-memory unit of a sector, and that sector is the unit's last: its
swizzle tag becomes SWZ (09 R186; DEDUCED, log 27). -/
def State.setSwz (s : State) (c : Cmd) (sec : Nat) : State :=
  match c.work, locate (32 * sec) with
  | .copy _ _ w _, .shared off =>
    let u := off / 1024
    let mine := c.sectors.filter (fun x => x.1 / 32 == u)
    if (mine.flatMap (·.2)).length == 1024 && mine.all (fun x => x.1 ≤ sec) then
      { s with swz := mset 0 s.swz (swzKey (s.team c.uid) u) (BitVec.ofNat 3 (laySwz w)) }
    else s
  | _, _ => s

/-- The engine stops at a first-touch page, and the cause becomes due to the group where it can serve it (17
R341, R342). -/
def State.suspendCmd (s : State) (c : Cmd) (a : Nat) : State :=
  let s := s.setCmd c.id { c with suspended := some (leafIndex a) }
  let tr : TrapInfo := { cause := 0x3A, async := true, addr := BitVec.ofNat 64 (a / 65536 * 65536), site := c.pc, seq := c.seq, cmd := some c.id }
  if c.node.isNone && takesService s c.tid then s.holdCause c.tid tr else s

/-- Whether a command waits to do the work of an event or launch node (10 R216). -/
def Cmd.nodeWork? (c : Cmd) (s : State) : Option Nat := c.node.filter (fun k => (s.node k).kind != some 1)

/-- ENGINE_COMMAND_START (09 R181): the issuing thread's earlier stores are performed, and the loads before them. -/
def execEngineCommandStart (cmd : Nat) (s : State) : Host.Outcome State Fault Refusal :=
  let c := s.cmd cmd
  .next (if s.hasCmd cmd && !c.started && !c.failed && c.mayRun s && earlierDone s c.tid c.ord then
      match c.nodeWork? s with
      | some key => { s with cmds := mdel s.cmds cmd }.runNode key
      | none =>
        let none_ := match c.work with | .hread _ _ _ => false | _ => c.sectors.isEmpty
        (s.setCmd cmd { c with started := true, sectorsDone := none_ }).endWaits
    else s)

/-- COPY_SECTOR_PERFORM (09 R185, R188): the next destination sector is performed, or the command stops at a
first-touch page. Any other failure is ENGINE_FAULT's (DEDUCED, log 55). -/
def execCopySectorPerform (cmd : Nat) (s : State) : Host.Outcome State Fault Refusal :=
  let c := s.cmd cmd
  .next (if !c.active s || c.sectorsDone then s
    else match c.sectors[c.mark]? with
    | none => s
    | some (sec, ms) =>
      match sectorTry s c ms with
      | .error (a, cause) => if cause == 0x3A then s.suspendCmd c a else s
      | .ok (cells, bad) =>
        let s := s.store cells
        let s := if bad then { s with poisonMem := (cells.map (fun x => x.1 / 32)).foldl (fun l k => setKey l k true) s.poisonMem }
          else s
        let s := s.setSwz c sec
        let s := c.device.elim s (fun d => s.noteFlits (portTo s.hub d))
        let s := s.setCmd cmd { c with mark := c.mark + 1, sectorsDone := c.mark + 1 == c.sectors.length }
        (s.reread none).endWaits)

/-- The cause of a check of a burst and its address, or the keys of its bytes (09 R190, 16 R298) (DEDUCED, log 44). -/
def burstTry (s : State) (c : Cmd) (p : Word) (n : Nat) : Except (Nat × Word) (List Nat) :=
  eachOk (fun (q : Word) => engineReach s c.ctx c.core c.uid false 0 q 1) (bytePtrs p n)

/-- The cause that a command's next access fails with, if it fails. -/
def nextFailure (s : State) (c : Cmd) : Option (Nat × Nat) :=
  match c.work with
  | .hread bs _ _ =>
    (match bs[c.mark]? with
    | none => none
    | some (p, n, _, _) => (match burstTry s c p n with | .error (x, q) => some (addrOf q, x) | .ok _ => none))
  | _ =>
    (match c.sectors[c.mark]? with
    | none => none
    | some (_, ms) => (match sectorTry s c ms with | .error (a, x) => some (a, x) | .ok _ => none))

/-- ENGINE_FAULT (09 R189): the next access of a command fails; so may any access of another device, which the far side
checks (19 R380; DESIGN CHOICE, log 15). -/
def execEngineFault (cmd : Nat) (s : State) : Host.Outcome State Fault Refusal :=
  let c := s.cmd cmd
  .next (if !c.active s || c.sectorsDone then s
    else match nextFailure s c with
    | some (a, cause) =>
      if cause == 0x3A then s
      else
        let s := if cause == 0x3D then s.noteRefusal (remoteDev a) else s
        s.failCmd cmd cause c.watermark
    | none =>
      if c.remote then s.failCmd cmd ([0x35, 0x36, 0x39, 0x3D].getD (Config.choice s.tick % 4) 0x3D) c.watermark else s)

/-! ### Bursts and hail threads -/

/-- Places of a core's return buffer that are taken (09 R191). -/
def placesTaken (s : State) (core ctx : Nat) : Nat :=
  (s.cmds.filter (fun p => p.2.core == core && p.2.ctx == ctx)).foldl (fun n p => n + p.2.asked.length)
    (s.core core).buffer.length

/-- HAIL_BURST_REQUEST (09 R190, R191): the next burst is checked and requested, or the read stops at a first-touch
page (DEDUCED, log 44). -/
def execHailBurstRequest (cmd : Nat) (s : State) : Host.Outcome State Fault Refusal :=
  let c := s.cmd cmd
  .next (if !c.active s || placesTaken s c.core c.ctx ≥ 64 then s
    else match c.work with
    | .hread bs _ _ =>
      (match bs[c.mark]? with
      | none => s
      | some (p, n, _, _) =>
        match burstTry s c p n with
        | .error (cause, q) => if cause == 0x3A then s.suspendCmd c (addrOf q) else s
        | .ok keys => s.setCmd cmd { c with mark := c.mark + 1, asked := c.asked ++ [(c.mark, keys)] })
    | _ => s)

/-- HAIL_BURST_RETURN (09 R190, R191): a requested burst's data has come and waits in the return buffer. -/
def execHailBurstReturn (cmd burst : Nat) (s : State) : Host.Outcome State Fault Refusal :=
  let c := s.cmd cmd
  .next (if !s.hasCmd cmd || !here s c.core c.ctx then s
    else match c.work, c.asked.find? (fun a => a.1 == burst) with
    | .hread bs _ _, some (_, keys) =>
      (match bs[burst]? with
      | none => s
      | some (p, _, k, seg) =>
        let b : Burst := { cmd := cmd, index := k, seg := seg, addr := p, data := keys.map (rdByte s.mem)
                           poison := (List.range 64).filter (fun l => (keys.drop (4 * l)).take 4 |>.any
                             (fun x => s.poisonMem.contains (x / 32))) }
        let s := s.setCmd cmd { c with asked := c.asked.filter (fun a => a.1 != burst) }
        s.setCore c.core { s.core c.core with buffer := (s.core c.core).buffer ++ [b] })
    | _, _ => s)

/-- The lowest-numbered free hail slot of the lowest-numbered partition that has one (14 R271). -/
def freeHailSlot (s : State) (core : Nat) : Option (Nat × Nat) :=
  let taken := (s.threads.filter (fun t => t.name.hail && t.place.core == core && some t.name.ctx == (s.core core).serves)).map
    (fun t => (t.place.part, t.place.slot))
  ((List.range 32).map (fun i => (i / 4, i % 4))).find? (fun x => !taken.contains x)

/-- The control thread of a burst (09 R192); `s1` holds the burst's pointer, with its tag (16 R318) (DEDUCED, log 44). -/
def newHail (s : State) (id : Nat) (c : Cmd) (k : Kernel) (arg : Word) (h : Pc) (b : Burst) (part slot : Nat) : Thread :=
  let n := b.data.length
  let lanes := maskOf (fun l => 4 * l < n)
  let s0 := b.index % 65536 + b.seg % 65536 * 2 ^ 16 + n % 512 * 2 ^ 32
  { id := id
    name := { ctx := c.ctx, launch := c.launch, team := c.team, group := c.group, burst := b.index, seg := b.seg, hail := true
              uid := c.uid, cmd := c.id, owner := c.tid }
    place := { core := c.core, part := part, slot := slot }
    status := .ready, width := 64, real := lanes, pc := h, m0 := lanes
    wins := startWins k.vwin k.swin k.awin
    files := { s := [(0, BitVec.ofNat 64 s0), (1, b.addr), (2, arg)].filter (fun p => p.2 != 0)
               a := [(0, { base := 0, stride := 1 }), (1, { base := 0, stride := 1 })]
               v := ((List.range 64).map (fun l => (l, BitVec.ofNat 32 (fieldOf b.data (4 * l) 4)))).filter (fun p => p.2 != 0) }
    poison := { v := b.poison }
    sched := { age := s.tick } }

/-- HAIL_THREAD_BIRTH (09 R191, R192, 14 R271): the oldest waiting burst of a core takes a free hail slot; one whose team is
being swapped out waits (20 R388). -/
def execHailThreadBirth (core : Nat) (s : State) : Host.Outcome State Fault Refusal :=
  let co := s.core core
  .next (match co.buffer.find? (fun b => (s.team (s.cmd b.cmd).uid).state != .swapping), freeHailSlot s core with
    | some b, some (part, slot) =>
      let c := s.cmd b.cmd
      (match c.work with
      | .hread _ arg h =>
        (match handlerAt (s.ctx c.ctx) h.toNat h.toNat with
        | some k =>
          let (id, s) := s.fresh
          let t := newHail s id c k arg h b part slot
          let s := s.setCore core { co with buffer := co.buffer.erase b }
          let s := s.setCmd b.cmd { c with running := c.running + 1 }
          let s := s.modCtx c.ctx (fun x => { x with counters := { x.counters with hail := x.counters.hail + 1 } })
          { s with parked := parkIn s.parked t }
        | none => s)
      | _ => s)
    | _, _ => s)

/-! ### Completions -/

/-- Every access of a command is made and, for a read, every thread of it has ended (09 R185, R194). -/
def Cmd.complete (c : Cmd) (s : State) : Bool :=
  match c.work with
  | .hread bs _ _ => c.mark == bs.length && c.asked.isEmpty && c.running == 0 &&
      !(s.core c.core).buffer.any (fun b => b.cmd == c.id)
  | _ => c.sectorsDone

/-- ENGINE_COMPLETION_ARRIVAL (09 R185, R194, 10 R211): one arrival on the command's barrier, held while the context does not
stand on the core (09 R197); a read of which a thread trapped makes none (09 R196). A graph node's copy is done then, and its node finishes by GRAPH_NODE_FINISH. -/
def execEngineCompletionArrival (cmd : Nat) (s : State) : Host.Outcome State Fault Refusal :=
  let c := s.cmd cmd
  .next (if !c.active s || !c.complete s then s
    else if c.node.isSome then s.setCmd cmd { c with done := true }
    else if c.spoiled then { s with cmds := mdel s.cmds cmd }.endWaits
    else ({ s with cmds := mdel s.cmds cmd }.complete c.core c.bar).endWaits)

/-- GRAPH_NODE_FINISH (10 R218): a copy node whose copy is done finishes, and the successors that it held back start. -/
def execGraphNodeFinish (die slot : Nat) (s : State) : Host.Outcome State Fault Refusal :=
  let key := nodeKey die slot
  .next (match s.cmds.find? (fun p => p.2.node == some key && p.2.done) with
    | some (k, _) => { s with cmds := mdel s.cmds k }.endNode key
    | none => s)

/-- Whether the group that issued a command serves its first-touch fault, or will: it runs the routine for it, or the cause is
held for it and it can take the entry (17 R340-R342). -/
def servedBy (s : State) (c : Cmd) : Bool :=
  match s.thread? c.tid with
  | none => false
  | some t => t.service.any (fun v => v.cmd == some c.id) ||
      (t.held.any (fun tr => tr.cause == 0x3A && tr.cmd == some c.id) && takesService s c.tid)

/-- HUB_FIRST_TOUCH_SERVICE (17 R342): Zephyr serves the fault of a command whose group cannot, or ends the command; a cause
that is held for the group is dropped. -/
def execHubFirstTouchService (cmd : Nat) (s : State) : Host.Outcome State Fault Refusal :=
  let c := s.cmd cmd
  .next (match c.suspended with
    | none => s
    | some page =>
      if !s.hasCmd cmd || c.failed || servedBy s c then s
      else
      let s := (s.onThread c.tid (fun t => { t with held := t.held.filter (fun tr => tr.cmd != some cmd) })).recheck c.tid
      match s.mapPage c.ctx (page * 65536) with
        | .error u => s.failCmd cmd u c.watermark
        | .ok (true, s') => s'
        | .ok (false, s') => s'.failCmd cmd 0x3B c.watermark)

end Sys2Proof.Machine
end

