-- ==== Sys2Proof/Machine/Events.lean ====
section
/-! DEFINITION. What happens to threads, teams and cores between slots: results and stores of threads (03 R57, 09
R172, R179), placement (14 R260, R395), swap-out and re-admission (14 R272-R275, 20 R387, R388), context switches (17
R350, R397), sampling (18 R361, R362), and the energy governor (14 R268). An event whose condition does not hold
changes nothing. -/

namespace Sys2Proof.Machine

/-! ### Results and stores of a thread -/

/-- Whether a core serves the context of the issuing thread. -/
def served (s : State) : Bool := here s s.thr.place.core s.thr.name.ctx

/-- WAITV_REREAD (10 R209): the core reads the location of a waiting WAITV again. -/
def execWaitvReread (tid : Nat) (s : State) : Host.Outcome State Fault Refusal := .next (s.reread (some tid))

/-- The oldest pending instruction completes by `act`, when `p` holds of it, and the waits it ends end. -/
def State.returnOne (s : State) (tid : Nat) (p : Pend → Bool) (act : State → State) : State :=
  s.whenThread tid (fun s => served s && (match nextPend s.thr.pending with | some (x, _) => p x | none => false))
    (fun s => (act s).endWaits)

/-- LOAD_DATA_RETURN (09 R179): a sector of a load or tile load arrives, or the data of an atomic, and the destination bits that
it holds are written; the load is complete with its last sector. -/
def execLoadDataReturn (tid : Nat) (s : State) : Host.Outcome State Fault Refusal :=
  .next (s.returnOne tid Pend.loads State.arriveSector)

/-- RESULT_WRITEBACK (03 R57): a long-latency instruction that is no load writes its results. -/
def execResultWriteback (tid : Nat) (s : State) : Host.Outcome State Fault Refusal :=
  .next (s.returnOne tid (fun p => !p.loads) State.completeOne)

/-- STORE_PERFORM (09 R172): the oldest entry of a store queue is performed, after every load older than it. -/
def execStorePerform (tid : Nat) (s : State) : Host.Outcome State Fault Refusal :=
  .next (s.whenThread tid
    (fun s => served s && (match s.thr.queue with
      | [] => false
      | e :: _ => s.thr.pending.all (fun p => !p.loads || e.ord < p.ord)))
    (fun s => match s.thr.queue with
      | [] => s
      | e :: r => (({ s with thr := { s.thr with queue := r } }.performEnt e).reread none).endWaits))

/-- GROUP_SLOT_FREE (04 R88): a retiring group's stores are performed, and its slot is freed; the finish completion of a launch
that ends with it is written where the ring has room (19 R376). -/
def execGroupSlotFree (tid : Nat) (s : State) : Host.Outcome State Fault Refusal :=
  .next (match s.thread? tid with
    | some t => if here s t.place.core t.name.ctx && !t.name.hail then (s.freeSlot tid).flushOwed 0 else s
    | none => s)

/-- PLACE_TEAM and PLACE_SPAN (14 R260, R395): one placement of a die's distributor. -/
def execPlaceTeam (die : Nat) (s : State) : Host.Outcome State Fault Refusal := .next (s.distribute die false)
def execPlaceSpan (die : Nat) (s : State) : Host.Outcome State Fault Refusal := .next (s.distribute die true)

/-! ### Swap-out and re-admission (14 R272-R275, 20 R387, R388) -/

/-- The groups of a team that hold a slot or stand in its record, in ascending group index (DEDUCED, log 61). -/
def teamGroups (s : State) (uid : Nat) : List Thread :=
  let gs := s.threads.filter (fun t => t.name.uid == uid && !t.name.hail)
  (ascending 32 (gs.map (·.name.group))).flatMap (fun g => gs.filter (fun t => t.name.group == g))

/-- Frames of a team's record (14 R274) (DEDUCED, log 61). -/
def recordFrames (spill : Nat) (k : Kernel) : Nat :=
  let group := 4 * k.width * k.vwin + 8 * k.swin + 16 * k.awin + spill + 2048 * k.nt + 4096 * k.nz + 64 + 2048
  (1024 + k.shared + k.shared / 1024 + k.groups * group + 65535) / 65536

/-- A wake condition of a group (14 R275). -/
def wakes (s : State) (t : Thread) : Bool :=
  t.held.any (fun x => x.cause != 0x3A) ||
  (match t.status with
  | .waiting (.tx i p) => (s.bar t.place.core i).phase != p || (s.bar t.place.core i).pend == 0
  | .waiting (.val key size cc sg v) => waitvHolds s t key size cc sg v
  | _ => false)

/-- A group whose wait counter has reached a threshold (14 R272). -/
def waitedLong (s : State) (n : Nat) (t : Thread) : Bool :=
  t.held.isEmpty && n + t.sched.waitSince ≤ s.clock &&
  (match t.status with | .waiting (.tx _ _) | .waiting (.val _ _ _ _ _) => true | _ => false)

/-- Swap frames that the teams being swapped out will take (14 R273, R274). -/
def framesDue (s : State) (ctx : Nat) : Nat :=
  (s.teams.filter (fun p => p.2.ctx == ctx && p.2.state == .swapping)).foldl
    (fun n p => n + recordFrames (s.ctx ctx).spillSize p.2.kernel) 0

/-- The conditions of 14 R272; a routine is one slot, and no swap-out falls inside it (16 R311). -/
def swapsOut (s : State) (uid : Nat) : Bool :=
  let tm := s.team uid
  let c := s.ctx tm.ctx
  let gs := (teamGroups s uid).filter (fun t => t.status != .retiring)
  tm.state == .resident && hereNow s tm.core tm.ctx && c.swapWait != 0 && tm.kernel.span ≤ 1 && !gs.isEmpty &&
  gs.all (waitedLong s c.swapWait) && gs.all (fun t => !wakes s t && t.routine.isNone) &&
  framesDue s tm.ctx + recordFrames c.spillSize tm.kernel ≤ c.swapFrames.length

/-- SWAP_OUT (14 R272, R273 step 1): issue to the team's groups stops. -/
def execSwapOut (team : Nat) (s : State) : Host.Outcome State Fault Refusal :=
  .next (if swapsOut s team then s.modTeam team (fun tm => { tm with state := .swapping }) else s)

/-- Copy a KiB unit of shared memory, poison with it, from one memory key to another (20 R387, 17 R345). -/
def State.copyUnit (s : State) (src dst : Nat) : State :=
  let cells := (s.mem.filter (fun c => src ≤ c.1 && c.1 < src + 1024)).map (fun (c : Host.Cell) => (c.1 - src + dst, c.2))
  let bad := (s.poisonMem.filter (fun k => src / 32 ≤ k && k < src / 32 + 32)).map (fun k => k - src / 32 + dst / 32)
  let rest := s.poisonMem.filter (fun k => k < dst / 32 || dst / 32 + 32 ≤ k)
  { s with mem := wrCells (mclear s.mem dst 1024) cells, poisonMem := bad.foldl (fun l k => setKey l k true) rest }

/-- Move a KiB unit: what it leaves reads as zero. -/
def State.moveUnit (s : State) (src dst : Nat) : State :=
  let s := s.copyUnit src dst
  { s with mem := mclear s.mem src 1024, poisonMem := s.poisonMem.filter (fun k => k < src / 32 || src / 32 + 32 ≤ k) }

/-- KiB units of a group's private stack, by their offset in the aperture (09 R170). -/
def stackUnits (c : Ctx) : List Nat := (List.range (c.spillSize / 1024 - 32)).map (fun u => 32768 + 1024 * u)

/-- The location of a waiting WAITV moves from one KiB unit to another. -/
def Thread.moveWait (t : Thread) (src dst : Nat) : Thread :=
  match t.status with
  | .waiting (.val key size cc sg v) =>
    if src ≤ key && key < src + 1024 then { t with status := .waiting (.val (key - src + dst) size cc sg v) } else t
  | _ => t

/-- The private stacks of some groups leave the scratchpad slice of their core, or come back to it (14 R273, 17 R350). -/
def State.moveStacks (s : State) (gs : List Thread) (out : Bool) : State :=
  gs.foldl (fun s t => (stackUnits (s.ctx t.name.ctx)).foldl (fun s u =>
    let here := stackKey s t.name.ctx t.place u
    let kept := privKey t.id u
    if out then (s.moveUnit here kept).onThread t.id (fun t => t.moveWait here kept) else s.moveUnit kept here) s) s

/-- The part of a core's slice that backs spill stacks reads as zero: no group of another context finds anything there (16
R292, R293). -/
def State.clearStacks (s : State) (ctx core : Nat) : State :=
  let lo := stackKey s ctx { core := core } 0
  let n := 64 * (s.ctx ctx).spillSize
  { s with mem := mclear s.mem lo n, poisonMem := s.poisonMem.filter (fun k => k < lo / 32 || (lo + n) / 32 ≤ k) }

/-- A pending instruction's accesses, with their places in memory changed. -/
def PendWork.rekey (g : Nat → Nat) (w : PendWork) : PendWork :=
  let acc (a : LaneAcc) : LaneAcc := { a with key := a.key.map g }
  match w with
  | .load d fc et accs => .load d fc et (accs.map acc)
  | .ltag d fc accs => .ltag d fc (accs.map acc)
  | .atom opn d fc et accs data cmp => .atom opn d fc et (accs.map acc) data cmp
  | .tload z n secs clear rows bad => .tload z n (secs.map (fun x => { x with key := g x.key })) clear rows bad
  | w => w

/-- A thread's queued stores and pending loads and atomics, with their places in memory changed (20 R387). -/
def Thread.rekey (g : Nat → Nat) (t : Thread) : Thread :=
  { t with pending := t.pending.map (fun p => { p with work := p.work.rekey g })
           queue := t.queue.map (fun e => { e with bytes := e.bytes.map (fun (b : Host.Cell) => (g b.1, b.2)) }) }

/-- Copy a team's shared memory and its swizzle tags from where `a` keeps them to where `b` does. -/
def State.moveShared (s : State) (a b : Team) : State :=
  (List.range a.kernel.sharedUnits).foldl (fun s u =>
    let s := s.copyUnit (teamKey a (1024 * u)) (teamKey b (1024 * u))
    { s with swz := mset 0 s.swz (swzKey b u) (mget 0 s.swz (swzKey a u)) }) s

/-- The location of a waiting WAITV in a team's shared memory moves with it (10 R209, 14 R275). -/
def State.moveWaits (s : State) (a b : Team) : State :=
  s.mapThreads (fun t => match t.status with
    | .waiting (.val key size cc sg v) =>
      if t.name.uid != a.uid then t
      else match (List.range a.kernel.sharedUnits).find? (fun u => teamKey a (1024 * u) / 1024 == key / 1024) with
        | some u => { t with status := .waiting (.val (teamKey b (1024 * u) + key % 1024) size cc sg v) }
        | none => t
    | _ => t)

/-- Steps 1 and 2 of a swap-out are done: loads and stores are complete, and no hail thread of the team runs (14 R273,
20 R388). A switch of the core that began meanwhile waits for it (17 R351). -/
def swapReady (s : State) (uid : Nat) : Bool :=
  (s.team uid).state == .swapping && here s (s.team uid).core (s.team uid).ctx &&
  (teamGroups s uid).all (fun t => t.queue.isEmpty && t.pending.all (fun p => decide (p.work = .done)) && t.status != .retiring &&
    t.routine.isNone) &&
  !s.threads.any (fun t => t.name.hail && t.name.uid == uid)

/-- SWAP_OUT_COMPLETE (14 R273 steps 3 and 4): the record is written, the resources return, and a wake condition that
came meanwhile wakes the team at once (R278). -/
def execSwapOutComplete (team : Nat) (s : State) : Host.Outcome State Fault Refusal :=
  .next (if !swapReady s team then s
    else
      let tm := s.team team
      let n := recordFrames (s.ctx tm.ctx).spillSize tm.kernel
      let free := (s.ctx tm.ctx).swapFrames
      let woken := tm.wakeDue || (teamGroups s team).any (wakes s)
      let out : Team := { tm with state := .swapped, units := [], frames := free.take n, wakeDue := false }
      let s := ((s.moveShared tm out).moveWaits tm out).moveStacks (teamGroups s team) true
      let s := s.modCtx tm.ctx (fun c => { c with swapFrames := free.drop n })
      s.setTeam team { out with state := if woken then .woken else .swapped })

/-- Give the groups of a team their places, in ascending group index; each stands ready at its abandoned instruction. -/
def State.seatGroups (s : State) (core : Nat) (gs : List Thread) (ps : List (Nat × Nat)) : State :=
  (gs.zip ps).foldl (fun s x => s.onThread x.1.id (fun t =>
    { t with place := { core := core, part := x.2.1, slot := x.2.2 }
             status := match t.status with | .waiting (.tx _ _) | .waiting (.val _ _ _ _ _) => .ready | y => y
             sched := { age := s.tick } })) s

/-- READMISSION (14 R275): a woken team takes room on the core it left, with no energy check. What hail threads of the team have
queued or pending on its record goes on in the shared memory that is written back (20 R387). -/
def execReadmission (team : Nat) (s : State) : Host.Outcome State Fault Refusal :=
  let tm := s.team team
  .next (if tm.state != .woken || !hereNow s tm.core tm.ctx then s
    else match admits s tm.core tm.kernel tm.live false with
    | none => s
    | some ps =>
      let units := ascending 1024 (pickUnits tm.kernel.sharedUnits (s.tick * 2048) (freeUnits s tm.core))
      let back : Team := { tm with state := .resident, units := units, frames := [] }
      let s := s.moveShared tm back
      let s := (List.range tm.kernel.sharedUnits).foldl (fun s u =>
        { s with mem := mclear s.mem (recordKey team (1024 * u)) 1024, swz := mdel s.swz (swzKey tm u)
                 poisonMem := s.poisonMem.filter (fun k => k < recordKey team (1024 * u) / 32 ||
                   recordKey team (1024 * u) / 32 + 32 ≤ k) }) s
      let s := s.modCtx tm.ctx (fun c => { c with swapFrames := c.swapFrames ++ tm.frames })
      let lo := recordKey team 0
      let s := s.mapThreads (fun t => if t.name.uid != team then t
        else t.rekey (fun k => if lo ≤ k && k < lo + 2 ^ 20 then teamKey back (k - lo) else k))
      let s := (s.setTeam team back).seatGroups tm.core (teamGroups s team) ps
      s.moveStacks (teamGroups s team) false)

/-! ### Context switches (17 R350, R397) -/

/-- Whether an arrival of a command or collective is held for its core, which does not serve its context (09 R197, 17 R350). -/
def Cmd.heldArrival (c : Cmd) (s : State) : Bool :=
  !here s c.core c.ctx && c.node.isNone && c.started && !c.failed && !c.spoiled && c.complete s
def Coll.heldArrival (x : Coll) (s : State) : Bool := !here s x.cmd.core x.ctx && !x.done && collReady s x

/-- Whether a context has work for a core: a team, a held arrival or a suspended first-touch fault, or a launch whose head could
be placed there (17 R397). -/
def hasWork (s : State) (core ctx : Nat) : Bool :=
  let s' := s.setCore core { s.core core with serves := some ctx, switching := none }
  s.teams.any (fun p => p.2.core == core && p.2.ctx == ctx && p.2.state != .retired) ||
  s.cmds.any (fun p => p.2.core == core && p.2.ctx == ctx && (p.2.heldArrival s || p.2.suspended.isSome)) ||
  s.colls.any (fun p => p.2.cmd.core == core && p.2.ctx == ctx && p.2.heldArrival s) ||
  (match queueHead s ctx (dieOf core) with
  | none => false
  | some (key, l) => (admits s' core l.kernel l.kernel.groups true).isSome &&
      (s'.placeTeams key (dieOf core) (max 1 l.kernel.span)).isSome)

/-- The next assigned context with work for a core that it does not serve, after context `cur` (17 R397) (DESIGN CHOICE, log 60). -/
def nextContext (s : State) (core cur : Nat) : Option Nat :=
  ((List.range 64).map (fun i => (cur + 1 + i) % 64)).find? (fun n =>
    some n != (s.core core).serves && s.hasCtx n && (s.ctx n).cores.contains core && hasWork s core n)

/-- CONTEXT_TIMESLICE (17 R397): Zephyr begins a switch of a core, after the causes that are due to its groups are delivered
(R351). In strict-partition mode a core is never switched (16 R291). -/
def execContextTimeslice (core : Nat) (s : State) : Host.Outcome State Fault Refusal :=
  let co := s.core core
  .next (if s.hub.mode || co.switching.isSome then s
    else match co.serves with
    | none => (match nextContext s core 63 with
        | some n => s.setCore core { co with switching := some n }
        | none => s)
    | some cur =>
      let mine (t : Thread) : Bool := t.place.core == core && t.name.ctx == cur
      (match nextContext s core cur with
        | some n =>
          if (!hasWork s core cur || 1000000 ≤ s.hub.gts.toNat - co.sinceGts.toNat) && !dueInRoutine s mine then
            let s := s.deliverDue mine
            s.setCore core { s.core core with switching := some n }
          else s
        | none => s))

/-- What a quiesced group waits for is abandoned, barriers excepted (17 R350 step 1, R323, 10 R208); its wait counter is
kept. -/
def Thread.quiesce (clock : Nat) (t : Thread) : Thread :=
  match t.status with
  | .waiting (.bar _ _) | .waiting (.sbar _ _) => t
  | .waiting (.tx _ _) | .waiting (.val _ _ _ _ _) =>
    { t with status := .ready, sched := { t.sched with waited := clock - t.sched.waitSince, waitSince := 0 } }
  | .waiting _ => { t with status := .ready, sched := { t.sched with waitSince := 0 } }
  | _ => t

/-- Steps 1 to 3 of 17 R350 are done on a core: no hail thread, burst or routine is left, no team is being swapped out
(R351), and every load and store of its groups is performed. -/
def coreQuiet (s : State) (core ctx : Nat) : Bool :=
  let mine := s.threads.filter (fun t => t.place.core == core && t.name.ctx == ctx)
  mine.all (fun t => !t.name.hail && t.routine.isNone && t.queue.isEmpty && t.pending.all (fun p => decide (p.work = .done))) &&
  (s.core core).buffer.isEmpty &&
  s.cmds.all (fun p => !(p.2.core == core && p.2.ctx == ctx) || p.2.asked.isEmpty) &&
  !s.teams.any (fun p => p.2.core == core && p.2.ctx == ctx && p.2.state == .swapping)

/-- The groups of resident teams of a context on a core. -/
def seated (s : State) (core ctx : Nat) : List Thread :=
  s.threads.filter (fun t => t.place.core == core && t.name.ctx == ctx && !t.name.hail && (s.team t.name.uid).state == .resident)

/-- CONTEXT_SWITCH (17 R350): the core's state is saved with its context, its spill stacks and its budget among it, and the core
serves none; swapped and woken teams stay as they are (14 R276). -/
def execContextSwitch (core : Nat) (s : State) : Host.Outcome State Fault Refusal :=
  let co := s.core core
  .next (match co.switching, co.serves with
    | some _, some cur =>
      if !coreQuiet s core cur then s
      else
        let mine := seated s core cur
        let s := (s.moveStacks mine true).clearStacks cur core
        let s := mine.foldl (fun s t => s.onThread t.id (Thread.quiesce s.clock)) s
        let keep (m : SMap TxBar) : SMap TxBar := co.bars.foldl (fun m b => mset {} m (core * 256 + b.1) b.2) m
        let s := s.modCtx cur (fun c => { c with
          savedBars := keep c.savedBars, budgets := mins (mdel c.budgets core) core (co.budget, co.budgetSet) })
        s.setCore core { co with bars := [], serves := none, sampleAt := [] }
    | _, _ => s)

/-- CONTEXT_RESTORE (17 R350): a core that serves none restores the context it is switched to. -/
def execContextRestore (core : Nat) (s : State) : Host.Outcome State Fault Refusal :=
  let co := s.core core
  .next (match co.switching, co.serves with
    | some n, none =>
      let mine := (s.ctx n).savedBars.filter (fun b => b.1 / 256 == core)
      let budget := ((s.ctx n).budgets.find? (fun b => b.1 == core)).map (·.2) |>.getD (co.budget, co.budgetSet)
      let s := s.modCtx n (fun c => { c with
        savedBars := c.savedBars.filter (fun b => b.1 / 256 != core), budgets := mdel c.budgets core })
      let s := s.moveStacks (seated s core n) false
      s.setCore core { co with switching := none, serves := some n, since := s.clock, sinceGts := s.hub.gts
                               budget := budget.1, budgetSet := budget.2
                               bars := mine.map (fun (b : Nat × TxBar) => (b.1 % 256, b.2)), sampleAt := [] }
    | _, _ => s)

/-! ### Sampling (18 R361, R362) -/

/-- NLOG of the observation word (18 R359). -/
def nlog (w : Word) : Nat := (w.extractLsb' 4 5).toNat

/-- The instruction that a thread would issue next. -/
def nextInstr (s : State) (t : Thread) : Option Instr :=
  let s := s.focus t.id
  match fetch s with
  | .error _ => none
  | .ok (p0, p1, p2, _) => (decodeParcels (t.pc.toNat % 8 == 0) p0 p1 p2).toOption

/-- Whether an instruction uses the varying datapath (01 R8). -/
def usesLanes (i : Instr) : Bool :=
  (longOf i).any (fun x => x.2.fc == 2) || (shortOf i).any (fun x => x.1 != 0 && !(0x14 ≤ x.1 && x.1 ≤ 0x18))

/-- Whether a stall reason that depends on timing can hold of a group that could issue its next slot otherwise (18 R362). -/
def mayStall (s : State) (t : Thread) (code : Nat) : Bool :=
  let i := nextInstr s t
  let op := (i.bind longOf).map (·.1)
  let opIn (l : List Nat) : Bool := op.any l.contains
  let open_ := t.pending.filter (fun p => decide (p.work ≠ .done))
  match code with
  | 3 => i.any usesLanes && s.threads.any (fun u => u.place.core == t.place.core && u.place.part == t.place.part && u.width == 64)
  | 18 => opIn [0x07, 0x08, 0xE1] || t.active == 0
  | 19 => t.stack.length ≥ 16 && (opIn [0x05, 0x06, 0x07, 0x09, 0x0A, 0x0B, 0x0C, 0x0D, 0x0E, 0xE1] || t.active == 0)
  | 4 => opIn [0x86, 0x87]
  | 5 => !open_.isEmpty
  | 6 => !open_.isEmpty && (i.any (fun i => (shortOf i).any (fun x => x.1 == 0)) || op.any isControl)
  | 7 => open_.any (fun p => p.writes.any (fun r => !RegName.checked r))
  | 9 => !t.queue.isEmpty && opIn [0x83, 0x85, 0xA1, 0xA3]
  | 10 => opIn [0x82, 0x83, 0x84, 0x85, 0xA0, 0xA1, 0xA2, 0xA3, 0xC0, 0xC1]
  | 20 => t.routine.isNone
  | 21 => t.routine.isSome
  | 24 => opIn [0xA8, 0xA9, 0xAA, 0xAB, 0xAC, 0xAD]
  | 28 => opIn [0xE2] && !open_.isEmpty
  | 29 => open_.any (fun p => match p.work with | .atom _ _ _ _ _ _ _ => true | _ => false)
  | _ => false

/-- The choice that a group's partition made in this clock (14 R269). -/
def pickNow (s : State) (t : Thread) : Option Pick :=
  let p := mget {} s.picks (8 * t.place.core + t.place.part)
  if p.clock == s.clock && p.tid != 0 then some p else none

/-- The address of the slot that a group has issued in this clock (18 R361). -/
def issuedNow (s : State) (t : Thread) : Option Pc := ((pickNow s t).filter (fun p => p.tid == t.id)).bind (·.pc)

/-- Whether a row of the table of 18 R362 applies to a group in this clock. Which of the reasons that rest on timing hold of a group
that could issue, no rule fixes (14 R398; DESIGN CHOICE, log 1). -/
def stalledBy (s : State) (t : Thread) (code : Nat) : Bool :=
  let ready := (readyThreads s t.place.core t.place.part).any (fun u => u.id == t.id) && !Config.stalls s.tick t.id
  let other := (pickNow s t).filter (fun p => p.tid != t.id)
  let op := ((nextInstr s t).bind longOf).map (·.1)
  match code with
  | 0 => (issuedNow s t).isSome
  | 1 => ready && other.any (fun p => !p.starved)
  | 2 => ready && other.any (fun p => p.starved)
  | 8 => t.status == .ready && loadsOut t ≥ 63 && op.any [0x82, 0x84, 0xA0, 0xA2, 0xA5, 0xC0, 0xC1].contains
  | 11 => (match t.status with | .waiting (.ld _) => true | _ => false)
  | 12 => (match t.status with | .waiting (.bar _ _) => true | _ => false)
  | 13 => (match t.status with | .waiting (.sbar _ _) => true | _ => false)
  | 14 => (match t.status with | .waiting (.tx _ _) => true | _ => false)
  | 15 => (match t.status with | .waiting (.val _ _ _ _ _) => true | _ => false)
  | 16 => (match t.status with | .waiting (.publ _ _ _) => true | _ => false)
  | 17 => (match t.status with | .waiting (.fence _ _ _ _) => true | _ => false)
  | 22 => !t.held.isEmpty
  | 23 => t.status == .halted
  | 25 => (s.team t.name.uid).state == .swapping
  | 26 => (s.core t.place.core).switching.isSome || (s.ctx t.name.ctx).stopping
  | 27 => t.status == .retiring
  | n => t.status == .ready && mayStall s t n && (Config.choice s.tick).testBit n

/-- The STALL byte of a group: ISSUED, or the first row of the table of 18 R362 that applies, else 31, other (18 R360). -/
def stallOf (s : State) (t : Thread) : Nat :=
  match (List.range 30).find? (stalledBy s t) with
  | some 0 => 0x80
  | some n => n
  | none => 31

/-- Count a sample, and record it unless the context is confidential (18 R361, R367). -/
def State.takeSample (s : State) (ctx : Nat) (t : Thread) : State :=
  let st := stallOf s t
  let k := if st == 0x80 then 0 else st
  let pc := (issuedNow s t).getD t.slotPc
  let s := s.modCtx ctx (fun c => { c with counters := { c.counters with
    stall := mset 0 c.counters.stall k (mget 0 c.counters.stall k + 1) } })
  if (s.ctx ctx).conf then s else s.tracePut ctx (traceRecord s 0 st t.name t.source 0 pc.toNat 0)

/-- SAMPLE (18 R361): the next resident group of a partition in rotation, in a clock whose count since the core began to serve the
context is a multiple of N, and once in it. A clock that lies inside a longer step has none (DESIGN CHOICE, log 60). -/
def execSample (core part : Nat) (s : State) : Host.Outcome State Fault Refusal :=
  let co := s.core core
  .next (match co.serves with
    | none => s
    | some ctx =>
      let w := (s.ctx ctx).obs.word
      let gs := (residentGroups s core).filter (fun t => t.place.part == part)
      let last := mget 7 co.sampled part
      let next := ((List.range 8).map (fun i => (last + 1 + i) % 8)).findSome? (fun n => gs.find? (fun t => t.place.slot == n))
      if !w.getLsbD 3 || s.clock < mget 0 co.sampleAt part || (s.clock - co.since) % 2 ^ nlog w != 0 then s
      else match next with
        | none => s
        | some t =>
          (s.setCore core { co with sampled := mset 7 co.sampled part t.place.slot
                                    sampleAt := mset 0 co.sampleAt part (s.clock + 1) }).takeSample ctx t)

/-! ### The energy governor (14 R268, 16 R291) -/

/-- The cores whose BUDGET a governor's step changes: in strict-partition mode every core's alike. -/
def governed (s : State) (core : Nat) : List Nat := if s.hub.mode then List.range 160 else [core]

/-- Whether a core's reading exceeds its limit: its own, or in strict-partition mode the device-wide one. -/
def tooHot (s : State) (core : Nat) : Bool := if s.hub.mode then !s.hub.hot.isEmpty else s.hub.hot.contains core

/-- Whether 100 µs have passed since the governor's last step on a core. -/
def governorDue (s : State) (core : Nat) : Bool :=
  match (s.core core).budgetAt with
  | none => true
  | some g => 100000 ≤ s.hub.gts.toNat - g.toNat

/-- A governor's step on some cores. -/
def State.govern (s : State) (cores : List Nat) (step : Core → Nat) : State :=
  cores.foldl (fun s c => s.setCore c { s.core c with budget := step (s.core c), budgetAt := some s.hub.gts }) s

/-- BUDGET_LOWER (14 R268). -/
def execBudgetLower (core : Nat) (s : State) : Host.Outcome State Fault Refusal :=
  .next (if tooHot s core && governorDue s core then s.govern (governed s core) (fun c => c.budget - 16) else s)

/-- BUDGET_RAISE (14 R268): up to the value Zephyr last set. -/
def execBudgetRaise (core : Nat) (s : State) : Host.Outcome State Fault Refusal :=
  .next (if !tooHot s core && governorDue s core && (s.core core).budget < (s.core core).budgetSet then
      s.govern (governed s core) (fun c => if c.budget < c.budgetSet then min (c.budget + 16) c.budgetSet else c.budget)
    else s)

end Sys2Proof.Machine
end

