-- ==== Sys2Proof/Machine/Hub.lean ====
section
/-! DEFINITION. The hub: soft errors (17 R344-R346), limits of power and temperature (19 R381, R382), the update point of
the patch slots (16 R312), register writes (19 R372, R379, R384; 16 R303), reset and link training (19 R383), and what
arrives from the host and over links (19 R371, R379, R380). -/

namespace Sys2Proof.Machine

/-! ### Soft errors (17 R344-R346) -/

/-- End the issuing group at once with a cause: what it has pending completes and is discarded, the cause slots are passed, its
record is written (17 R323, R327, R348) (DEDUCED, log 63). -/
def State.endNow (s : State) (tr : TrapInfo) (outcome : Nat) : State :=
  let len := abandonedLength s
  let s := s.completeAll
  s.endGroup (s.causeSlots tr) len outcome

/-- End some groups at once with a cause (17 R327, R348) (DEDUCED, log 63). -/
def State.endGroups (s : State) (tr : TrapInfo) (outcome : Nat) (p : Thread → Bool) : State :=
  (s.threads.filter (fun t => !t.name.hail && t.status != .retiring && p t)).foldl
    (fun s t => (s.focus t.id).endNow tr outcome) s

/-- Poison a lane of a burst that waits in a core's return buffer (17 R344). -/
def Core.poisonBurst (c : Core) (n lane : Nat) : Core :=
  { c with buffer := (c.buffer.zip (List.range c.buffer.length)).map (fun x =>
      if x.2 == n && 4 * lane < x.1.data.length then { x.1 with poison := setKey x.1.poison lane true } else x.1) }

/-- Mark a poison list of a thread. -/
def Thread.poisoned (t : Thread) (g : Poison → Poison) : Thread := { t with poison := g t.poison }

/-- SOFT_ERROR (17 R344, R346): a corrected error is counted, any other poisons its item or ends what holds it (DEDUCED, log 63). -/
def execSoftError (e : SoftError) (s : State) : Host.Outcome State Fault Refusal :=
  .next (match e with
    | .corrected ctx => s.modCtx ctx (fun c => { c with counters := { c.counters with corrected := c.counters.corrected + 1 } })
    | .sector k => { s with poisonMem := setKey s.poisonMem k true }
    | .laneWord tid slot lane => s.onThread tid (fun t => t.poisoned (fun p => { p with v := setKey p.v (64 * slot + lane) true }))
    | .sReg tid slot => s.onThread tid (fun t => t.poisoned (fun p => { p with s := setKey p.s slot true }))
    | .aReg tid slot => s.onThread tid (fun t => t.poisoned (fun p => { p with a := setKey p.a slot true }))
    | .tileRow tid n row => s.onThread tid (fun t => t.poisoned (fun p => { p with t := setKey p.t (64 * n + row) true }))
    | .accRow tid n row => s.onThread tid (fun t => t.poisoned (fun p => { p with z := setKey p.z (64 * n + row) true }))
    | .returnBuffer core burst lane => s.setCore core ((s.core core).poisonBurst burst lane)
    | .control tid => s.whenThread tid (fun s => s.thr.status != .retiring) (fun s =>
        let tr : TrapInfo := { cause := 0x63, async := true }
        if s.thr.name.hail then (let len := abandonedLength s; let s := s.completeAll; s.trapHail (s.causeSlots tr) len) else s.endNow tr 1)
    | .table ctx => s.endGroups { cause := 0x74, under := 0x64, async := true } 1 (fun t => t.name.ctx == ctx)
    | .engine cmd => s.failCmd cmd 0x65 (s.cmd cmd).watermark)

/-! ### Power and temperature (19 R381) -/

/-- A die's reading in units of 0.125 °C (19 R372). -/
def tempOf (s : State) (die : Nat) : Nat := (mget 0 s.hub.temp die).toNat

/-- MHz below 1,900 of a die's arithmetic clock. -/
def slowedBy (s : State) (die : Nat) : Nat := mget 0 s.hub.slowed die

/-- POWER_THROTTLE (19 R381): with the power above its limit every compute die's clock falls by 50 MHz (DEDUCED, log 64). -/
def execPowerThrottle (s : State) : Host.Outcome State Fault Refusal :=
  .next (if s.hub.pwrNow.toNat ≤ s.hub.pwrLimit then s
    else
      let slow (m : SMap Nat) : SMap Nat := (List.range 4).foldl (fun m d => mset 0 m d (min (mget 0 m d + 50) 1900)) m
      s.modHub (fun h => { h with slowed := slow h.slowed }))

/-- ARITHMETIC_CLOCK_RISE (19 R381): the limits hold, and a die's clock rises by 50 MHz. -/
def execArithmeticClockRise (die : Nat) (s : State) : Host.Outcome State Fault Refusal :=
  .next (if s.hub.pwrNow.toNat ≤ s.hub.pwrLimit && tempOf s die ≤ 840 then
      s.modHub (fun h => { h with slowed := mset 0 h.slowed die (mget 0 h.slowed die - 50) })
    else s)

/-- DIE_OVERTEMP (19 R381): a die above 105.0 °C, the hub die among them, runs at 475 MHz. -/
def execDieOvertemp (die : Nat) (s : State) : Host.Outcome State Fault Refusal :=
  .next (if die < 5 && tempOf s die > 840 then
      s.modHub (fun h => { h with slowed := mset 0 h.slowed die (max (mget 0 h.slowed die) 1425) })
    else s)

/-! ### Reset and bring-up (19 R383, R384; 01 R24) -/

/-- The device after a reset: memory of the host, the engine's rollback counter and the model's own counters stay. -/
def State.afterReset (s : State) (trip : Bool) : State :=
  { State.reset with
    mem := s.mem.filter (fun c => regionBase 5 ≤ c.1 && c.1 < regionBase 6)
    hub := { trip := trip, rollback := s.hub.rollback, pwrNow := s.hub.pwrNow, temp := s.hub.temp, hot := s.hub.hot }
    turn := s.turn, tick := s.tick, clock := s.clock, nextId := s.nextId }

/-- DEVICE_RESET (19 R383): the ROM's check of the Zephyr image follows the step (`State.after`). -/
def execDeviceReset (s : State) : Host.Outcome State Fault Refusal := .next (s.afterReset false)

/-- THERMAL_TRIP (19 R381): a die above 115.0 °C resets the device, with TRIP set. -/
def execThermalTrip (s : State) : Host.Outcome State Fault Refusal :=
  .next (if (List.range 5).any (fun d => tempOf s d > 920) then s.afterReset true else s)

/-- Write MODE, while STATE is 1 (19 R384). -/
def Hub.writeMode (h : Hub) (v : Bool) : Hub := if h.state == 1 then { h with mode := v } else h

/-- Write GO: 1 while STATE is 1 starts link training (19 R384). -/
def Hub.writeGo (h : Hub) (v : Bool) : Hub :=
  if v && h.state == 1 then
    { h with state := 2, ports := (List.range 12).foldl (fun m p => mset {} m p { mget {} m p with state := 1 }) h.ports }
  else h

/-- DEVSTAT_MODE and DEVSTAT_GO (19 R384). -/
def execDevstatMode (v : Bool) (s : State) : Host.Outcome State Fault Refusal := .next (s.modHub (fun h => h.writeMode v))
def execDevstatGo (v : Bool) (s : State) : Host.Outcome State Fault Refusal := .next (s.modHub (fun h => h.writeGo v))

/-- LINK_TRAINING (19 R383 step 6, R380; 01 R24): the ports of `up` are up, every other is down, and GTS steps forward to
the largest value of the domain. -/
def execLinkTraining (gtsMax : Word) (up : BitVec 12) (s : State) : Host.Outcome State Fault Refusal :=
  .next (if s.hub.state != 2 then s
    else
      let port (m : SMap Port) (p : Nat) : Port :=
        if up.getLsbD p then { mget {} m p with state := 2, peer := Config.peer p } else { mget {} m p with state := 0 }
      s.modHub (fun h => { h with
        state := 3, gts := BitVec.ofNat 64 (max h.gts.toNat gtsMax.toNat)
        ports := (List.range 12).foldl (fun m p => mset {} m p (port m p)) h.ports }))

/-! ### Register writes (19 R372, R379, R382; 16 R303) -/

/-- PWRCTL (19 R382): a LIMIT out of its range is ignored, LOCK holds until reset (DEDUCED, log 64). -/
def Hub.writePwrctl (h : Hub) (v : Word) : Hub :=
  let l := (v.extractLsb' 0 12).toNat
  { h with pwrLimit := if h.pwrLock || l < 600 || l > 2400 then h.pwrLimit else l, pwrLock := h.pwrLock || v.getLsbD 12 }

/-- PWRCTL_WRITE (19 R382). -/
def execPwrctlWrite (v : Word) (s : State) : Host.Outcome State Fault Refusal := .next (s.modHub (fun h => h.writePwrctl v))

/-- The bits of a fence window's register that hold what is written: CTRL's Reserved bits read zero, and so do the device
fields of the UCIe port (16 R303). -/
def fenceMask (port reg : Nat) : Word :=
  if reg != 0 then 0xFFFFFFFFFFFFFFFF else if port == 12 then 0xE0000000 else 0xE0FFFFFF

/-- FENCE_WINDOW_WRITE (16 R303, 19 R374): a register of the window that FSEL selects; a locked window changes nothing. -/
def execFenceWindowWrite (port win reg : Nat) (v : Word) (s : State) : Host.Outcome State Fault Refusal :=
  .next (if port > 12 || win > 15 || reg > 3 then s
    else s.modHub (fun h =>
      let h := { h with fsel := port + 16 * win }
      if (fenceReg h port win 0).getLsbD 30 then h
      else { h with fence := mset 0 h.fence (fenceKey port win reg) (v &&& fenceMask port reg) }))

/-- DEVNUM_WRITE (19 R379). -/
def execDevnumWrite (v : BitVec 12) (s : State) : Host.Outcome State Fault Refusal :=
  .next (s.modHub (fun h => { h with devnum := v }))

/-- Whether a command entry lies between CQ_HEAD and CQ_TAIL (19 R372). -/
def ringOwned (h : Hub) (n : Nat) : Bool := (n + 256 - h.cqHead) % 256 < (h.cqTail + 256 - h.cqHead) % 256

/-- REGISTER_WRITE (19 R372): an aligned 64-bit write of the host to BAR0; every other register is read-only. -/
def execRegisterWrite (off : Nat) (v : Word) (s : State) : Host.Outcome State Fault Refusal :=
  .next (if off < 0x4000 then
      (if off % 8 != 0 || ringOwned s.hub (off / 64) then s
       else s.modHub (fun h => { h with cq := mset 0 h.cq (off / 8) v }))
    else if off == 0x6000 then s.modHub (fun h => { h with cqTail := v.toNat % 256 })
    else if off == 0x6018 then (s.modHub (fun h => { h with cplHead := v.toNat % 256 })).flushOwed 0
    else if off == 0x6020 then s.modHub (fun h => (h.writeMode (v.getLsbD 6)).writeGo (v.getLsbD 5))
    else if off == 0x6100 then s.modHub (fun h => h.writePwrctl v)
    else s)

/-! ### The update point (16 R312) -/

/-- SLOT_UPDATE_POINT (16 R312, R316): no routine runs; the accepted image's entries take effect everywhere, and its
command completes. -/
def execSlotUpdatePoint (s : State) : Host.Outcome State Fault Refusal :=
  .next (if s.hub.staged.isEmpty || cplFull s.hub || s.threads.any (fun t => t.routine.isSome) then s
    else
      let s := s.modHub (fun h => { h with
        solder := h.staged.foldl (fun m x => mset {} m x.1 x.2) h.solder, staged := [] })
      s.putCpl s.hub.stagedTag 0 0 0 0)

/-! ### Accesses of the host and of other devices (19 R371, R380; 16 R298, R300) -/

/-- Keys of some bytes of a context's global window, for a reader or writer outside the device's threads; `tag` is the
pointer's tag when tags are checked. -/
def windowKeys (s : State) (ctx va n : Nat) (write : Bool) (tag : Option (BitVec 4)) : Except Nat (List Nat) :=
  ((List.range n).mapM (fun i =>
    match locate (va + i) with
    | .global a =>
      if isRemote a then .error 0x32
      else (match translate s ctx a with
        | .error c => .error c
        | .ok (pa, e) => (match pageCheck s [] e pa 1 write tag with | some c => .error c | none => .ok (mainKey pa)))
    | _ => .error 0x32 : Nat → Except Nat Nat))

/-- CXL_MEM_ACCESS (19 R371): 64 bytes of a host window are read or written; a refused access changes nothing. -/
def execCxlMemAccess (win off : Nat) (wr : Option (BitVec 512)) (s : State) : Host.Outcome State Fault Refusal :=
  let (ctx, va, n) := mget (0, 0, 0) s.hub.windows win
  .next (if s.hub.state != 3 || off % 64 != 0 || n < off + 64 || !s.hasCtx ctx || (s.ctx ctx).conf then s
    else match windowKeys s ctx (va + off) 64 wr.isSome none with
    | .error _ => s
    | .ok ks =>
      (match wr with
      | some v => (s.store (ks.zip ((List.range 64).map (fun i => v.extractLsb' (8 * i) 8)))).reread none
      | none => s.modHub (fun h => { h with cxlData := BitVec.ofNat 512 (ofBytes (ks.map (rdByte s.mem))) })))

/-- The time at which a message was sent (01 R25). -/
def sentAt (r : Remote) : Word :=
  match r with
  | .write stamp _ _ _ _ => stamp
  | .contribution stamp _ _ _ _ _ _ _ => stamp

/-- REMOTE_TRANSACTION (19 R379, R380): a sector of a peer's copy, checked as an access of this device's context of the same
number, or a peer's contribution to a collective. A message arrives when GTS has passed the stamp it was sent with (01 R25). -/
def execRemoteTransaction (r : Remote) (s : State) : Host.Outcome State Fault Refusal :=
  .next (if s.hub.state != 3 || s.hub.gts.toNat ≤ (sentAt r).toNat then s
    else match r with
    | .write _ ctx va tag bytes =>
      let s := s.noteFlits (Config.choice (s.tick + 2) % 12)
      (match bytes.mapM (fun (b : Nat × Byte) => (windowKeys s ctx (va + b.1) 1 true (some tag)).map (fun ks => (ks.headD 0, b.2))) with
      | .error _ => s
      | .ok cells => if s.hasCtx ctx then (s.store cells).reread none else s)
    | .contribution _ ctx comm n dev desc data poison =>
      let s := s.noteFlits (portTo s.hub dev)
      if s.contribs.any (fun c => c.ctx == ctx && c.comm == comm && c.seqNo == n && c.dev == dev) then s
      else { s with contribs := s.contribs ++
        [{ ctx := ctx, comm := comm, seqNo := n, dev := dev, desc := desc, data := data, poison := poison }] })

/-- Whether a collective uses a port: some other member is reached by it. -/
def collUses (s : State) (x : Coll) (port : Nat) : Bool :=
  (commOf s x.ctx x.comm).any (fun d => d != s.hub.devnum.toNat && portTo s.hub d == port)

/-- LINK_FAILURE (19 R380): the port is failed, its collectives end with CODE 4, its copies with 0x50 under 0x3D. -/
def execLinkFailure (port : Nat) (s : State) : Host.Outcome State Fault Refusal :=
  .next (if s.hub.state != 3 || port > 11 then s
    else
      let colls := (s.colls.filter (fun p => !p.2.done && collUses s p.2 port)).map (·.2)
      let cmds := (s.cmds.filter (fun p => p.2.started && !p.2.failed && !p.2.done && !p.2.sectorsDone &&
        (match p.2.device with | some d => portTo s.hub d == port | none => false))).map (·.1)
      let s := s.modHub (fun h => { h with ports := mset {} h.ports port { mget {} h.ports port with state := 3 } })
      let s := colls.foldl (fun s x => s.endColl x 4 0 true) s
      cmds.foldl (fun s k => s.failCmd k 0x3D (s.cmd k).watermark) s)

/-! ### What passes with every step -/

/-- Time, the readings and the ROM's check after a step, and who moves next (01 R24, 19 R372, R383; logs 1, 5, 12). Whatever wrote
memory in the step, a waiting WAITV reads its location again (10 R209). -/
def State.after (s : State) : State :=
  let n := s.tick + 1
  let s := s.reread none
  { s with
    tick := n, clock := s.clock + (Config.clocks n).toNat, turn := Config.agenda n
    hub := { s.hub with
      gts := if s.hub.state == 0 then 0 else s.hub.gts + (Config.elapsed n).setWidth 64
      state := if s.hub.state == 0 then (if Config.romVerifies n then 1 else 7) else s.hub.state
      pwrNow := Config.power n
      temp := (List.range 5).foldl (fun m d => mset 0 m d (Config.temperature n d)) []
      hot := Config.hotCores n } }

end Sys2Proof.Machine
end

