-- ==== Sys2Proof/Machine/Zephyr.lean ====
section
/-! DEFINITION. What Zephyr's commands share (19 R373-R376): operands and completions, host buffers behind the fence,
frames and translation tables (16 R291-R297), images (02 R41-R44), and quiescing and stopping a context (17 R350). -/

namespace Sys2Proof.Machine

/-! ### Entries and completions (19 R373, R375) -/

/-- An operand of `n` bytes at byte `off` of the operands, and its bytes. -/
def opNum (e : CmdEntry) (off n : Nat) : Nat := (e.opnd.toNat >>> (8 * off)) % 2 ^ (8 * n)

/-- No operand byte outside the listed places is set (19 R375) (DEDUCED, log 58). -/
def reservedClear (e : CmdEntry) (used : List (Nat × Nat)) : Bool :=
  (List.range 56).all (fun i => used.any (fun u => u.1 ≤ i && i < u.1 + u.2) || opNum e i 1 == 0)

/-- The context a command names. -/
def cmdCtx (e : CmdEntry) : Nat := e.ctx.toNat

/-- What a command comes to: a refusal's reason, or the new state and its results. -/
abbrev Answer := Except Nat (State × Word × Word)

/-- Complete a command with its answer; a refused one has no effect (19 R373, R378), but that a transfer which the fence of UCIe
refuses advances its counter (16 R303). -/
def State.answer (s : State) (e : CmdEntry) (a : Answer) : State :=
  match a with
  | .error r => (if r == 0x30 then s.countRefusal 12 else s).putCpl e.tag 1 r 0 0
  | .ok (s', r0, r1) => s'.putCpl e.tag 0 0 r0 r1

/-- Run a command that names a context, or (`free`) none: REASON 0x10 for a Reserved operand or for a CTX that names no
context (19 R375). -/
def State.command (s : State) (e : CmdEntry) (free : Bool) (used : List (Nat × Nat)) (body : State → Answer) : State :=
  s.answer e (if (free || s.hasCtx (cmdCtx e)) && reservedClear e used then body s else .error 0x10)

/-- Whether Zephyr reaches `n` bytes of host memory (19 R373, 16 R303). -/
def hostOk (s : State) (p n : Nat) : Bool := n == 0 || fencePasses s.hub 12 none 0 p n

/-- Read a host buffer, or REASON 0x30. -/
def hostRead (s : State) (p n : Nat) : Except Nat (List Byte) :=
  if hostOk s p n then .ok (rdBytes s.mem (hostKey p) n) else .error 0x30

/-- Write a host buffer that the fence admits. -/
def State.hostWrite (s : State) (p : Nat) (bs : List Byte) : State := s.store (cellsAt (hostKey p) bs)

/-! ### Frames (01 R11, 16 R291, R292) -/

/-- The first frame of the tag carve-out, the top 4 GiB of main memory, and the first of Zephyr's reserve below it: the frames
below that are the pool of the contexts (01 R11; DESIGN CHOICE, log 10). -/
def carveFrame : Nat := 2 ^ 22 - 2 ^ 16
def poolTop : Nat := carveFrame - Config.reserve

/-- Whether a frame can go to a context with these cores: no one owns it, and in strict-partition mode it lies on a
channel under one of the cores (16 R291, 01 R10) (DEDUCED, log 66). -/
def frameFree (s : State) (cores : List Nat) (f : Nat) : Bool :=
  f < poolTop && (mget {} s.owners (frameUnit f)).who == 0 && (!s.hub.mode || cores.contains (f % 160))

/-- Some `n` frames, any of which serve (DESIGN CHOICE, log 10); `none` when they are exhausted. -/
def takeFrames (s : State) (cores : List Nat) (n seed : Nat) (got : List Nat) : Option (List Nat) :=
  match n with
  | 0 => some got
  | n + 1 =>
    let ok (f : Nat) : Bool := frameFree s cores f && !got.contains f
    let w := Config.choice seed % 2 ^ 22
    match if ok w then some w else (List.range (2 ^ 22)).find? ok with
    | none => none
    | some f => takeFrames s cores n (seed + 1) (got ++ [f])

/-- Ascending order of some frames. -/
def insertAsc (l : List Nat) (x : Nat) : List Nat :=
  match l with
  | [] => [x]
  | y :: r => if x < y then x :: y :: r else y :: insertAsc r x
def sortAsc (l : List Nat) : List Nat := l.foldl insertAsc []

/-! ### Translation tables (16 R294-R297) -/

/-- A valid table entry that names a frame of Zephyr's reserve; which one, no program can see (DESIGN CHOICE, log 10). -/
def tableEntry (seed : Nat) : Word :=
  (BitVec.ofNat 22 (poolTop + Config.choice seed % max 1 Config.reserve)).setWidth 64 <<< 16 ||| 1

/-- The level-2 entry with CMP and META (16 R296). -/
def level2 (seed cmp area : Nat) : Word :=
  tableEntry seed ||| (BitVec.ofNat 3 cmp).setWidth 64 <<< 1 |||
    (if cmp == 0 then (0 : Word) else (BitVec.ofNat 17 area).setWidth 64 <<< 40)

/-- CMP and META of a level-2 entry. -/
def cmpOf (e : Word) : Nat := (e.extractLsb' 1 3).toNat
def metaOf (e : Word) : Nat := (e.extractLsb' 40 17).toNat

/-- Whether a level-2 entry stands with a scheme. -/
def cmpIs (e : Word) (cmp : Nat) : Bool := e.getLsbD 0 && cmpOf e == cmp

/-- Whether 2 MiB of Zephyr's reserve hold no region's metadata (16 R296). -/
def metaFree (s : State) (m : Nat) : Bool :=
  poolTop ≤ 32 * m && 32 * m + 32 ≤ carveFrame &&
  !s.ctxs.any (fun c => c.2.l2.any (fun x => x.2.getLsbD 0 && cmpOf x.2 != 0 && metaOf x.2 == m))

/-- Some `n` metadata areas, any of which serve (DESIGN CHOICE, log 10); `none` when the reserve has no room. -/
def takeMetas (s : State) (n seed : Nat) (got : List Nat) : Option (List Nat) :=
  match n with
  | 0 => some got
  | n + 1 =>
    let ok (m : Nat) : Bool := metaFree s m && !got.contains m
    let w := Config.choice seed % 2 ^ 17
    match if ok w then some w else (List.range (2 ^ 17)).find? ok with
    | none => none
    | some m => takeMetas s n (seed + 1) (got ++ [m])

/-- Zero metadata areas: a metadata byte of zero says that its burst is stored plainly, and so the model stores every one (16
R296; DESIGN CHOICE, log 10). -/
def State.zeroMetas (s : State) (ms : List Nat) : State :=
  ms.foldl (fun s m => { s with
    mem := mclear s.mem (m * 2 ^ 21) (2 ^ 21)
    poisonMem := s.poisonMem.filter (fun k => k < m * 2 ^ 16 || (m + 1) * 2 ^ 16 ≤ k) }) s

/-- Write leaf entries for a list of page numbers, with the directories over them; `areas` gives a region's metadata. -/
def Ctx.mapLeaves (c : Ctx) (seed cmp : Nat) (areas : SMap Nat) (es : List (Nat × Word)) : Ctx :=
  es.foldl (fun c x =>
    let k1 := x.1 / 2 ^ 26
    let k2 := x.1 / 2 ^ 13
    let old := mget 0 c.l2 k2
    { c with
      l1 := if (mget 0 c.l1 k1).getLsbD 0 then c.l1 else mset 0 c.l1 k1 (tableEntry (seed + k1))
      l2 := if cmpIs old cmp then c.l2 else mset 0 c.l2 k2 (level2 (seed + k2) cmp (mget 0 areas k2))
      leaf := mset 0 c.leaf x.1 x.2 }) c

/-- Whether the pages from `p` on are unlisted, and in no compressed region (16 R296). -/
def pagesFree (c : Ctx) (p n : Nat) : Bool :=
  !c.leaf.any (fun x => p ≤ x.1 && x.1 < p + n) &&
  !c.l2.any (fun x => x.2.getLsbD 0 && cmpOf x.2 != 0 && p < (x.1 + 1) * 2 ^ 13 && x.1 * 2 ^ 13 < p + n)

/-- The first page of `n` unlisted pages of the global window, any of which serve (19 R375; DESIGN CHOICE, log 10). -/
def freePages (c : Ctx) (n seed : Nat) : Nat :=
  let lo := 0x4000000000 / 65536
  let w := lo + Config.choice seed % 2 ^ 36
  if pagesFree c w n && w + n ≤ 2 ^ 38 then w
  else ((lo :: (c.leaf.map (·.1 + 1) ++ c.l2.map (fun x => (x.1 + 1) * 2 ^ 13))).find? (fun p =>
    lo ≤ p && pagesFree c p n)).getD lo

/-! ### Images (02 R41-R44) -/

/-- A kernel table entry (02 R42). -/
def kernelOf (bs : List Byte) : Kernel :=
  let f := fieldOf bs
  { entry := f 0 8, codeBytes := f 8 4, kind := f 0x10 1, width := f 0x11 1, energy := f 0x12 1, handles := f 0x13 1
    lanes := f 0x14 4, span := f 0x18 4, shared := f 0x1C 4, args := f 0x20 2, nt := f 0x22 1 % 16, nz := f 0x22 1 / 16 % 8
    vwin := f 0x24 2, swin := f 0x26 1, awin := f 0x27 1 }

/-- The entries of a table of an image. -/
def tableOf (bs : List Byte) (off n size : Nat) : List (List Byte) :=
  (List.range n).map (fun i => (bs.drop (off + size * i)).take size)

/-- A section: KIND, ALIGN, OFFSET, SIZE (02 R43). -/
def sectionOf (bs : List Byte) : Nat × Nat × Nat × Nat := (fieldOf bs 0 4, fieldOf bs 4 4, fieldOf bs 8 8, fieldOf bs 16 8)

def imageKernels (bs : List Byte) : List (List Byte) := tableOf bs (fieldOf bs 0x1C 4) (fieldOf bs 0x18 4) 64
def imageSections (bs : List Byte) : List (Nat × Nat × Nat × Nat) :=
  (tableOf bs (fieldOf bs 0x24 4) (fieldOf bs 0x20 4) 24).map sectionOf
def imageNeeds (bs : List Byte) : List (Nat × Nat × Nat) :=
  (tableOf bs (fieldOf bs 0x34 4) (fieldOf bs 0x30 4) 4).map (fun x => (fieldOf x 0 1, fieldOf x 1 1, fieldOf x 2 1))

/-- Bytes from `a` lie in a section of a kind. -/
def inSection (ss : List (Nat × Nat × Nat × Nat)) (kind a n : Nat) : Bool :=
  ss.any (fun x => x.1 == kind && x.2.2.1 ≤ a && a + n ≤ x.2.2.1 + x.2.2.2)

/-- No two ranges of a list meet. -/
def apart (l : List (Nat × Nat)) : Bool :=
  match l with
  | [] => true
  | x :: r => r.all (fun y => !rangesMeet x.1 x.2 y.1 y.2) && apart r

/-- Step 4 of 02 R44. A table count outside its range of R41, a reserved KIND and a bad ALIGN of a section are counted to it, the
steps naming no other reason for them; a NAME lies in a string section when the byte it names does, wherever its terminator
lies (DEDUCED, log 74). -/
def tablesOk (bs : List Byte) : Bool :=
  let f := fieldOf bs
  let n := bs.length
  let ss := imageSections bs
  1 ≤ f 0x18 4 && f 0x18 4 ≤ 1024 && f 0x1C 4 + 64 * f 0x18 4 ≤ n &&
  1 ≤ f 0x20 4 && f 0x20 4 ≤ 4096 && f 0x24 4 + 24 * f 0x20 4 ≤ n &&
  f 0x28 4 ≤ 4096 && f 0x2C 4 + 8 * f 0x28 4 ≤ n && f 0x30 4 ≤ 1024 && f 0x34 4 + 4 * f 0x30 4 ≤ n &&
  ss.all (fun x => x.1 ≤ 3 && (List.range 11).any (fun i => x.2.1 == 4 * 2 ^ i) && x.2.2.1 % max 1 x.2.1 == 0 &&
    x.2.2.1 + x.2.2.2 ≤ n) &&
  apart (ss.map (fun x => (x.2.2.1, x.2.2.2))) &&
  (imageKernels bs).all (fun k => inSection ss 0 (fieldOf k 0 8) (fieldOf k 8 4) && inSection ss 2 (fieldOf k 0x0C 4) 1)

/-- Step 5 of 02 R44, R42, R37. Bit 7 of TILES is Reserved and ignored (00 R3), in a handler's entry too (DEDUCED, log 74). -/
def kernelOk (bs : List Byte) : Bool :=
  let k := kernelOf bs
  k.entry % 8 == 0 &&
  if k.kind == 0 then
    (k.width == 16 || k.width == 32 || k.width == 64) && k.energy ≤ 7 && k.handles ≤ 64 &&
    1 ≤ k.lanes && k.lanes ≤ 32 * k.width && 1 ≤ k.span && k.span ≤ 4096 && k.shared % 1024 == 0 && k.shared ≤ 1048576 &&
    k.args % 8 == 0 && k.args ≤ 4096 && k.nt ≤ 8 && k.nz ≤ 4 && 1 ≤ k.vwin && k.vwin ≤ 128 &&
    3 ≤ k.swin && k.swin ≤ 64 && 2 ≤ k.awin && k.awin ≤ 32
  else
    k.kind == 1 && k.width == 64 && k.energy == 0 && k.handles == 0 && k.lanes == 64 && k.span == 1 && k.shared == 0 &&
    k.args == 0 && k.nt == 0 && k.nz == 0 && 1 ≤ k.vwin && k.vwin ≤ 16 && 3 ≤ k.swin && k.swin ≤ 16 &&
    1 ≤ k.awin && k.awin ≤ 4

/-- Step 6 of 02 R44. -/
def kernelAdmissible (k : Kernel) : Bool :=
  k.kind != 0 || (k.cost ≤ 256 && k.groups * (2048 * k.nt + 4096 * k.nz) ≤ 8 * 65536 && k.shared ≤ 1048576)

/-- Bytes of an image with DIGEST cleared. -/
def undigested (bs : List Byte) : List Byte := bs.take 0x40 ++ List.replicate 64 0 ++ bs.drop 0x80

/-- The checks of 02 R44 in their order: the first reason. An image too short for its header has none, and fails step 1 (DEDUCED,
log 74). -/
def imageCheck (s : State) (ctx : Nat) (bs : List Byte) : Option Nat :=
  let f := fieldOf bs
  if bs.length < 128 || f 0 4 != 0x46524F47 || f 0x0C 4 != 128 || f 0x10 8 != bs.length then some 0x01
  else if sha3 (undigested bs) != (bs.drop 0x40).take 64 then some 0x02
  else if f 4 2 != 2 then some 0x03
  else if !tablesOk bs then some 0x04
  else if !(imageKernels bs).all kernelOk then some 0x05
  else if !(imageKernels bs).all (fun k => kernelAdmissible (kernelOf k)) then some 0x06
  else if !needsMet s ctx (f 6 2) (imageNeeds bs) then some 0x07
  else none

/-- The leaf bits of a page of an image: XN without code, RO without data (19 R375). -/
def imagePage (ss : List (Nat × Nat × Nat × Nat)) (i : Nat) : Word :=
  let has (kind : Nat) : Bool := ss.any (fun x => x.1 == kind && rangesMeet (65536 * i) 65536 x.2.2.1 x.2.2.2)
  1 ||| (if has 0 then 0 else 4) ||| (if has 1 then 0 else 2)

/-! ### Quiescing and stopping a context (17 R350) -/

/-- Steps 1 and 2 of 17 R350 are done for a context: no hail thread, burst, routine or swap-out of it is left (DEDUCED, log 51). -/
def ctxQuiet (s : State) (ctx : Nat) : Bool :=
  s.threads.all (fun t => t.name.ctx != ctx || (!t.name.hail && t.routine.isNone)) &&
  s.cores.all (fun c => c.2.serves != some ctx || c.2.buffer.isEmpty) &&
  s.cmds.all (fun p => p.2.ctx != ctx || p.2.asked.isEmpty) &&
  !s.teams.any (fun p => p.2.ctx == ctx && p.2.state == .swapping)

/-- Step 3: loads complete, store queues drain; waits of resident teams are abandoned, barriers excepted (R323), and swapped and
woken teams stay as they are (14 R276). -/
def State.settleCtx (s : State) (ctx : Nat) : State :=
  ((s.threads.filter (fun t => t.name.ctx == ctx)).foldl
    (fun s t => (s.focus t.id).release.modThr (fun t =>
      if (s.team t.name.uid).state == .resident then t.quiesce s.clock else t)) s).reread none

/-- Step 1 of 17 R350 for some contexts: the causes that are due to their groups are delivered (R351), and issue to them stops; a
context with a cause due to a group inside a routine waits for the routine's end (DEDUCED, log 51). -/
def State.beginStop (s : State) (ctxs : List Nat) : State :=
  ctxs.foldl (fun s c =>
    let mine (t : Thread) : Bool := t.name.ctx == c
    if (s.ctx c).stopping || dueInRoutine s mine then s
    else (s.deliverDue mine).modCtx c (fun c => { c with stopping := true })) s

/-- Whether issue to a context's groups has stopped and steps 1 and 2 are done for it. -/
def stopDone (s : State) (ctx : Nat) : Bool := (s.ctx ctx).stopping && ctxQuiet s ctx

/-- A command that must wait for a context to be quiet is taken again (DEDUCED, log 51). -/
def State.takeAgain (s : State) : State := s.modHub (fun h => { h with cqHead := (h.cqHead + 255) % 256 })

/-- A barrier that no team and no command holds. -/
def TxBar.freed (b : TxBar) : TxBar := { b with refs := 0, held := false }

/-- Stop a quiet context (19 R375, 17 R350, R348): its groups end with cause 0x74, its engines' work ends without
arrival, and every launch finishes with REASON 0x74. The completion ring keeps room for the command's own completion (R372). -/
def State.stopQuiet (s : State) (ctx : Nat) : State :=
  let s := s.settleCtx ctx
  let s := { s with launches := s.launches.map (fun (p : Nat × Launch) =>
    (p.1, if p.2.ctx == ctx && !p.2.finished then { p.2 with reason := 0x74, next := p.2.teams, node := none } else p.2)) }
  let s := (s.colls.filter (fun p => p.2.ctx == ctx && !p.2.done)).foldl (fun s p => s.endColl p.2 4 0 false) s
  let s := { s with
    cmds := s.cmds.filter (fun p => p.2.ctx != ctx)
    nodes := s.nodes.map (fun (p : Nat × Node) =>
      (p.1, if p.2.ctx == ctx && p.2.kind.isSome && !(p.2.failed && p.2.started) then { gen := nextGen p.2.gen } else p.2)) }
  let s := s.endGroups { cause := 0x74, async := true } 3 (fun t => t.name.ctx == ctx)
  let s := (s.threads.filter (fun t => t.name.ctx == ctx)).foldl (fun s t => s.freeSlot t.id) s
  let s := (s.launches.filter (fun p => p.2.ctx == ctx)).foldl (fun s p => s.finishLaunch p.1) s
  let s := { s with cores := s.cores.map (fun (p : Nat × Core) =>
    (p.1, if p.2.serves == some ctx then { p.2 with bars := p.2.bars.map (fun (b : Nat × TxBar) => (b.1, b.2.freed)) } else p.2)) }
  (s.modCtx ctx (fun c => { c with stopping := false, savedBars := c.savedBars.map (fun (b : Nat × TxBar) => (b.1, b.2.freed)) })).flushOwed 1

/-- Zero and free everything a context owns, and forget it (19 R375, 16 R290, R292). -/
def State.forgetCtx (s : State) (ctx : Nat) : State :=
  let c := s.ctx ctx
  let units := (s.owners.filter (fun o => o.2.who == ownerCtx ctx)).map (·.1)
  let s := s.assignUnits (units ++ c.swapFrames.map frameUnit) 0
  let s := (s.cores.filter (fun k => k.2.serves == some ctx)).foldl (fun s k => s.clearStacks ctx k.1) s
  let lo := sharedKey ctx 0 0
  let core (k : Core) : Core :=
    if k.serves == some ctx then
      { k with serves := none, bars := [], switching := if k.switching == some ctx then none else k.switching }
    else if k.switching == some ctx then { k with switching := none } else k
  { s with
    ctxs := mdel s.ctxs ctx
    mem := mclear s.mem lo (160 * 2 ^ 20), swz := mclear s.swz (ctx * 160 * 1024) (160 * 1024)
    poisonMem := s.poisonMem.filter (fun k => k < lo / 32 || (lo + 160 * 2 ^ 20) / 32 ≤ k)
    cores := s.cores.map (fun (p : Nat × Core) => (p.1, core p.2))
    teams := s.teams.filter (fun p => p.2.ctx != ctx)
    launches := s.launches.filter (fun p => p.2.ctx != ctx || p.2.owed)
    nodes := s.nodes.map (fun (p : Nat × Node) => (p.1, if p.2.ctx == ctx && p.2.kind.isSome then { gen := nextGen p.2.gen } else p.2))
    colls := s.colls.filter (fun p => p.2.ctx != ctx), contribs := s.contribs.filter (fun x => x.ctx != ctx)
    hub := { s.hub with windows := s.hub.windows.filter (fun w => w.2.1 != ctx) } }

/-- The group that a command names (19 R375). -/
def findGroup (s : State) (ctx launch team group : Nat) : Option Thread :=
  s.threads.find? (fun t => !t.name.hail && t.status != .retiring && t.name.ctx == ctx && t.name.launch == launch &&
    t.name.team == team && t.name.group == group)

end Sys2Proof.Machine
end

