-- ==== Sys2Proof/Machine/Commands.lean ====
section
/-! DEFINITION. The host commands that make, change and run contexts (19 R375-R378, R396): contexts, pages, images,
launches, graphs, handles, tags, budgets, groups of devices, host windows and observation. -/

namespace Sys2Proof.Machine

/-! ### Contexts -/

/-- The cores of CREATE_CTX's mask, bit 40d + c. -/
def maskCores (m : Nat) : List Nat := (List.range 160).filter (fun i => m.testBit i)

/-- Idle cores of a new context begin to serve it (17 R397). -/
def State.joinCores (s : State) (ctx : Nat) (cores : List Nat) : State :=
  cores.foldl (fun s c =>
    let co := s.core c
    if co.serves.isNone && co.switching.isNone then
      s.setCore c { co with serves := some ctx, since := s.clock, sinceGts := s.hub.gts }
    else s) s

/-- The slots that a confidential context of number `n` freezes (16 R313). -/
def freezes (s : State) (n : Nat) : List Nat :=
  (List.range 32).filter (fun i =>
    let sl := mget {} s.hub.solder i
    sl.en && sl.confOk && sl.ctxMask.getLsbD n)

/-- CREATE_CTX (19 R375, 16 R289, R305, R313). -/
def doCreateCtx (e : CmdEntry) (s : State) : Answer :=
  let w := opNum e 0 2
  let wait := opNum e 2 4
  let cores := maskCores (opNum e 10 20)
  let conf := w.testBit 15
  let pool := opNum e 6 4
  let swap := opNum e 38 4
  let n := freshNumber s.tick 64 (s.ctxs.map (·.1))
  if w % 4096 != 0 || (wait != 0 && wait < 1024) || swap > 65535 then .error 0x10
  else if conf && !hostOk s (opNum e 30 8) 1568 then .error 0x30
  else if n ≥ 64 || (s.hub.mode && cores.any (fun c => s.ctxs.any (fun x => x.2.cores.contains c))) then .error 0x11
  else match takeFrames s cores (pool + swap) (s.tick * 2 ^ 32) [] with
  | none => .error 0x12
  | some fs =>
    let mine := sortAsc (fs.take pool)
    let theirs := sortAsc (fs.drop pool)
    let key := if conf then Config.mlKemDecap (rdBytes s.mem (hostKey (opNum e 30 8)) 1568) else 0
    let c : Ctx := { word := BitVec.ofNat 64 (w + n), swapWait := wait, cores := cores, poolFrames := mine, swapFrames := theirs
                     key := key, frozen := if conf then freezes s n else [] }
    let s := (s.assignUnits (mine.map frameUnit) (ownerCtx n)).assignUnits (theirs.map frameUnit) 1
    .ok ((s.setCtx n c).joinCores n cores, BitVec.ofNat 64 n, 0)

def execCreateCtx (e : CmdEntry) (s : State) : Host.Outcome State Fault Refusal :=
  .next (s.command e true [(0, 2), (2, 4), (6, 4), (10, 20), (30, 8), (38, 4)] (doCreateCtx e))

/-- A command that first quiesces its context (17 R350): refused, taken again while the context is not quiet, or run. -/
def State.quietCommand (s : State) (e : CmdEntry) (body : State → State) : State :=
  if !s.hasCtx (cmdCtx e) || !reservedClear e [] then s.answer e (.error 0x10)
  else
    let s := s.beginStop [cmdCtx e]
    if !stopDone s (cmdCtx e) then s.takeAgain else s.answer e (.ok (body s, 0, 0))

/-- DESTROY_CTX (19 R375): the context is stopped, and what it owns is zeroed and freed. -/
def execDestroyCtx (e : CmdEntry) (s : State) : Host.Outcome State Fault Refusal :=
  .next (s.quietCommand e (fun s => (s.stopQuiet (cmdCtx e)).forgetCtx (cmdCtx e)))

/-- STOP (19 R375). -/
def execStopCtx (e : CmdEntry) (s : State) : Host.Outcome State Fault Refusal :=
  .next (s.quietCommand e (fun s => s.stopQuiet (cmdCtx e)))

/-! ### Pages (16 R294-R299) -/

/-- Whether `pages` pages at `va` lie in this device's global window (09 R166, 19 R380). -/
def inWindow (va n : Nat) : Bool := 0x4000000000 ≤ va && va + n ≤ 2 ^ 54

/-- MAP (19 R375, 16 R296, R297) (DEDUCED, log 47). -/
def doMap (e : CmdEntry) (s : State) : Answer :=
  let ctx := cmdCtx e
  let c := s.ctx ctx
  let va := opNum e 0 8
  let n := opNum e 8 4
  let bits := opNum e 12 1
  let cmp := opNum e 13 1
  let ft := bits.testBit 5
  let p := va / 65536
  let keys := (List.range n).map (fun i => p + i)
  let dirs := (keys.map (fun k => k / 2 ^ 13)).eraseDups
  let valid (k2 : Nat) : Bool := c.leaf.any (fun x => x.1 / 2 ^ 13 == k2 && x.2.getLsbD 0)
  let ordered (k2 : Nat) : Bool := c.leaf.any (fun x => x.1 / 2 ^ 13 == k2 && x.2.getLsbD 4)
  let changes (k2 : Nat) : Bool := let o := mget 0 c.l2 k2; o.getLsbD 0 && cmpOf o != cmp
  let fresh := if cmp == 0 then [] else dirs.filter (fun k => !cmpIs (mget 0 c.l2 k) cmp)
  let seed := s.tick * 2 ^ 32
  if va % 65536 != 0 || n == 0 || bits &&& 0xC1 != 0 then .error 0x10
  else if cmp > 3 || !inWindow va (65536 * n) || keys.any (fun k => (mget 0 c.leaf k).getLsbD 0) ||
      dirs.any (fun k => changes k && valid k) || (cmp != 0 && (bits.testBit 4 || dirs.any ordered)) then .error 0x13
  else match takeFrames s c.cores (if ft then 0 else n) seed [], takeMetas s fresh.length (seed + n) [] with
  | some fs, some ms =>
    let s := (s.assignUnits (fs.map frameUnit) (ownerCtx ctx)).zeroMetas ms
    let es := if ft then keys.map (fun k => (k, BitVec.ofNat 64 bits))
      else keys.zip (fs.map (fun f => BitVec.ofNat 64 (f * 65536 + bits + 1)))
    .ok (s.modCtx ctx (fun c => c.mapLeaves seed cmp (fresh.zip ms) es), BitVec.ofNat 64 (fs.headD 0), 0)
  | _, _ => .error 0x12

def execMapPages (e : CmdEntry) (s : State) : Host.Outcome State Fault Refusal :=
  .next (s.command e false [(0, 8), (8, 4), (12, 1), (13, 1)] (doMap e))

/-- UNMAP (19 R375): a page that is not mapped has no frame to free (DEDUCED, log 47). -/
def doUnmap (e : CmdEntry) (s : State) : Answer :=
  let ctx := cmdCtx e
  let va := opNum e 0 8
  let n := opNum e 8 4
  if va % 65536 != 0 then .error 0x10
  else
    let p := va / 65536
    let gone := (s.ctx ctx).leaf.filter (fun x => p ≤ x.1 && x.1 < p + n)
    let fs := (gone.filter (fun x => x.2.getLsbD 0)).map (fun x => frameUnit (frameOf x.2))
    .ok ((s.modCtx ctx (fun c => { c with leaf := mclear c.leaf p n })).assignUnits fs 0, 0, 0)

def execUnmapPages (e : CmdEntry) (s : State) : Host.Outcome State Fault Refusal :=
  .next (s.command e false [(0, 8), (8, 4)] (doUnmap e))

/-! ### Images and launches (02 R44, R45; 19 R375-R377, R396) -/

/-- Cells of some bytes laid over the pages of a list of frames. -/
def pageCells (fs : List Nat) (bs : List Byte) : List Host.Cell :=
  (List.range fs.length).flatMap (fun i => cellsAt (mainKey (fs.getD i 0 * 65536)) ((bs.drop (65536 * i)).take 65536))

/-- LOAD_IMAGE (19 R375). -/
def doLoadImage (e : CmdEntry) (s : State) : Answer :=
  let ctx := cmdCtx e
  (hostRead s (opNum e 0 8) (opNum e 8 8)).bind (fun bs =>
    match imageCheck s ctx bs with
    | some r => .error r
    | none =>
      let ss := imageSections bs
      let n := (bs.length + 65535) / 65536
      let m := (16 * ss.length + 65535) / 65536
      let c := s.ctx ctx
      match takeFrames s c.cores (n + m) (s.tick * 2 ^ 32) [] with
      | none => .error 0x12
      | some fs =>
        let p := freePages c n (s.tick * 2 ^ 32)
        let base := p * 65536
        let seed := s.tick * 2 ^ 32
        let es := (List.range n).map (fun i => (p + i, BitVec.ofNat 64 (fs.getD i 0 * 65536) ||| imagePage ss i))
        let c := c.mapLeaves seed 0 [] es
        let q := freePages c m (seed + 1)
        let et := (List.range m).map (fun i => (q + i, BitVec.ofNat 64 (fs.getD (n + i) 0 * 65536 + 7)))
        let tab := (List.range ss.length).flatMap (fun i =>
          let x := ss.getD i (0, 0, 0, 0)
          toBytes 4 i ++ toBytes 4 x.1 ++ toBytes 8 (base + x.2.2.1))
        let im : Image := { number := freshNumber s.tick (2 ^ 32) (c.images.map (·.number)), base := base, minor := fieldOf bs 6 2
                            digest := BitVec.ofNat 512 (fieldOf bs 0x40 64), kernels := (imageKernels bs).map kernelOf
                            needs := imageNeeds bs, frames := fs }
        let c := c.mapLeaves (seed + 1) 0 [] et
        let s := s.assignUnits (fs.map frameUnit) (ownerCtx ctx)
        let s := s.store (pageCells (fs.take n) bs ++ pageCells (fs.drop n) tab)
        .ok (s.setCtx ctx { c with images := c.images ++ [im] }, BitVec.ofNat 64 im.number, BitVec.ofNat 64 (q * 65536)))

def execLoadImage (e : CmdEntry) (s : State) : Host.Outcome State Fault Refusal :=
  .next (s.command e false [(0, 8), (8, 8)] (doLoadImage e))

/-- Whether a granule of a block bears a tag in a unit that checks tags: the host's ARGADDR presents none, so Zephyr's copy of the
block would be refused (16 R300, R304; DESIGN CHOICE, log 48). -/
def blockTagged (s : State) (die p n : Nat) : Bool :=
  let o := p - 0x10000000
  (List.range ((n + 31) / 32)).any (fun i =>
    (scratchOwner s die ((o + 32 * i) / 65536 * 65536)).tc && mget 0 s.tags (scratchKey die (o + 32 * i) / 32) != 0)

/-- LAUNCH after its entry is found (19 R377, R396): the reasons in their order, then the block and the queue (DEDUCED, log 48). -/
def launchWith (e : CmdEntry) (s : State) (im : Image) (k : Kernel) : Answer :=
  let ctx := cmdCtx e
  let c := s.ctx ctx
  let teams := opNum e 8 4
  let prio := opNum e 12 1
  let dies := opNum e 13 1
  let mode := opNum e 14 1
  let p := opNum e 40 8
  let dl := (List.range 4).filter (fun d => dies.testBit d)
  if !needsMet s ctx im.minor im.needs then .error 0x07
  else if teams == 0 || prio > 3 || dies == 0 || dies > 15 || mode > 127 ||
      !reservedClear e [(0, 4), (4, 4), (8, 4), (12, 1), (13, 1), (14, 1), (16, 8), (24, 2), (32, 8), (40, 8)] then .error 0x10
  else if opNum e 24 2 != k.args || p % 64 != 0 || (k.args != 0 && !dl.all (fun d => blockOwned s ctx d p k.args)) ||
      blockTaken s ctx dies p k.args || (k.args != 0 && dl.any (fun d => blockTagged s d p k.args)) then .error 0x0A
  else
    (hostRead s (opNum e 16 8) k.args).bind (fun block =>
      (hostRead s (opNum e 32 8) (2 * k.handles)).bind (fun lb =>
        let binds := indexList lb
        if !binds.all (fun i => i < 4096 && (mget 0 c.handles (4 * i + 3)).getLsbD 0) then .error 0x09
        else if teams % max 1 k.span != 0 then .error 0x08
        else if !spanFits s ctx dies k then .error 0x06
        else
          let s := (s.store (dl.flatMap (fun d => cellsAt (scratchKey d (p - 0x10000000)) block))).reread none
          let l : Launch := { ctx := ctx, image := im.number, kernel := k, entryPc := BitVec.ofNat 55 (im.base + k.entry)
                              teams := teams, prio := prio, dies := dies, fpmode := BitVec.ofNat 7 mode, argAddr := p, binds := binds
                              tag := e.tag, notify := e.flags.getLsbD 0 }
          let (n, s) := s.addLaunch l
          .ok (s, BitVec.ofNat 64 n, 0)))

/-- LAUNCH (19 R375, R377, R396). -/
def doLaunch (e : CmdEntry) (s : State) : Answer :=
  match (s.ctx (cmdCtx e)).images.find? (fun im => im.number == opNum e 0 4) with
  | none => .error 0x0A
  | some im =>
    match im.kernels[opNum e 4 4]? with
    | none => .error 0x0A
    | some k => if k.kind != 0 then .error 0x0A else launchWith e s im k

def execLaunch (e : CmdEntry) (s : State) : Host.Outcome State Fault Refusal :=
  .next (s.answer e (if s.hasCtx (cmdCtx e) then doLaunch e s else .error 0x10))

/-! ### Graphs (19 R375; 10 R216, R217) -/

/-- A thread that stands for the host at a die's graph unit. -/
def hostAt (ctx die : Nat) : Thread := { name := { ctx := ctx }, place := { core := 40 * die } }

/-- A submitted descriptor's checks, with its bindings: those of `GNODE`, for a node that no team made. -/
def submitOk (s : State) (ctx die : Nat) (bs : List Byte) (binds : List Nat) : Bool :=
  nodeShape bs && (fieldOf bs 0 1 != 0 || fieldOf bs 0x18 8 == 0) &&
  (fieldOf bs 0 1 != 1 || nodeCopyOk s (hostAt ctx die) true bs) && (fieldOf bs 0 1 != 2 || nodeLaunchOk s ctx die bs binds)

/-- Allocate a node for each descriptor in turn; the keys taken, in order. -/
def State.fillNodes (s : State) (ctx die : Nat) (ds : List (List Byte × List Nat)) (got : List Nat) : Option (State × List Nat) :=
  match ds with
  | [] => some (s, got)
  | d :: r =>
    match freeNodeSlot s ctx die with
    | none => none
    | some n =>
      let cmd : Cmd := { ctx := ctx, core := 40 * die, scope := fieldOf d.1 1 1, work := nodeWork d.1 }
      (s.fillNode (nodeKey die n) d.1 d.2 cmd).fillNodes ctx die r (got ++ [nodeKey die n])

/-- Link the nodes by pairs of indices; `none` when an index names no node, both are one, or a list of successors is
full. -/
def State.linkNodes (s : State) (keys : List Nat) (edges : List (Nat × Nat)) : Option State :=
  match edges with
  | [] => some s
  | (i, j) :: r =>
    match keys[i]?, keys[j]? with
    | some a, some b =>
      if a == b || (s.node a).succ.length ≥ 16 then none
      else
        let xa := s.node a
        let s := s.setNode a { xa with succ := xa.succ ++ [b] }
        let xb := s.node b
        (s.setNode b { xb with cnt := xb.cnt + 1 }).linkNodes keys r
    | _, _ => none

/-- The binding list of a submitted launch descriptor (10 R216). -/
def submitBinds (s : State) (bs : List Byte) : Except Nat (List Nat) :=
  if fieldOf bs 0 1 == 2 then (hostRead s (fieldOf bs 0x28 8) (2 * fieldOf bs 0x23 1)).map indexList else .ok []

/-- GRAPH_SUBMIT (19 R375): allocated, linked and armed as one step. -/
def doGraphSubmit (e : CmdEntry) (s : State) : Answer :=
  let ctx := cmdCtx e
  let die := opNum e 0 1
  let n := opNum e 16 2
  let m := opNum e 32 2
  if die > 3 || n == 0 then .error 0x10
  else
    (hostRead s (opNum e 8 8) (128 * n)).bind (fun db =>
      (hostRead s (opNum e 24 8) (4 * m)).bind (fun eb =>
        let ds := tableOf db 0 n 128
        let edges := (tableOf eb 0 m 4).map (fun x => (fieldOf x 0 2, fieldOf x 2 2))
        (ds.mapM (fun d => (submitBinds s d).map (fun b => (d, b)))).bind (fun ds =>
          if !ds.all (fun d => submitOk s ctx die d.1 d.2) then .error 0x10
          else match s.fillNodes ctx die ds [] with
          | none => .error 0x15
          | some (s, keys) =>
            match s.linkNodes keys edges with
            | none => .error 0x10
            | some s =>
              let s := keys.foldl (fun s k => s.armNode k) s
              .ok (s, BitVec.ofNat 64 (keys.headD 0 % 4096), 0))))

def execGraphSubmit (e : CmdEntry) (s : State) : Host.Outcome State Fault Refusal :=
  .next (s.command e false [(0, 1), (8, 8), (16, 2), (24, 8), (32, 2)] (doGraphSubmit e))

/-! ### Budgets, handles, tags, groups of devices, host windows, observation -/

/-- SET_BUDGET (19 R375, 14 R267). -/
def doSetBudget (e : CmdEntry) (s : State) : Answer :=
  let core := opNum e 0 2
  let b := opNum e 2 2
  if b > 256 || (core ≥ 160 && core != 0xFFFF) then .error 0x10
  else
    let cs := if core == 0xFFFF then List.range 160 else [core]
    .ok (cs.foldl (fun s c => s.setCore c { s.core c with budget := b, budgetSet := b }) s, 0, 0)

def execSetBudget (e : CmdEntry) (s : State) : Host.Outcome State Fault Refusal :=
  .next (s.command e true [(0, 2), (2, 2)] (doSetBudget e))

/-- Whether a handle entry is bound (16 R302). -/
def handleBound (s : State) (ctx n : Nat) : Bool :=
  s.launches.any (fun p => p.2.ctx == ctx && !p.2.finished && p.2.binds.contains n) ||
  s.nodes.any (fun p => p.2.ctx == ctx && p.2.kind == some 2 && p.2.binds.contains n)

/-- A bank that copies reach whole (16 R301). -/
def bankOk (b n : Nat) : Bool :=
  b % 32 == 0 && Span.aperture { p := BitVec.ofNat 64 b, lo := b, hi := b + n } == none

/-- The checks of a handle entry (16 R301). -/
def handleOk (w0 w1 w2 w3 : Word) : Bool :=
  let n := w2.toNat
  w0.extractLsb' 55 5 == 0 && w1.extractLsb' 55 9 == 0 && w2.extractLsb' 40 24 == 0 && w3.extractLsb' 5 59 == 0 &&
  (!w3.getLsbD 0 || (n != 0 && bankOk (addrOf w0) n && (if w3.getLsbD 3 then bankOk (addrOf w1) n else w1 == 0)))

/-- SET_HANDLE (19 R375, 16 R301, R302). -/
def doSetHandle (e : CmdEntry) (s : State) : Answer :=
  let ctx := cmdCtx e
  let n := opNum e 0 2
  let w (i : Nat) : Word := BitVec.ofNat 64 (opNum e (8 + 8 * i) 8)
  if n ≥ 4096 || !handleOk (w 0) (w 1) (w 2) (w 3) then .error 0x10
  else if handleBound s ctx n then .error 0x14
  else
    let put (m : SMap Word) : SMap Word := (List.range 4).foldl (fun m i => mset 0 m (4 * n + i) (w i)) m
    .ok (s.modCtx ctx (fun c => { c with handles := put c.handles }), 0, 0)

def execSetHandle (e : CmdEntry) (s : State) : Host.Outcome State Fault Refusal :=
  .next (s.command e false [(0, 2), (8, 32)] (doSetHandle e))

/-- The tag key of a granule that a context owns: of main memory, or of a die's scratchpad by its far aperture (16 R300). -/
def granuleKey (s : State) (ctx a : Nat) : Option Nat :=
  match locate a with
  | .global va => (match translate s ctx va with | .ok (pa, _) => some (mainKey pa / 32) | .error _ => none)
  | .far d off => if (scratchOwner s d off).who == ownerCtx ctx then some (scratchKey d off / 32) else none
  | _ => none

/-- SET_TAG (19 R375, 16 R300). -/
def doSetTag (e : CmdEntry) (s : State) : Answer :=
  let va := opNum e 0 8
  let n := opNum e 8 4
  let tag := opNum e 12 1
  if va % 32 != 0 || tag > 15 then .error 0x10
  else match (List.range n).mapM (fun i => granuleKey s (cmdCtx e) (va + 32 * i)) with
  | none => .error 0x10
  | some ks => .ok ({ s with tags := ks.foldl (fun m k => mset 0 m k (BitVec.ofNat 4 tag)) s.tags }, 0, 0)

def execSetTag (e : CmdEntry) (s : State) : Host.Outcome State Fault Refusal :=
  .next (s.command e false [(0, 8), (8, 4), (12, 1)] (doSetTag e))

/-- SET_COMM (19 R375, 10 R219). -/
def doSetComm (e : CmdEntry) (s : State) : Answer :=
  let n := opNum e 16 2
  (hostRead s (opNum e 8 8) (2 * n)).bind (fun bs =>
    let ds := indexList bs
    if n == 0 || n > 4096 || ds.any (fun d => d > 4095) then .error 0x10
    else .ok (s.modCtx (cmdCtx e) (fun c => { c with comms := mset [] c.comms (opNum e 0 1) ds }), 0, 0))

def execSetComm (e : CmdEntry) (s : State) : Host.Outcome State Fault Refusal :=
  .next (s.command e false [(0, 1), (8, 8), (16, 2)] (doSetComm e))

/-- HOST_WINDOW (19 R371, R375, 16 R306). -/
def doHostWindow (e : CmdEntry) (s : State) : Answer :=
  let ctx := cmdCtx e
  let va := opNum e 8 8
  let n := opNum e 16 8
  if opNum e 0 1 > 15 || (s.ctx ctx).conf || !inWindow va n then .error 0x10
  else .ok (s.modHub (fun h => { h with windows := mset (0, 0, 0) h.windows (opNum e 0 1) (ctx, va, n) }), 0, 0)

def execHostWindow (e : CmdEntry) (s : State) : Host.Outcome State Fault Refusal :=
  .next (s.command e false [(0, 1), (8, 8), (16, 8)] (doHostWindow e))

/-- Whether every page of some bytes of the global window lies in a frame that the context owns (18 R359). -/
def pagesOwned (s : State) (ctx va n : Nat) : Bool :=
  inWindow va n && (List.range ((va + n - 1) / 65536 - va / 65536 + 1)).all (fun i =>
    (translate s ctx ((va / 65536 + i) * 65536)).toOption.isSome)

/-- OBSERVE (18 R359): the Reserved bits of the word are ignored (00 R3), and the buffer begins anew. -/
def doObserve (e : CmdEntry) (s : State) : Answer :=
  let w : Word := BitVec.ofNat 64 (opNum e 0 8 % 512)
  let buf := opNum e 8 8
  let n := opNum e 16 8
  if (w.getLsbD 3 && (nlog w < 8 || nlog w > 20)) || n == 0 || n % 48 != 0 || n / 48 > 2 ^ 24 ||
      !pagesOwned s (cmdCtx e) buf n then .error 0x10
  else
    .ok (s.modCtx (cmdCtx e) (fun c => { c with obs :=
      { c.obs with word := w, buf := BitVec.ofNat 64 buf, cap := n / 48, count := 0, recent := [] } }), 0, 0)

def execObserve (e : CmdEntry) (s : State) : Host.Outcome State Fault Refusal :=
  .next (s.command e false [(0, 8), (8, 8), (16, 8)] (doObserve e))

end Sys2Proof.Machine
end

