-- ==== Sys2Proof/Machine/Report.lean ====
section
/-! DEFINITION. The host commands that report and those of the security engine and the debugger (19 R375): queries, dumps
(17 R352-R354), patch images (16 R315, R316), attestation (16 R307), and the debug sub-operations (18 R363-R366). -/

namespace Sys2Proof.Machine

/-! ### Queries (19 R375); the order of the items in each buffer is the model's (DESIGN CHOICE, log 28) -/

/-- Little-endian words. -/
def wordBytes (ws : List Word) : List Byte := ws.flatMap (fun w => toBytes 8 w.toNat)

/-- Answer a query with some bytes, cut to the buffer's size. -/
def State.queryWith (s : State) (e : CmdEntry) (free : Bool) (bytes : State → List Byte) : State :=
  s.command e free [(0, 2), (8, 8), (16, 4)] (fun s =>
    let bs := (bytes s).take (opNum e 16 4)
    if hostOk s (opNum e 8 8) bs.length then .ok (s.hostWrite (opNum e 8 8) bs, BitVec.ofNat 64 bs.length, 0) else .error 0x30)

/-- A record as the host administrator sees it: of a confidential context only CAUSE, CTX, GTS and the DIE and CORE of
SOURCE (17 R349). -/
def seenRecord (conf : Bool) (r : BitVec 512) : BitVec 512 :=
  if conf then r &&& BitVec.ofNat 512 (0xFF + 0xFF <<< 32 + 0xFF80 <<< 48 + 0xFFFFFFFFFFFFFFFF <<< 64) else r

/-- Selector 1: the fault ring, oldest first, then its lost-record counter (17 R348). -/
def ringBytes (c : Ctx) : List Byte :=
  c.ring.flatMap (fun r => toBytes 64 (seenRecord c.conf r).toNat) ++ toBytes 8 c.ringLost.toNat

/-- Selector 2: the counters in the order of 18 R367's table. -/
def counterBytes (c : Ctx) : List Byte :=
  let k := c.counters
  wordBytes ([k.slots] ++ (List.range 32).map (mget 0 k.stall) ++ (List.range 256).map (mget 0 k.prod) ++
    (List.range 256).map (mget 0 k.skip) ++ [k.ft, k.corrected, k.lost, k.hail])

/-- Selector 3: the registers of each Solder slot (16 R308). -/
def solderBytes (h : Hub) : List Byte :=
  (List.range 32).flatMap (fun n =>
    let x := mget {} h.solder n
    wordBytes [x.mtch, x.mask, x.arg, x.ctxMask, x.ctrl])

/-- Selector 0: the mode, the device number, the bytes of Zephyr's reserve (01 R11), and the versions: Clepra 2.1 (00 R1) and the
firmware's (19 R375; DESIGN CHOICE, log 28). -/
def deviceBytes (h : Hub) : List Byte :=
  wordBytes [if h.mode then 1 else 0, h.devnum.setWidth 64, BitVec.ofNat 64 (65536 * Config.reserve), 0x00010002, Config.firmwareVersion]

/-- Selector 4: the observation word, the trace buffer, and the debug slots (18 R359, R363). -/
def observeBytes (c : Ctx) : List Byte :=
  let o := c.obs
  wordBytes ([o.word, o.buf, BitVec.ofNat 64 (48 * o.cap)] ++ (List.range 8).map (mget 0 o.bp) ++
    (List.range 4).flatMap (fun i => [mget 0 o.wctl i, mget 0 o.wlimit i]))

/-- Selector 7: STATE, the peer, flits sent and received, and refusals of each link port (19 R380). -/
def portBytes (h : Hub) : List Byte :=
  (List.range 12).flatMap (fun n =>
    let p := mget {} h.ports n
    wordBytes [BitVec.ofNat 64 p.state, p.peer.setWidth 64, p.sent, p.received, mget 0 h.refusals n])

/-- Selector 8: swap area frames in total and free, first-touch pool frames free (14 R274). -/
def contextBytes (s : State) (ctx : Nat) : List Byte :=
  let c := s.ctx ctx
  let held := (s.teams.filter (fun p => p.2.ctx == ctx)).foldl (fun n p => n + p.2.frames.length) 0
  wordBytes [BitVec.ofNat 64 (c.swapFrames.length + held), BitVec.ofNat 64 c.swapFrames.length,
    BitVec.ofNat 64 c.poolFrames.length]

def execQueryDevice (e : CmdEntry) (s : State) : Host.Outcome State Fault Refusal :=
  .next (s.queryWith e true (fun s => deviceBytes s.hub))
def execQueryFaultRing (e : CmdEntry) (s : State) : Host.Outcome State Fault Refusal :=
  .next (s.queryWith e false (fun s => ringBytes (s.ctx (cmdCtx e))))
def execQueryCounters (e : CmdEntry) (s : State) : Host.Outcome State Fault Refusal :=
  .next (s.queryWith e false (fun s => counterBytes (s.ctx (cmdCtx e))))
def execQuerySolderSlots (e : CmdEntry) (s : State) : Host.Outcome State Fault Refusal :=
  .next (s.queryWith e true (fun s => solderBytes s.hub))
def execQueryObservation (e : CmdEntry) (s : State) : Host.Outcome State Fault Refusal :=
  .next (s.queryWith e false (fun s => observeBytes (s.ctx (cmdCtx e))))
def execQueryCoresched (e : CmdEntry) (s : State) : Host.Outcome State Fault Refusal :=
  .next (s.queryWith e true (fun s => wordBytes ((List.range 160).map (coresched s))))
def execQueryFenceRefusals (e : CmdEntry) (s : State) : Host.Outcome State Fault Refusal :=
  .next (s.queryWith e true (fun s => wordBytes ((List.range 13).map (mget 0 s.hub.refusals))))
def execQueryLinkPorts (e : CmdEntry) (s : State) : Host.Outcome State Fault Refusal :=
  .next (s.queryWith e true (fun s => portBytes s.hub))
def execQueryContext (e : CmdEntry) (s : State) : Host.Outcome State Fault Refusal :=
  .next (s.queryWith e false (fun s => contextBytes s (cmdCtx e)))

/-! ### Dumps (17 R352-R354) -/

/-- How many bytes from `p`, at most `n`, the fence of UCIe lets Zephyr write. -/
def fenceRun (h : Hub) (p n fuel : Nat) : Nat :=
  match fuel with
  | 0 => 0
  | fuel + 1 =>
    let ends := (List.range 16).filterMap (fun w =>
      let c := fenceReg h 12 w 0
      let lim := (fenceReg h 12 w 3).toNat + 1
      if c.getLsbD 31 && c.getLsbD 29 && (fenceReg h 12 w 2).toNat ≤ p && p < lim then some lim else none)
    let k := min n (ends.foldl max p - p)
    if k == 0 then 0 else k + fenceRun h (p + k) (n - k) fuel

/-- The header of a dump without GCMTAG (17 R352). -/
def dumpHeader (scope status required valid gts0 gts1 ctx nonce : Nat) (shut : Bool) : List Byte :=
  toBytes 4 0x504D5544 ++ toBytes 2 1 ++ toBytes 1 scope ++ toBytes 1 status ++ toBytes 8 required ++ toBytes 8 valid ++
  toBytes 8 gts0 ++ toBytes 8 gts1 ++ toBytes 1 ctx ++ toBytes 1 (if shut then 1 else 0) ++ toBytes 6 0 ++
  toBytes 12 (if shut then nonce else 0) ++ toBytes 4 0

/-- A section of a dump: SOURCE, KIND, the context whose data it holds, and the content (17 R352). -/
structure Section where
  src : Nat
  kind : Nat
  ctx : Option Nat
  content : List Byte
  deriving DecidableEq, Repr

/-- Bytes of which no rule says how many they are and what they hold (17 R352; DESIGN CHOICE, log 11). -/
def openBytes (seed : Nat) : List Byte := (List.range (Config.choice seed)).map (Config.dumpByte seed)

/-- Group state: the thread's name (01 R28), whose place is the SOURCE, and its registers (DESIGN CHOICE, log 11). -/
def groupSection (s : State) (t : Thread) : Section :=
  { src := t.source.toNat, kind := 0, ctx := some t.name.ctx
    content := toBytes 1 t.name.ctx ++ toBytes 1 0 ++ toBytes 2 s.hub.devnum.toNat ++ toBytes 4 t.name.launch ++
      toBytes 4 t.name.team ++ toBytes 2 t.name.group ++ toBytes 2 t.name.burst ++ openBytes (s.tick * 2 ^ 32 + t.id) }

/-- The shared memory of a core for a context (DESIGN CHOICE, log 11). -/
def sharedSection (s : State) (ctx core : Nat) : Section :=
  { src := (sourceNo core 0 0).toNat, kind := 1, ctx := some ctx, content := rdBytes s.mem (sharedKey ctx core 0) (2 ^ 20) }

/-- The scratchpad units of a die that a context owns, each after its number (DESIGN CHOICE, log 11). -/
def unitSection (s : State) (ctx die : Nat) : Section :=
  let lo := scratchUnit die 0
  { src := (sourceNo (40 * die) 0 0).toNat, kind := 2, ctx := some ctx
    content := (s.owners.filter (fun o => o.2.who == ownerCtx ctx && lo ≤ o.1 && o.1 < lo + 5120)).flatMap (fun o =>
      toBytes 4 (o.1 - lo) ++ rdBytes s.mem (unitBase o.1) 65536) }

/-- The source of the hub's sections: Zephyr (01 R26; DESIGN CHOICE, log 11). -/
def hubSource : Nat := 4 * 2 ^ 13

/-- The fault ring, oldest record first and whole, then its lost-record counter (17 R348, R349). -/
def ringSection (s : State) (ctx : Nat) : Section :=
  let c := s.ctx ctx
  { src := hubSource, kind := 3, ctx := some ctx, content := c.ring.flatMap (fun r => toBytes 64 r.toNat) ++ toBytes 8 c.ringLost.toNat }

/-- The save area of a context, and the hub's state (DESIGN CHOICE, log 11). -/
def saveSection (s : State) (ctx : Nat) : Section :=
  { src := hubSource, kind := 4, ctx := some ctx, content := openBytes (s.tick * 2 ^ 32 + 2 ^ 31 + ctx) }
def hubSection (s : State) : Section :=
  { src := hubSource, kind := 5, ctx := none, content := openBytes (s.tick * 2 ^ 32 + 2 ^ 31 + 64) }

/-- The sections of a context (DESIGN CHOICE, log 11). -/
def contextSections (s : State) (ctx : Nat) : List Section :=
  (s.threads.filter (fun t => t.name.ctx == ctx)).map (groupSection s) ++ (s.ctx ctx).cores.map (sharedSection s ctx) ++
  (List.range 4).map (unitSection s ctx) ++ [ringSection s ctx, saveSection s ctx]

/-- The sections of a dump, in ascending SOURCE (17 R353): of one group, of a context, or of every context and the hub. -/
def dumpSections (s : State) (scope ctx : Nat) (group : Option Thread) : List Section :=
  let l := if scope == 0 then group.toList.map (groupSection s)
    else if scope == 1 then contextSections s ctx
    else s.ctxs.flatMap (fun c => contextSections s c.1) ++ [hubSection s]
  l.foldl (fun l x => insertRecord (fun y => x.src < y.src) l x) []

/-- Ciphertext, one byte for each of the plain text, and its tag under the key of a context (17 R354). -/
def sealBytes (s : State) (ctx nonce : Nat) (aad bs : List Byte) : List Byte × Nat :=
  let k := (s.ctx ctx).key
  ((List.range bs.length).map (fun i => (Config.gcmSeal k nonce aad bs).getD i 0), (Config.gcmTag k nonce aad bs).toNat)

/-- Whether a section is sealed by itself: it is a confidential context's, in a device dump (17 R354). -/
def Section.shut (s : State) (scope : Nat) (x : Section) : Bool := scope == 2 && x.ctx.any (fun c => (s.ctx c).conf)

/-- Bytes that a section takes, its head and, where it is sealed by itself, its nonce and tag among them. -/
def Section.size (s : State) (scope : Nat) (x : Section) : Nat := (if x.shut s scope then 44 else 16) + x.content.length

/-- A section's head and content (17 R352), of which `room` bytes are written. One that is sealed by itself holds its nonce and its tag
before the ciphertext of what is written (R354; DEDUCED, log 62). -/
def Section.bytes (s : State) (scope nonce : Nat) (aad : List Byte) (room : Nat) (x : Section) : List Byte :=
  let head := toBytes 2 x.kind ++ toBytes 2 x.src ++ toBytes 4 0 ++ toBytes 8 (x.size s scope - 16)
  let all := if x.shut s scope then
      let (c, tag) := sealBytes s (x.ctx.getD 0) nonce aad (x.content.take (room - 44))
      head ++ toBytes 12 nonce ++ toBytes 16 tag ++ c
    else head ++ x.content
  all.take room

/-- The sections of a dump, cut to `room` bytes; each has a nonce of its own. -/
def dumpBody (s : State) (scope : Nat) (aad : List Byte) (xs : List Section) (room nonce : Nat) : List Byte :=
  match xs with
  | [] => []
  | x :: r =>
    let bs := x.bytes s scope nonce aad room
    bs ++ dumpBody s scope aad r (room - bs.length) (nonce + 1)

/-- Write a dump of quiesced contexts (17 R353, R354): the header in progress, the sections, the final header. VALID, and the state; a
write that the fence of UCIe refuses ends the dump and advances the port's counter (16 R303) (DEDUCED, log 62). -/
def State.writeDump (s : State) (scope ctx p size : Nat) (group : Option Thread) : Nat × State :=
  let xs := dumpSections s scope ctx group
  let required := xs.foldl (fun n x => n + x.size s scope) 128
  let want := min required size
  let run := fenceRun s.hub p want 17
  let s := if run < want then s.countRefusal 12 else s
  if run < 128 then (0, s)
  else
    let shut := scope < 2 && (s.ctx ctx).conf
    let status := if run < want then 3 else if want < required then 2 else 1
    let nonce := s.tick * 2 ^ 32
    let g := s.hub.gts.toNat
    let head (status valid : Nat) : List Byte :=
      dumpHeader scope status required valid g g (if scope == 2 then 0xFF else ctx) nonce shut
    let aad := head status run
    let body := dumpBody s scope aad xs (run - 128) (nonce + 1)
    let (out, tag) := if shut then sealBytes s ctx nonce aad body else (body, 0)
    let s := s.hostWrite p (head 0 128 ++ toBytes 64 0)
    let s := s.hostWrite (p + 128) out
    (run, s.hostWrite p (aad ++ toBytes 16 tag ++ toBytes 48 0))

/-- DUMP (19 R375, 17 R353): the contexts of its scope are quiesced, dumped, and go on or are stopped (DEDUCED, log 62). -/
def execDump (e : CmdEntry) (s : State) : Host.Outcome State Fault Refusal :=
  let scope := opNum e 0 1
  let ctxs := if scope == 2 then s.ctxs.map (·.1) else [cmdCtx e]
  .next (if !(scope == 2 || s.hasCtx (cmdCtx e)) || scope > 2 || opNum e 1 1 > 1 || opNum e 24 8 < 128 ||
        !reservedClear e [(0, 1), (1, 1), (2, 8), (10, 2), (16, 8), (24, 8)] ||
        (scope == 0 && (findGroup s (cmdCtx e) (opNum e 2 4) (opNum e 6 4) (opNum e 10 2)).isNone) then s.answer e (.error 0x10)
    else
    let s := s.beginStop ctxs
    if !ctxs.all (stopDone s) then s.takeAgain
    else
      let s := ctxs.foldl (fun s c => s.settleCtx c) s
      let (v, s) := s.writeDump scope (cmdCtx e) (opNum e 16 8) (opNum e 24 8)
        (findGroup s (cmdCtx e) (opNum e 2 4) (opNum e 6 4) (opNum e 10 2))
      let s := ctxs.foldl (fun s c => if opNum e 1 1 == 1 then s.stopQuiet c else s.modCtx c (fun c => { c with stopping := false })) s
      s.answer e (.ok (s, BitVec.ofNat 64 v, 0)))

/-! ### Patch images (16 R312-R316) -/

/-- The target slot and the registers of an entry (16 R315). -/
def patchEntry (bs : List Byte) (base size : Nat) : Nat × Solder :=
  let w (off n : Nat) : Word := BitVec.ofNat 64 (fieldOf bs off n)
  (fieldOf bs 36 1, { mtch := w 0 8, mask := w 8 8, arg := w 16 8, ctxMask := w 24 8, ctrl := w 32 4, base := base, size := size })

/-- Step 1 of 16 R316. -/
def patchHeaderOk (bs : List Byte) : Bool :=
  let f := fieldOf bs
  let n := bs.length
  f 0 4 == 0x444C4F53 && f 4 2 == 1 && 1 ≤ f 6 2 && f 6 2 ≤ 32 && f 8 4 == n && n ≤ 1048576 && 7219 ≤ n &&
  f 0x0C 4 % 8 == 0 && f 0x10 4 ≤ 262144 && f 0x18 2 == 2 &&
  f 0x0C 4 + f 0x10 4 ≤ n && 0x40 + 40 * f 6 2 ≤ n &&
  apart [(0, 0x40), (0x40, 40 * f 6 2), (f 0x0C 4, f 0x10 4), (n - 7219, 7219)]

/-- Step 5 of 16 R316 for one entry. -/
def patchEntryOk (bs : List Byte) (size : Nat) : Bool :=
  let (slot, x) := patchEntry bs 0 size
  slot < 32 && fieldOf bs 37 3 == 0 && x.ctrl &&& 0x1FF == 0 && x.act != 3 && !(x.causeKind && x.act == 1) &&
  (x.act != 1 || (x.mask &&& 3 == 3 && x.arg &&& 3 == x.mtch &&& 3)) &&
  (x.act != 2 || (x.arg.toNat % 2 ^ 32 % 8 == 0 && x.arg.toNat % 2 ^ 32 < size)) &&
  (!x.causeKind || (x.mtch.toNat < 128 && x.mask.toNat < 128))

/-- Whether a slot may not be disabled or replaced; `others` are the slots that stay as they are (16 R312) (DEDUCED, log 65). -/
def slotHeld (s : State) (n : Nat) (others : List Nat) : Bool :=
  s.ctxs.any (fun c =>
    (c.2.conf && c.2.frozen.contains n) ||
    c.2.images.any (fun im => im.minor > 1 && im.needs.any (fun x =>
      x.2.2 > 1 && covers s c.1 n x && !others.any (fun m => covers s c.1 m x))))

/-- INSTALL_PATCH (16 R316): the checks in order; an accepted image is staged for the update point, where its completion
is written (R312) (DEDUCED, log 65). -/
def execInstallPatch (e : CmdEntry) (s : State) : Host.Outcome State Fault Refusal :=
  .next (if !reservedClear e [(0, 8), (8, 4)] then s.answer e (.error 0x10)
    else match hostRead s (opNum e 0 8) (opNum e 8 4) with
    | .error r => s.answer e (.error r)
    | .ok bs =>
      let f := fieldOf bs
      let n := bs.length
      let key := (bs.drop (n - 7219)).take 2592
      let es := tableOf bs 0x40 (f 6 2) 40
      let slots := es.map (fun x => fieldOf x 36 1)
      let kh := BitVec.ofNat 512 (ofBytes (sha3 key))
      if !patchHeaderOk bs then s.answer e (.error 0x21)
      else if !(List.range 4).any (fun i => Config.fusedKeyHash i == kh && !Config.keyRevoked i) then s.answer e (.error 0x22)
      else if !Config.mlDsaVerify key (sha3 (bs.take (n - 4627))) (bs.drop (n - 4627)) then s.answer e (.error 0x23)
      else if f 0x14 4 < s.hub.rollback then s.answer e (.error 0x24)
      else if !es.all (fun x => patchEntryOk x (f 0x10 4)) || slots.eraseDups.length != slots.length then s.answer e (.error 0x25)
      else if slots.any (fun i => slotHeld s i ((List.range 32).filter (fun m => !slots.contains m))) then s.answer e (.error 0x26)
      else
        let base := s.hub.patchTop
        let code := (bs.drop (f 0x0C 4)).take (f 0x10 4)
        (s.store (cellsAt (patchKey base) code)).modHub (fun h => { h with
          staged := es.map (fun x => patchEntry x base (f 0x10 4)), stagedTag := e.tag, rollback := f 0x14 4
          patchTop := base + (f 0x10 4 + 7) / 8 * 8 }))

/-! ### Attestation (16 R307) -/

/-- The 40-byte entry of a slot that matches a context, or zeros. -/
def slotEntry (s : State) (ctx n : Nat) : List Byte :=
  let x := mget {} s.hub.solder n
  let c := s.ctx ctx
  if x.en && x.ctxMask.getLsbD ctx && (!c.conf || c.frozen.contains n) then
    wordBytes [x.mtch, x.mask, x.arg, x.ctxMask] ++ toBytes 4 x.ctrl.toNat ++ toBytes 1 n ++ toBytes 3 0
  else toBytes 40 0

/-- The report of a context (16 R307). -/
def attestReport (s : State) (ctx : Nat) (nonce : List Byte) : List Byte :=
  let c := s.ctx ctx
  let head := toBytes 4 0x54535441 ++ toBytes 2 1 ++ toBytes 1 ctx ++ toBytes 1 0 ++ toBytes 8 c.word.toNat ++ nonce ++
    toBytes 16 Config.serial.toNat ++ toBytes 64 Config.romDigest.toNat ++ toBytes 64 Config.zephyrDigest.toNat ++
    sha3 ((List.range 32).flatMap (slotEntry s ctx)) ++ sha3 (c.images.flatMap (fun im => toBytes 64 im.digest.toNat)) ++
    toBytes 8 s.hub.gts.toNat
  head ++ (List.range 4627).map (Config.mlDsaSign (sha3 head))

/-- ATTEST (19 R375). -/
def doAttest (e : CmdEntry) (s : State) : Answer :=
  (hostRead s (opNum e 0 8) 64).bind (fun nonce =>
    let r := attestReport s (cmdCtx e) nonce
    if hostOk s (opNum e 8 8) r.length then .ok (s.hostWrite (opNum e 8 8) r, 0, 0) else .error 0x30)

def execAttest (e : CmdEntry) (s : State) : Host.Outcome State Fault Refusal :=
  .next (s.command e false [(0, 8), (8, 8)] (doAttest e))

/-! ### The debugger (18 R363-R366) -/

/-- Run a debug sub-operation; a confidential context refuses all of them (18 R363) (DEDUCED, log 52). -/
def State.debugCommand (s : State) (e : CmdEntry) (used : List (Nat × Nat)) (body : State → Answer) : State :=
  s.command e false used (fun s => if (s.ctx (cmdCtx e)).conf then .error 0x10 else body s)

/-- The places of the operands that name a group, and the lane. -/
def groupOperands : List (Nat × Nat) := [(0, 1), (8, 8), (16, 1), (18, 2)]

/-- The group that a debug command names. -/
def debugGroup (s : State) (e : CmdEntry) : Option Thread :=
  findGroup s (cmdCtx e) (opNum e 8 4) (opNum e 12 4) (opNum e 18 2)

/-- The slots as the buffer of sub-operation 0 gives them (18 R363): eight breakpoint slots, then the watch slots; Reserved
bits read zero. -/
def slotsOf (o : Observe) (bs : List Byte) : Observe :=
  let w (i : Nat) : Word := BitVec.ofNat 64 (fieldOf bs (8 * i) 8)
  { o with
    bp := (List.range 8).foldl (fun m i => mset 0 m i (w i &&& 0x807FFFFFFFFFFFFF)) []
    wctl := (List.range 4).foldl (fun m i => mset 0 m i (w (8 + 2 * i) &&& 0xE07FFFFFFFFFFFFF)) []
    wlimit := (List.range 4).foldl (fun m i => mset 0 m i (w (9 + 2 * i) &&& 0x007FFFFFFFFFFFFF)) [] }

/-- DEBUG write slots. -/
def doWriteSlots (e : CmdEntry) (s : State) : Answer :=
  (hostRead s (opNum e 8 8) 128).map (fun bs => (s.modCtx (cmdCtx e) (fun c => { c with obs := slotsOf c.obs bs }), 0, 0))

def execDebugWriteSlots (e : CmdEntry) (s : State) : Host.Outcome State Fault Refusal :=
  .next (s.debugCommand e [(0, 1), (8, 8)] (doWriteSlots e))

/-- DEBUG halt (18 R365): one group, or every resident group of a launch. -/
def doDebugHalt (e : CmdEntry) (s : State) : Answer :=
  let ask (t : Thread) : Thread := if t.status == .halted then t else { t with haltReq := true }
  if opNum e 12 4 == 0xFFFFFFFF then
    .ok (s.mapThreads (fun t =>
      if !t.name.hail && t.name.ctx == cmdCtx e && t.name.launch == opNum e 8 4 && t.status != .retiring &&
        (s.team t.name.uid).state == .resident then ask t else t), 0, 0)
  else match debugGroup s e with
    | some t => .ok (s.onThread t.id ask, 0, 0)
    | none => .error 0x10

def execDebugHalt (e : CmdEntry) (s : State) : Host.Outcome State Fault Refusal :=
  .next (s.debugCommand e groupOperands (doDebugHalt e))

/-- Act on a halted group; REASON 0x10 for any other. -/
def onHalted (s : State) (e : CmdEntry) (g : Thread → State → Answer) : Answer :=
  match debugGroup s e with
  | some t => if t.status == .halted then g t s else .error 0x10
  | none => .error 0x10

/-- DEBUG resume and step (18 R364, R365): the group continues at TPC, its first slot matches no breakpoint. -/
def doDebugResume (step : Bool) (e : CmdEntry) (s : State) : Answer :=
  onHalted s e (fun t s => .ok (s.onThread t.id (fun t => { t with status := .ready, step := step, stepDone := false, skipBp := true }), 0, 0))

def execDebugResume (e : CmdEntry) (s : State) : Host.Outcome State Fault Refusal :=
  .next (s.debugCommand e groupOperands (doDebugResume false e))
def execDebugStep (e : CmdEntry) (s : State) : Host.Outcome State Fault Refusal :=
  .next (s.debugCommand e groupOperands (doDebugResume true e))

/-- DEBUG focus (18 R366). A push that would overflow the spill area is refused with 0x10, and nothing changes (DEDUCED, log 52). -/
def doDebugFocus (e : CmdEntry) (s : State) : Answer :=
  onHalted s e (fun t s =>
    let l := opNum e 16 1
    let open? := t.stack.any (fun x => match x with | .focus _ => true | _ => false)
    if l ≥ 64 || !t.active.getLsbD l || open? then .error 0x10
    else match t.push (.focus { lane := l, pend := t.m0 &&& ~~~ laneBit l, fpc := t.pc }) with
    | none => .error 0x10
    | some u => .ok (s.onThread t.id (fun _ => { u with m0 := laneBit l }), 0, 0))

def execDebugFocus (e : CmdEntry) (s : State) : Host.Outcome State Fault Refusal :=
  .next (s.debugCommand e groupOperands (doDebugFocus e))

/-- DEBUG end (18 R365): the group ends with cause 0x74 and a record. -/
def doDebugEnd (e : CmdEntry) (s : State) : Answer :=
  onHalted s e (fun t s => .ok ((s.focus t.id).endNow { cause := 0x74, async := true } 1, 0, 0))

def execDebugEnd (e : CmdEntry) (s : State) : Host.Outcome State Fault Refusal :=
  .next (s.debugCommand e groupOperands (doDebugEnd e))

end Sys2Proof.Machine
end

