-- ==== Sys2Proof/Machine/Turn.lean ====
section
/-! DEFINITION. Who moves next (14 R398; DESIGN CHOICE, log 1): a partition's slot, a command processor, a step of the part, the assignment
unit, or the host. -/

namespace Sys2Proof.Machine

/-- The entry at CQ_HEAD (19 R372). -/
def headEntry (h : Hub) : BitVec 512 :=
  BitVec.ofNat 512 ((List.range 8).foldl (fun n i => n + (mget 0 h.cq (8 * h.cqHead + i)).toNat * 2 ^ (64 * i)) 0)

/-- Whether Zephyr takes a command: the device is ready, an entry waits, the completion ring has room, and no patch set waits
for its update point (19 R372, R374, R383). -/
def zephyrReady (s : State) : Bool :=
  s.hub.state == 3 && s.hub.cqHead != s.hub.cqTail && !cplFull s.hub && s.hub.staged.isEmpty

/-- Zephyr takes the next entry; an OP it does not know is refused with REASON 0x10 (19 R375) (DEDUCED, log 58). -/
def takeCommand (s : State) : SlotStart :=
  if !zephyrReady s then .over s
  else
    let w := headEntry s.hub
    let s := s.modHub (fun h => { h with cqHead := (h.cqHead + 1) % 256 })
    match decodeCommand w with
    | .ok i => .run i s
    | .error _ => .over (s.putCpl (entryOf w).2.tag 1 0x10 0 0)

/-- The assignment unit gives scratchpad unit `n` (5,120 a die) to an owner, zeroed first when the owner changes; a unit that
an argument block holds stays (16 R292, R293; DESIGN CHOICE, log 14). -/
def State.assignScratch (s : State) (n owner : Nat) (tc : Bool) : State :=
  let u := scratchUnit (n / 5120) (n % 5120 * 65536)
  let o := mget {} s.owners u
  if n ≥ 20480 || o.ro || s.hub.state != 3 || !(owner ≤ 1 || s.hasCtx (owner - 2)) then s
  else if o.who == owner then { s with owners := mset {} s.owners u { o with tc := tc } }
  else s.assignUnit u { who := owner, tc := tc }

/-- A partition issues the next slot of the thread it chooses (14 R269). -/
def issueSlot (s : State) (core part : Nat) : SlotStart :=
  match s.choose core part with
  | some s' => slotStart s'
  | none => .over s

/-- Whether an instruction is a step of the part, and no instruction of a thread or command of the host. -/
def isStep (i : Instr) : Bool := (longOf i).isNone && (shortOf i).isNone && (commandOf i).isNone

/-- How the next step begins: with an instruction to perform, or complete already. A starvation guard's choice issues the
chosen thread's slot in the same step (14 R269) (DESIGN CHOICE, log 67) (DESIGN CHOICE, log 72). -/
def State.begin (s : State) : SlotStart :=
  match s.turn with
  | .idle => .over s
  | .issue core part => issueSlot s core part
  | .zephyr => takeCommand s
  | .event (.starvationGuard core part) =>
    if (readyThreads s core part).any (fun t => t.sched.starve == 64) then issueSlot s core part else .over s
  | .event i => if isStep i then .run i s else .over s
  | .assign n owner tc => .over (s.assignScratch n owner tc)
  | .hostStore pa bytes => .over { s with mem := wrCells s.mem (cellsAt (hostKey pa) bytes) }

/-- The steps of the part that go on with work that is promised progress: of a thread's accesses and waits, of engines, of
graph nodes and collectives, of placement, swaps and switches (14 R255, R256, R398). -/
def promised (i : Instr) : Bool :=
  match i with
  | .loadDataReturn _ | .resultWriteback _ | .storePerform _ | .waitvReread _ | .asyncTrapDelivery _ | .groupSlotFree _
  | .engineCommandStart _ | .copySectorPerform _ | .engineCompletionArrival _ | .engineFault _ | .hailBurstRequest _
  | .hailBurstReturn _ _ | .hailThreadBirth _ | .hubFirstTouchService _ | .graphNodeFinish _ _ | .collCompletion _ _
  | .placeTeam _ | .placeSpan _ | .swapOutComplete _ | .readmission _ | .contextTimeslice _ | .contextSwitch _
  | .contextRestore _ | .slotUpdatePoint => true
  | _ => false

/-- The turns that come again and again: every partition's slot, the command processors', and every promised step's. -/
def Turn.comes (t : Turn) : Bool :=
  match t with
  | .issue core part => core < 160 && part < 8
  | .zephyr => true
  | .event i => promised i
  | _ => false

/-- A fair order of turns: each time that an access, a command or a wait takes is finite (14 R256, R398; 15 R285), and no thread
stalls in every slot of its partition for want of a unit or an operand (14 R255, R269). The agenda and the stalls are open, and a
promise that a wait ends holds of fair ones (DESIGN CHOICE, log 1). -/
def FairAgenda (agenda : Nat → Turn) (stalls : Nat → Nat → Bool) : Prop :=
  (∀ t : Turn, Turn.comes t = true → ∀ n, ∃ m, n ≤ m ∧ agenda m = t) ∧
  (∀ core part tid : Nat, core < 160 → part < 8 → ∀ n, ∃ m, n ≤ m ∧ agenda m = .issue core part ∧ stalls m tid = false)

/-- What passes after a step's outcome. -/
def afterOutcome (o : Host.Outcome State Fault Refusal) : Host.Outcome State Fault Refusal :=
  match o with
  | .next s => .next s.after
  | .fault f => .fault f
  | .refused r => .refused r

/-! ### A loaded program, for one instruction (DESIGN CHOICE, log 29) -/

/-- The kernel of a full-width group with every register and tile allocated (01 R14, 02 R37). -/
def probeKernel : Kernel :=
  { width := 64, lanes := 64, shared := 65536, nt := 8, nz := 4, vwin := 128, swin := 64, awin := 32, codeBytes := 65536 }

/-- A device in which one launch of one group stands at the first instruction of its code on core 0, partition 0: the state
that CREATE_CTX, LOAD_IMAGE, LAUNCH and PLACE_TEAM lead to, with its code at VA 0x40_0000_0000 in frame 0. -/
def State.withProgram (s : State) (bytes : List Byte) : State :=
  let l : Launch := { number := 1, kernel := probeKernel, entryPc := 0x4000000000, teams := 1, next := 1, started := 1, dies := 1 }
  let t := newGroup l 1 1 0 0 {} s.tick
  let c : Ctx := { cores := [0], l1 := [(0, 1)], l2 := [(0x200, 1)], leaf := [(0x400000, 1)]
                   images := [{ number := 1, base := 0x4000000000, kernels := [probeKernel], frames := [0] }] }
  { s with
    thr := t, parked := s.parked.filter (fun u => u.place.core != 0)
    mem := wrCells (mclear s.mem 0 65536) (cellsAt 0 bytes), poisonMem := s.poisonMem.filter (fun k => 2048 ≤ k)
    owners := mins (mdel s.owners 0) 0 { who := ownerCtx 0 }
    cores := mins (mdel s.cores 0) 0 { serves := some 0 }
    ctxs := mins (mdel s.ctxs 0) 0 c
    teams := mins (mdel s.teams 1) 1 { uid := 1, launch := 1, kernel := probeKernel, cost := probeKernel.cost, live := 1
                                       units := List.range 64 }
    launches := mins (mdel s.launches 1) 1 l
    hub := { s.hub with state := 3, solder := [] }
    turn := .issue 0 0, nextId := max s.nextId 2 }

/-- The same with a host command as the only entry of the command ring. -/
def State.withCommand (s : State) (w : BitVec 512) : State :=
  { s with
    hub := { s.hub with
      state := 3, cqHead := 0, cqTail := 1, cplHead := 0, cplTail := 0, staged := []
      cq := (List.range 8).foldl (fun m i => mset 0 m i (w.extractLsb' (64 * i) 64)) s.hub.cq }
    turn := .zephyr }

end Sys2Proof.Machine
end

