-- ==== Sys2Proof/Machine/Dispatch.lean ====
section
/-! DEFINITION. The dispatch: one arm for each constructor of `Instr`, a direct call of its meaning. -/

namespace Sys2Proof.Machine

def exec (i : Instr) (s : State) : Host.Outcome State Fault Refusal :=
  match i with
  | .nop f => Sys2Proof.Machine.execNop f s
  | .bra f => Sys2Proof.Machine.execBra f s
  | .brc f => Sys2Proof.Machine.execBrc f s
  | .loop f => Sys2Proof.Machine.execLoop f s
  | .jtab f => Sys2Proof.Machine.execJtab f s
  | .call f => Sys2Proof.Machine.execCall f s
  | .calli f => Sys2Proof.Machine.execCalli f s
  | .ret f => Sys2Proof.Machine.execRet f s
  | .enter f => Sys2Proof.Machine.execEnter f s
  | .classFirst f => Sys2Proof.Machine.execClassFirst f s
  | .classAsc f => Sys2Proof.Machine.execClassAsc f s
  | .classM f => Sys2Proof.Machine.execClassM f s
  | .nextc f => Sys2Proof.Machine.execNextc f s
  | .leave f => Sys2Proof.Machine.execLeave f s
  | .exit f => Sys2Proof.Machine.execExit f s
  | .uput f => Sys2Proof.Machine.execUput f s
  | .yield f => Sys2Proof.Machine.execYield f s
  | .iadd f => Sys2Proof.Machine.execIadd f s
  | .isub f => Sys2Proof.Machine.execIsub f s
  | .imul f => Sys2Proof.Machine.execImul f s
  | .imulh f => Sys2Proof.Machine.execImulh f s
  | .imad f => Sys2Proof.Machine.execImad f s
  | .imin f => Sys2Proof.Machine.execImin f s
  | .imax f => Sys2Proof.Machine.execImax f s
  | .iabs f => Sys2Proof.Machine.execIabs f s
  | .ineg f => Sys2Proof.Machine.execIneg f s
  | .iadds f => Sys2Proof.Machine.execIadds f s
  | .isubs f => Sys2Proof.Machine.execIsubs f s
  | .andB f => Sys2Proof.Machine.execAnd f s
  | .orB f => Sys2Proof.Machine.execOr f s
  | .xorB f => Sys2Proof.Machine.execXor f s
  | .notB f => Sys2Proof.Machine.execNot f s
  | .shl f => Sys2Proof.Machine.execShl f s
  | .shr f => Sys2Proof.Machine.execShr f s
  | .sar f => Sys2Proof.Machine.execSar f s
  | .rol f => Sys2Proof.Machine.execRol f s
  | .popc f => Sys2Proof.Machine.execPopc f s
  | .clz f => Sys2Proof.Machine.execClz f s
  | .brev f => Sys2Proof.Machine.execBrev f s
  | .bfx f => Sys2Proof.Machine.execBfx f s
  | .bfi f => Sys2Proof.Machine.execBfi f s
  | .sel f => Sys2Proof.Machine.execSel f s
  | .icmp f => Sys2Proof.Machine.execIcmp f s
  | .addmin f => Sys2Proof.Machine.execAddmin f s
  | .fadd f => Sys2Proof.Machine.execFadd f s
  | .fsub f => Sys2Proof.Machine.execFsub f s
  | .fmul f => Sys2Proof.Machine.execFmul f s
  | .ffma f => Sys2Proof.Machine.execFfma f s
  | .fmin f => Sys2Proof.Machine.execFmin f s
  | .fmax f => Sys2Proof.Machine.execFmax f s
  | .fcmp f => Sys2Proof.Machine.execFcmp f s
  | .frcp f => Sys2Proof.Machine.execFrcp f s
  | .frsq f => Sys2Proof.Machine.execFrsq f s
  | .fexp2 f => Sys2Proof.Machine.execFexp2 f s
  | .flog2 f => Sys2Proof.Machine.execFlog2 f s
  | .fsin f => Sys2Proof.Machine.execFsin f s
  | .fcos f => Sys2Proof.Machine.execFcos f s
  | .ftanh f => Sys2Proof.Machine.execFtanh f s
  | .hfma2 f => Sys2Proof.Machine.execHfma2 f s
  | .aadd f => Sys2Proof.Machine.execAadd f s
  | .asub f => Sys2Proof.Machine.execAsub f s
  | .amul f => Sys2Proof.Machine.execAmul f s
  | .ashl f => Sys2Proof.Machine.execAshl f s
  | .amov f => Sys2Proof.Machine.execAmov f s
  | .mand f => Sys2Proof.Machine.execMand f s
  | .mor f => Sys2Proof.Machine.execMor f s
  | .mxor f => Sys2Proof.Machine.execMxor f s
  | .mnot f => Sys2Proof.Machine.execMnot f s
  | .mcount f => Sys2Proof.Machine.execMcount f s
  | .many f => Sys2Proof.Machine.execMany f s
  | .mall f => Sys2Proof.Machine.execMall f s
  | .mfirst f => Sys2Proof.Machine.execMfirst f s
  | .cvt f => Sys2Proof.Machine.execCvt f s
  | .vfrom f => Sys2Proof.Machine.execVfrom f s
  | .sfrom f => Sys2Proof.Machine.execSfrom f s
  | .sfromChk f => Sys2Proof.Machine.execSfromChk f s
  | .shfl f => Sys2Proof.Machine.execShfl f s
  | .shflup f => Sys2Proof.Machine.execShflup f s
  | .shfldn f => Sys2Proof.Machine.execShfldn f s
  | .shflx f => Sys2Proof.Machine.execShflx f s
  | .qswap f => Sys2Proof.Machine.execQswap f s
  | .qbcast f => Sys2Proof.Machine.execQbcast f s
  | .matchV f => Sys2Proof.Machine.execMatchV f s
  | .vscan f => Sys2Proof.Machine.execVscan f s
  | .vred f => Sys2Proof.Machine.execVred f s
  | .tshape f => Sys2Proof.Machine.execTshape f s
  | .tzero f => Sys2Proof.Machine.execTzero f s
  | .tload f => Sys2Proof.Machine.execTload f s
  | .tstore f => Sys2Proof.Machine.execTstore f s
  | .tzload f => Sys2Proof.Machine.execTzload f s
  | .tzstore f => Sys2Proof.Machine.execTzstore f s
  | .tmma f => Sys2Proof.Machine.execTmma f s
  | .tmmaFb f => Sys2Proof.Machine.execTmmaFb f s
  | .tzrow f => Sys2Proof.Machine.execTzrow f s
  | .qpack f => Sys2Proof.Machine.execQpack f s
  | .qunpk f => Sys2Proof.Machine.execQunpk f s
  | .xsect f => Sys2Proof.Machine.execXsect f s
  | .nzscan f => Sys2Proof.Machine.execNzscan f s
  | .ld f => Sys2Proof.Machine.execLd f s
  | .st f => Sys2Proof.Machine.execSt f s
  | .ldh f => Sys2Proof.Machine.execLdh f s
  | .sth f => Sys2Proof.Machine.execSth f s
  | .stag f => Sys2Proof.Machine.execStag f s
  | .ltag f => Sys2Proof.Machine.execLtag f s
  | .waitld f => Sys2Proof.Machine.execWaitld f s
  | .bcopy f => Sys2Proof.Machine.execBcopy f s
  | .bcopyR f => Sys2Proof.Machine.execBcopyR f s
  | .bcopyS f => Sys2Proof.Machine.execBcopyS f s
  | .bstore f => Sys2Proof.Machine.execBstore f s
  | .hread f => Sys2Proof.Machine.execHread f s
  | .hreadV f => Sys2Proof.Machine.execHreadV f s
  | .hret f => Sys2Proof.Machine.execHret f s
  | .atom f => Sys2Proof.Machine.execAtom f s
  | .atomh f => Sys2Proof.Machine.execAtomh f s
  | .fence f => Sys2Proof.Machine.execFence f s
  | .bar f => Sys2Proof.Machine.execBar f s
  | .sbar f => Sys2Proof.Machine.execSbar f s
  | .waitv f => Sys2Proof.Machine.execWaitv f s
  | .txalloc f => Sys2Proof.Machine.execTxalloc f s
  | .txexpect f => Sys2Proof.Machine.execTxexpect f s
  | .txarrive f => Sys2Proof.Machine.execTxarrive f s
  | .txwait f => Sys2Proof.Machine.execTxwait f s
  | .txfree f => Sys2Proof.Machine.execTxfree f s
  | .publ f => Sys2Proof.Machine.execPubl f s
  | .gnode f => Sys2Proof.Machine.execGnode f s
  | .gedge f => Sys2Proof.Machine.execGedge f s
  | .garm f => Sys2Proof.Machine.execGarm f s
  | .coll f => Sys2Proof.Machine.execColl f s
  | .collw f => Sys2Proof.Machine.execCollw f s
  | .trap f => Sys2Proof.Machine.execTrap f s
  | .sret f => Sys2Proof.Machine.execSret f s
  | .csrr f => Sys2Proof.Machine.execCsrr f s
  | .csrw f => Sys2Proof.Machine.execCsrw f s
  | .trapvec f => Sys2Proof.Machine.execTrapvec f s
  | .mappg f => Sys2Proof.Machine.execMappg f s
  | .tlbinv f => Sys2Proof.Machine.execTlbinv f s
  | .mark f => Sys2Proof.Machine.execMark f s
  | .nopShort f => Sys2Proof.Machine.execNopShort f s
  | .iaddShort f => Sys2Proof.Machine.execIaddShort f s
  | .isubShort f => Sys2Proof.Machine.execIsubShort f s
  | .imulShort f => Sys2Proof.Machine.execImulShort f s
  | .iminShort f => Sys2Proof.Machine.execIminShort f s
  | .imaxShort f => Sys2Proof.Machine.execImaxShort f s
  | .andShort f => Sys2Proof.Machine.execAndShort f s
  | .orShort f => Sys2Proof.Machine.execOrShort f s
  | .xorShort f => Sys2Proof.Machine.execXorShort f s
  | .shlShort f => Sys2Proof.Machine.execShlShort f s
  | .shrShort f => Sys2Proof.Machine.execShrShort f s
  | .sarShort f => Sys2Proof.Machine.execSarShort f s
  | .rolShort f => Sys2Proof.Machine.execRolShort f s
  | .iaddsShort f => Sys2Proof.Machine.execIaddsShort f s
  | .isubsShort f => Sys2Proof.Machine.execIsubsShort f s
  | .faddShort f => Sys2Proof.Machine.execFaddShort f s
  | .fsubShort f => Sys2Proof.Machine.execFsubShort f s
  | .fmulShort f => Sys2Proof.Machine.execFmulShort f s
  | .fminShort f => Sys2Proof.Machine.execFminShort f s
  | .fmaxShort f => Sys2Proof.Machine.execFmaxShort f s
  | .aaddShort f => Sys2Proof.Machine.execAaddShort f s
  | .asubShort f => Sys2Proof.Machine.execAsubShort f s
  | .amulShort f => Sys2Proof.Machine.execAmulShort f s
  | .ashlShort f => Sys2Proof.Machine.execAshlShort f s
  | .amovShort f => Sys2Proof.Machine.execAmovShort f s
  | .inegShort f => Sys2Proof.Machine.execInegShort f s
  | .notShort f => Sys2Proof.Machine.execNotShort f s
  | .popcShort f => Sys2Proof.Machine.execPopcShort f s
  | .clzShort f => Sys2Proof.Machine.execClzShort f s
  | .createCtx e => Sys2Proof.Machine.execCreateCtx e s
  | .destroyCtx e => Sys2Proof.Machine.execDestroyCtx e s
  | .mapPages e => Sys2Proof.Machine.execMapPages e s
  | .unmapPages e => Sys2Proof.Machine.execUnmapPages e s
  | .loadImage e => Sys2Proof.Machine.execLoadImage e s
  | .launch e => Sys2Proof.Machine.execLaunch e s
  | .graphSubmit e => Sys2Proof.Machine.execGraphSubmit e s
  | .queryDevice e => Sys2Proof.Machine.execQueryDevice e s
  | .queryFaultRing e => Sys2Proof.Machine.execQueryFaultRing e s
  | .queryCounters e => Sys2Proof.Machine.execQueryCounters e s
  | .querySolderSlots e => Sys2Proof.Machine.execQuerySolderSlots e s
  | .queryObservation e => Sys2Proof.Machine.execQueryObservation e s
  | .queryCoresched e => Sys2Proof.Machine.execQueryCoresched e s
  | .queryFenceRefusals e => Sys2Proof.Machine.execQueryFenceRefusals e s
  | .queryLinkPorts e => Sys2Proof.Machine.execQueryLinkPorts e s
  | .queryContext e => Sys2Proof.Machine.execQueryContext e s
  | .dump e => Sys2Proof.Machine.execDump e s
  | .installPatch e => Sys2Proof.Machine.execInstallPatch e s
  | .attest e => Sys2Proof.Machine.execAttest e s
  | .setBudget e => Sys2Proof.Machine.execSetBudget e s
  | .setHandle e => Sys2Proof.Machine.execSetHandle e s
  | .setTag e => Sys2Proof.Machine.execSetTag e s
  | .stopCtx e => Sys2Proof.Machine.execStopCtx e s
  | .observe e => Sys2Proof.Machine.execObserve e s
  | .debugWriteSlots e => Sys2Proof.Machine.execDebugWriteSlots e s
  | .debugHalt e => Sys2Proof.Machine.execDebugHalt e s
  | .debugResume e => Sys2Proof.Machine.execDebugResume e s
  | .debugStep e => Sys2Proof.Machine.execDebugStep e s
  | .debugFocus e => Sys2Proof.Machine.execDebugFocus e s
  | .debugEnd e => Sys2Proof.Machine.execDebugEnd e s
  | .setComm e => Sys2Proof.Machine.execSetComm e s
  | .hostWindow e => Sys2Proof.Machine.execHostWindow e s
  | .devstatGo v => Sys2Proof.Machine.execDevstatGo v s
  | .devstatMode v => Sys2Proof.Machine.execDevstatMode v s
  | .pwrctlWrite v => Sys2Proof.Machine.execPwrctlWrite v s
  | .fenceWindowWrite port win reg v => Sys2Proof.Machine.execFenceWindowWrite port win reg v s
  | .devnumWrite v => Sys2Proof.Machine.execDevnumWrite v s
  | .registerWrite off v => Sys2Proof.Machine.execRegisterWrite off v s
  | .deviceReset => Sys2Proof.Machine.execDeviceReset s
  | .linkTraining gtsMax up => Sys2Proof.Machine.execLinkTraining gtsMax up s
  | .cxlMemAccess win off wr => Sys2Proof.Machine.execCxlMemAccess win off wr s
  | .remoteTransaction r => Sys2Proof.Machine.execRemoteTransaction r s
  | .linkFailure port => Sys2Proof.Machine.execLinkFailure port s
  | .softError e => Sys2Proof.Machine.execSoftError e s
  | .waitvReread tid => Sys2Proof.Machine.execWaitvReread tid s
  | .sample core part => Sys2Proof.Machine.execSample core part s
  | .budgetLower core => Sys2Proof.Machine.execBudgetLower core s
  | .budgetRaise core => Sys2Proof.Machine.execBudgetRaise core s
  | .powerThrottle => Sys2Proof.Machine.execPowerThrottle s
  | .dieOvertemp die => Sys2Proof.Machine.execDieOvertemp die s
  | .thermalTrip => Sys2Proof.Machine.execThermalTrip s
  | .swapOut team => Sys2Proof.Machine.execSwapOut team s
  | .swapOutComplete team => Sys2Proof.Machine.execSwapOutComplete team s
  | .readmission team => Sys2Proof.Machine.execReadmission team s
  | .contextTimeslice core => Sys2Proof.Machine.execContextTimeslice core s
  | .contextSwitch core => Sys2Proof.Machine.execContextSwitch core s
  | .contextRestore core => Sys2Proof.Machine.execContextRestore core s
  | .handlerInstructionLimit tid => Sys2Proof.Machine.execHandlerInstructionLimit tid s
  | .emulationLimit tid => Sys2Proof.Machine.execEmulationLimit tid s
  | .supervisorWatchdog tid => Sys2Proof.Machine.execSupervisorWatchdog tid s
  | .starvationGuard core part => Sys2Proof.Machine.execStarvationGuard core part s
  | .placeTeam die => Sys2Proof.Machine.execPlaceTeam die s
  | .placeSpan die => Sys2Proof.Machine.execPlaceSpan die s
  | .loadDataReturn tid => Sys2Proof.Machine.execLoadDataReturn tid s
  | .resultWriteback tid => Sys2Proof.Machine.execResultWriteback tid s
  | .storePerform tid => Sys2Proof.Machine.execStorePerform tid s
  | .engineCommandStart cmd => Sys2Proof.Machine.execEngineCommandStart cmd s
  | .copySectorPerform cmd => Sys2Proof.Machine.execCopySectorPerform cmd s
  | .engineCompletionArrival cmd => Sys2Proof.Machine.execEngineCompletionArrival cmd s
  | .engineFault cmd => Sys2Proof.Machine.execEngineFault cmd s
  | .hailBurstRequest cmd => Sys2Proof.Machine.execHailBurstRequest cmd s
  | .hailBurstReturn cmd burst => Sys2Proof.Machine.execHailBurstReturn cmd burst s
  | .hailThreadBirth core => Sys2Proof.Machine.execHailThreadBirth core s
  | .graphNodeFinish die slot => Sys2Proof.Machine.execGraphNodeFinish die slot s
  | .collCompletion coll order => Sys2Proof.Machine.execCollCompletion coll order s
  | .groupSlotFree tid => Sys2Proof.Machine.execGroupSlotFree tid s
  | .asyncTrapDelivery tid => Sys2Proof.Machine.execAsyncTrapDelivery tid s
  | .slotUpdatePoint => Sys2Proof.Machine.execSlotUpdatePoint s
  | .arithmeticClockRise die => Sys2Proof.Machine.execArithmeticClockRise die s
  | .hubFirstTouchService cmd => Sys2Proof.Machine.execHubFirstTouchService cmd s

end Sys2Proof.Machine
end

