-- ==== Sys2Proof/Machine/Step.lean ====
section
/-! DEFINITION. One step of the machine, and the state in which a given instruction is the next one. -/

namespace Sys2Proof.Machine

/-- One step: whoever moves next acts, and time passes. -/
def step (s : State) : Host.Outcome State Fault Refusal :=
  afterOutcome (match s.begin with
    | .over t => .next t
    | .run i t => exec i t)

/-- `s` with the instruction of bits `w` where `step` fetches next: parcels in the code of a group that stands at them, or a
command entry in the host's ring (DESIGN CHOICE, log 29). -/
def State.withFetchWord (s : State) (nbits w : Nat) : State :=
  if nbits ≤ 96 then s.withProgram (toBytes 12 w) else s.withCommand (BitVec.ofNat 512 w)

end Sys2Proof.Machine
end

