-- ==== Sys2Proof/Machine/Examples.lean ====
section
/-! DEFINITION. The worked examples of the manual that state machine states (08 R162; 09 R199, R200; 10 R223): their argument
block and data, their statements' words, and the states of their walks for team 3, each made by the meanings of the other files. -/

namespace Sys2Proof.Machine.Examples

/-- P of the launch, its bias b and its output y. -/
def blockAt : Nat := 0x10000000
def biasAt : Nat := 0x4001010000
def outAt : Nat := 0x4001020000

/-- The argument block (R162), with the layout word of R223 behind it. -/
def block : List Byte :=
  toBytes 8 (blockAt + 224) ++ toBytes 8 (blockAt + 64) ++ toBytes 8 biasAt ++ toBytes 8 outAt ++ toBytes 8 100 ++
  toBytes 8 0x3E800000 ++ toBytes 8 (blockAt + 96) ++ toBytes 8 0x7F ++
  [0x40, 0x30, 0xB8, 0x44] ++ List.replicate 28 0 ++ List.replicate 97 0x7F ++ [0x7E, 0x81, 0x7F] ++ List.replicate 28 0 ++
  (List.replicate 96 (1 :: List.replicate 15 (0 : Byte))).flatten ++
  ([0xE3, 0x01] ++ List.replicate 14 0) ++ ([0xA8, 0x25] ++ List.replicate 14 0) ++ ([0x09, 0x70] ++ List.replicate 14 0) ++
  List.replicate 16 0 ++ toBytes 8 0x0001000100010000

/-- The 512 bytes of the bias (R199). -/
def bias : List Byte :=
  (List.replicate 96 0x3E800000 ++ [0xBF000000, 0x3E800000, 0xC1000000, 0x3FC00000] ++ List.replicate 28 0).flatMap (toBytes 4)

/-! ### The statements' words (R162, R199, R223), each with the number of its bits -/

def tshape0 : Nat × Nat := (96, 0x0041020E0003000000000203)
def tshape1 : Nat × Nat := (96, 0x0081001B0003000100000203)
def tload0 : Nat × Nat := (64, 0x00031C000208020A)
def tload1 : Nat × Nat := (64, 0x00030A010208020A)
def tmmaFb : Nat × Nat := (64, 0x1E0701808008021E)
def tzrow : Nat × Nat := (64, 0x0003018C00080222)
def ffma : Nat × Nat := (64, 0x1A2C190C8088010E)
def fmax : Nat × Nat := (32, 0x0000D94C)
def cvt : Nat × Nat := (64, 0x0023190E00980182)
/-- The `CLASS` of R162 and of R199, and the `HREAD`, whose literal says how far on the handler stands. -/
def class162 : Nat × Nat := (64, 0x0063170A00000026)
def class199 : Nat × Nat := (64, 0x0073170A00000026)
def hread (ahead : Nat) : Nat × Nat := (96, ahead * 2 ^ 64 + 0x2444200F020002B3)
def ldBias : Nat × Nat := (64, 0x00030C8D02280282)
def amul : Nat × Nat := (64, 0x001300820034014A)
def stBias : Nat × Nat := (64, 0x0003048082280286)
def hret : Nat × Nat := (64, 0x00000000000002BA)
def bstore : Nat × Nat := (64, 0x1E3A2801029802AE)
def txwait : Nat × Nat := (64, 0x00001E0002000326)
def jtab : Nat × Nat := (64, 0x0013000000000012)
def bcopyS : Nat × Nat := (64, 0x24602803020002AA)
def publ : Nat × Nat := (64, 0x000007800800032E)

/-! ### States -/

/-- The state that an instruction leaves with its pending work complete; a state that only a stop could follow is the reset state. -/
def after (i : Instr) (s : State) : State := match exec i s with | .next t => t.finishAll | _ => {}

/-- The instruction of a word, performed. -/
def word (w : Nat × Nat) (s : State) : State := (decodeTableWord w.1 w.2).elim {} (fun i => after i s)

/-- An event of the part, performed. -/
def event (i : Instr) (s : State) : State := match exec i s with | .next t => t | _ => {}

/-- Fields that are all zero. -/
def none_ : Fields := ⟨false, 0, 0, 0, 0, 0, 0, 0, 0, 0, 0, false, 0, 0, false, 0, 0⟩

/-- The group of team 3 of the launch: width 32, `s0` = 3 and `s2` = P, in a context of the register form whose handle table entries 0
to 3 are the four shadow pairs of R223. The block lies in scratchpad unit 0, the bias and the output in two pages of the global
window. The handler stands 64 bytes behind the group's first instruction. -/
def team3 : State :=
  let s := State.reset.withProgram []
  let handle (t : Nat) : SMap Word :=
    [(4 * t, BitVec.ofNat 64 (outAt + 128 * t)), (4 * t + 1, BitVec.ofNat 64 (outAt + 128 * t + 64)), (4 * t + 2, 64), (4 * t + 3, 0xF)]
  let s := s.modCtx 0 (fun c => { c with
    word := 0x2000, leaf := c.leaf ++ [(0x400101, 0x10001), (0x400102, 0x20001)], handles := (List.range 4).flatMap handle
    images := [{ number := 1, base := 0x4000000000, frames := [0], kernels := [probeKernel, { kind := 1, entry := 64, codeBytes := 64, vwin := 8, swin := 16, awin := 4 }] }] })
  let s := s.modTeam 1 (fun t => { t with binds := [0, 1, 2, 3], index := 3 })
  let more : SMap Owner := [(1, { who := ownerCtx 0 }), (2, { who := ownerCtx 0 }), (scratchUnit 0 0, { who := ownerCtx 0, ro := true })]
  let s := { s with
    owners := s.owners ++ more
    mem := s.mem ++ cellsAt (mainKey 0x10000) bias ++ cellsAt (scratchKey 0 0) block }
  { s with mem := s.mem.filter (fun c => c.2 != 0) }.modThr (fun t =>
    { t with width := 32, real := 0xFFFFFFFF, m0 := 0xFFFFFFFF, name := { t.name with team := 3 },
             files := { t.files with s := [(0, 3), (2, BitVec.ofNat 64 blockAt)] } })

/-- Registers written and the mask set, as the earlier walk leaves them. -/
def standing (s : State) (m : Word) (ws : List RegWrite) : State := s.modThr (fun t => { (t.writes ws) with m0 := m })

/-- Lanes 0 to 3 of a register. -/
def lanes (s : State) (n : Nat) : List LaneWord := (List.range 4).map (s.thr.vReg n)

/-! ### The walk of R162 -/

/-- Where the walk begins: shapes written, `s12` to `s14`, `s5`, `s11` and `a5` formed, the in-range class of four lanes running. -/
def start162 : State :=
  standing (word tshape1 (word tshape0 team3)) 0xF
    [.s 12 (BitVec.ofNat 64 (blockAt + 96)) false, .s 13 0x7F0000 false, .s 14 (BitVec.ofNat 64 (blockAt + 1760)) false,
     .s 5 (BitVec.ofNat 64 (blockAt + 64)) false, .s 11 0x3E800000 false, .a 5 { base := BitVec.ofNat 64 (blockAt + 192), stride := 1 } false]
/-- Points 1 and 2: the tiles are loaded. -/
def tiles162 : State := word tload1 (word tload0 start162)
/-- Points 3 and 4: the block scales. -/
def scales162 : State :=
  after (.orShort ⟨false, 13, 0, 15, 2, 0⟩) (after (.ld { none_ with fc := 2, et := 4, rs := 1, d := 15, ak := 1, a := 5, bk := 3 }) tiles162)
/-- Points 5 and 6: the block-scaled product, and each lane's sum. -/
def sums162 : State := word tzrow (word tmmaFb scales162)
/-- Points 7 and 8: the epilogue. -/
def end162 : State := word cvt (word fmax (word ffma sums162))

/-! ### The walk of R199 -/

/-- Points 1 and 2: the read's operands, `a6`, and the barrier. -/
def start199 : State :=
  after (.txalloc { none_ with d := 15, c := 1, ck := 3 })
    (standing team3 0xFFFFFFFF [.s 16 (BitVec.ofNat 64 (biasAt + 0x180)) false, .s 17 128 false, .a 6 { base := 0, stride := 4 } false])
/-- Point 3: the read. The handler's `ENTRY` stands 14 parcels on. -/
def read199 : State := word (hread 14) start199
/-- The read's command: the only one. -/
def cmd199 : Nat := (read199.cmds.head?.map (·.1)).getD 0
/-- Point 4: the burst comes back, and its thread is born; the thread moves next. -/
def born199 : State :=
  let s := event (.hailThreadBirth 0) (event (.hailBurstReturn cmd199 0) (event (.hailBurstRequest cmd199) (event (.engineCommandStart cmd199) read199)))
  (s.threads.find? (fun t => t.name.hail)).elim s (fun t => s.focus t.id)
/-- Point 5: the handler, and the arrival. -/
def handled199 : State :=
  let s := (word hret (word stBias (word amul born199)))
  (event (.engineCompletionArrival cmd199) s).focus read199.thr.id
/-- Points 6 to 10: the matrix increment's sums, the wait, the bias of each lane's row, and the epilogue. -/
def bias199 : State :=
  word ldBias (word txwait (standing handled199 0xF [.s 11 0x3E800000 false, .v 768 0x40800000 false, .v 769 0x41B80000 false, .v 770 0x41E00000 false]))
def fused199 : State := word ffma bias199
def end199 : State := word cvt (word fmax fused199)

/-! ### The walk of R223 -/

/-- Points 1 and 2: the slice's address, and the store of `v14`. -/
def stored223 : State := word bstore (standing end199 0xF [.s 20 128 false])
def cmd223 (s : State) : Nat := (s.cmds.getLast?.map (·.1)).getD 0
/-- Point 3: the group waits; the store performs its sector, and its arrival ends the wait. -/
def waited223 : State :=
  let c := cmd223 stored223
  event (.engineCompletionArrival c) (event (.copySectorPerform c) (event (.engineCommandStart c) (word txwait stored223)))
/-- Points 4 and 5: the count, the layout words, and the jump by the team index. -/
def jumped223 : State :=
  let counted := after (.mcount { none_ with d := 19 }) (standing waited223 0xF [.s 25 0x0001000100010000 false, .s 24 1 false])
  word jtab (after (.orB { none_ with d := 25, a := 25, b := 19, et := 3 }) counted)
/-- Point 6: the copy into the shadow bank, performed. -/
def copied223 : State :=
  let s := word bcopyS jumped223
  let c := cmd223 s
  event (.engineCompletionArrival c) (event (.copySectorPerform c) (event (.engineCommandStart c) s))
/-- Point 7: the publish point. -/
def published223 : State := word publ copied223

end Sys2Proof.Machine.Examples
end

