-- ==== Sys2Proof/Machine/Ordering.lean ====
section
/-! DEFINITION. The ordering rules of chapter 11: the events that instructions make, executions and their relations, and the
five axioms that say which executions are consistent (11 R225-R234; 01 R23). The machine of the other files makes the
executions of one order of its events; these definitions judge any execution of any number of threads. -/

namespace Sys2Proof.Machine.Ordering

/-! ### Events (R225, R227, R230) -/

/-- What an event does to memory. -/
inductive Kind where
  | read | write | fence | sync
  deriving DecidableEq, Repr

/-- What an event is of (R225). A burst event bears the burst's index; an arrival its place among the arrivals on its barrier; the
end of a `TXWAIT` how many of them it observes, by their phase or because it finds PEND = 0 after them (R212). -/
inductive Form where
  /-- a lane of `LD`, `ST`, `LDH`, `STH`, `LTAG`, `STAG`; of `ATOM`, `ATOMH` -/
  | lane | atom
  /-- a sector of a tile transfer; a read of `WAITV`; the BANK read of a handle access; a publish point; a `FENCE` -/
  | tile | wait | bank | publish | fence
  /-- of an engine command: a source byte or destination sector of a copy, a sector of a burst -/
  | source | sector
  | burst (k : Nat)
  | barArrive (key phase : Nat)
  | barResume (key phase : Nat)
  | txArrive (bar n : Nat)
  | txEnd (bar seen : Nat)
  | nodeFinish (node : Nat)
  | nodeStart (preds : List Nat)
  deriving DecidableEq, Repr

/-- Where a thread runs (01 R4, R6). -/
structure Site where
  dev : Nat := 0
  die : Nat := 0
  core : Nat := 0
  team : Nat := 0
  /-- The host, which lies on no core. -/
  host : Bool := false
  deriving DecidableEq, Repr

/-- An event (R225): its thread and slot, the bytes it touches and the values it writes there, its order and its scope, 0 `.group`
to 5 `.sys`. An event of an engine command bears the thread and the slot that issued the command. What a read returns, its
source says (`Execution.value`). -/
structure Event where
  thread : Nat
  slot : Nat := 0
  site : Site := {}
  form : Form := .lane
  kind : Kind
  locs : List Nat := []
  vals : List Nat := []
  rel : Bool := false
  acq : Bool := false
  scope : Nat := 1
  /-- an event of an engine command, whose command names barrier 0 -/
  engine : Bool := false
  free : Bool := false
  /-- an engine's access to a strongly ordered page (R225) -/
  strong : Bool := false
  /-- the BANK of the entry whose shadow bank a `BCOPY.S` fills (R232) -/
  entry : Option Nat := none
  /-- a hail thread's read, by its thread and slot, and the thread's burst -/
  parent : Option (Nat × Nat × Nat) := none
  deriving DecidableEq, Repr

/-- Bytes of one access of a lane: 1, 2, 4 or 8, on its own alignment (R227). -/
def aligned (l : List Nat) : Bool :=
  [1, 2, 4, 8].contains l.length && l == (List.range l.length).map (fun i => l.headD 0 + i) && l.headD 0 % l.length == 0

/-- Bytes of one 32-byte sector (R227). -/
def oneSector (l : List Nat) : Bool := !l.isEmpty && l.all (fun b => b / 32 == l.headD 0 / 32)

/-- An event is a unit of single-copy atomicity (R227), and it is a release or an acquire as R230 says of what it is of. -/
def Event.legal (e : Event) : Bool :=
  (match e.form, e.kind with
  | .lane, .read | .lane, .write | .atom, .read | .atom, .write | .wait, .read => aligned e.locs
  | .tile, .read | .tile, .write => oneSector e.locs
  | .bank, .read => e.locs.length == 1 && !e.acq
  | .publish, .write => e.locs.length == 1 && e.rel
  | .fence, .fence => e.locs.isEmpty && (e.rel || e.acq)
  | .source, .read => e.locs.length == 1 && e.engine
  | .sector, .write => oneSector e.locs && e.engine && e.rel
  | .burst _, .read => oneSector e.locs && e.engine
  | .barArrive _ _, .sync | .txArrive _ _, .sync | .nodeFinish _, .sync => e.locs.isEmpty && e.rel
  | .barResume _ _, .sync | .txEnd _ _, .sync | .nodeStart _, .sync => e.locs.isEmpty && e.acq
  | _, _ => false) &&
  e.vals.length == (if e.kind == .write then e.locs.length else 0) &&
  (if e.strong then e.engine && e.rel && e.acq && e.scope == 5
   else (e.kind != .read || !e.rel) && (e.kind != .write || !e.acq) &&
     !(e.acq && (match e.form with | .source | .burst _ => true | _ => false))) &&
  (!e.site.host || (!e.rel && !e.acq && e.scope == 5))

/-! ### The events of instructions (R225, R226) -/

/-- Bytes from `a` on, and the bytes of a value there. -/
def span (a n : Nat) : List Nat := (List.range n).map (fun i => a + i)
def cells (a n v : Nat) : List (Nat × Nat) := (List.range n).map (fun i => (a + i, v / 256 ^ i % 256))

/-- What an instruction does to memory: its accesses in the order of its lanes or sectors, its memory order, its scope, and the BANK
that a handle access reads. -/
inductive Op where
  | load (lanes : List (List Nat)) (acq : Bool) (scope : Nat) (bank : Option Nat)
  | store (lanes : List (List (Nat × Nat))) (rel : Bool) (scope : Nat) (bank : Option Nat)
  | atomic (lanes : List (List (Nat × Nat))) (rel acq : Bool) (scope : Nat) (bank : Option Nat)
  | tileLoad (sectors : List (List Nat)) (acq : Bool) (scope : Nat) (bank : Option Nat)
  | tileStore (sectors : List (List (Nat × Nat))) (rel : Bool) (scope : Nat) (bank : Option Nat)
  /-- `WAITV`, which reads its location `tries` times, the last of which satisfies it -/
  | waitv (locs : List Nat) (tries : Nat) (acq : Bool) (scope : Nat)
  | fence (rel acq : Bool) (scope : Nat)
  /-- `BAR` and `SBAR`: the barrier and the phase, at `.team` or `.dev` scope (10 R207) -/
  | barrier (key phase : Nat) (span : Bool)
  | txArrive (bar n : Nat) (scope : Nat)
  | txWait (bar seen : Nat) (scope : Nat)
  | publ (bank value : Nat) (scope : Nat)
  /-- a copy or `BSTORE`: source bytes and destination sectors, each with whether it lies in a strongly ordered page, the barrier with
  the arrival's place, the entry that a `BCOPY.S` fills, and the BANKs that its handles read -/
  | copy (src : List (Nat × Bool)) (dst : List (List (Nat × Nat) × Bool)) (scope : Nat) (bar : Option (Nat × Nat)) (entry : Option Nat)
      (banks : List Nat)
  /-- a hail read: the sectors of each burst, each with whether it lies in a strongly ordered page -/
  | hread (bursts : List (List (List Nat × Bool))) (scope : Nat) (bar : Option (Nat × Nat)) (bank : Option Nat)
  | nodeFinish (node : Nat) (scope : Nat)
  | nodeStart (preds : List Nat) (scope : Nat)
  deriving DecidableEq, Repr

/-- A thread: its instructions in the order of their slots. A hail thread names its read and whether that names barrier 0. -/
structure Party where
  thread : Nat
  site : Site := {}
  parent : Option (Nat × Nat × Nat) := none
  free : Bool := false
  ops : List Op
  deriving DecidableEq, Repr

/-- The events of an instruction (R225), given an event that bears the thread, the slot and the site. -/
def Op.events (e : Event) (o : Op) : List Event :=
  let rd (f : Form) (l : List Nat) (acq : Bool) (k : Nat) : Event := { e with form := f, kind := .read, locs := l, acq := acq, scope := k }
  let wr (f : Form) (l : List (Nat × Nat)) (rel : Bool) (k : Nat) : Event :=
    { e with form := f, kind := .write, locs := l.map (·.1), vals := l.map (·.2), rel := rel, scope := k }
  let sy (f : Form) (rel acq : Bool) (k : Nat) : Event := { e with form := f, kind := .sync, rel := rel, acq := acq, scope := k }
  let bks (bs : List Nat) (k : Nat) : List Event := bs.map (fun l => rd .bank [l] false k)
  let bk (b : Option Nat) (k : Nat) : List Event := bks b.toList k
  let eng (free strong : Bool) (x : Event) : Event :=
    if strong then { x with engine := true, free := free, strong := true, rel := true, acq := true, scope := 5 }
    else { x with engine := true, free := free }
  let done (bar : Option (Nat × Nat)) (k : Nat) : List Event :=
    bar.toList.map (fun b => eng false false (sy (.txArrive b.1 b.2) true false k))
  match o with
  | .load ls acq k b => bk b k ++ ls.map (fun l => rd .lane l acq k)
  | .store ls rel k b => bk b k ++ ls.map (fun l => wr .lane l rel k)
  | .atomic ls rel acq k b => bk b k ++ ls.flatMap (fun l => [rd .atom (l.map (·.1)) acq k, wr .atom l rel k])
  | .tileLoad ls acq k b => bk b k ++ ls.map (fun l => rd .tile l acq k)
  | .tileStore ls rel k b => bk b k ++ ls.map (fun l => wr .tile l rel k)
  | .waitv l n acq k => (List.range n).map (fun i => rd .wait l (acq && i + 1 == n) k)
  | .fence rel acq k => [{ e with form := .fence, kind := .fence, rel := rel, acq := acq, scope := k }]
  | .barrier key p span => [sy (.barArrive key p) true false (if span then 4 else 1), sy (.barResume key p) false true (if span then 4 else 1)]
  | .txArrive b n k => [sy (.txArrive b n) true false k]
  | .txWait b n k => [sy (.txEnd b n) false true k]
  | .publ b v k => [wr .publish [(b, v)] true k]
  | .copy src dst k bar entry bs =>
    bks bs k ++ src.map (fun l => eng bar.isNone l.2 (rd .source [l.1] false k)) ++
    dst.map (fun l => { eng bar.isNone l.2 (wr .sector l.1 true k) with entry := entry }) ++ done bar k
  | .hread bs k bar b =>
    bk b k ++ ((List.range bs.length).zip bs).flatMap (fun x => x.2.map (fun l => eng bar.isNone l.2 (rd (.burst x.1) l.1 false k))) ++
      done bar k
  | .nodeFinish n k => [sy (.nodeFinish n) true false k]
  | .nodeStart ps k => [sy (.nodeStart ps) false true k]

/-- The events of a thread. -/
def Party.events (p : Party) : List Event :=
  ((List.range p.ops.length).zip p.ops).flatMap (fun x =>
    x.2.events { thread := p.thread, slot := x.1, site := p.site, kind := .sync, parent := p.parent, free := p.free })

/-! ### Executions (R226, R228) -/

/-- A relation over events, which are numbered by their place in `Execution.events`. -/
abbrev Rel := List (Nat × Nat)

/-- An execution: its events, and what is not fixed by them (R228, R231). -/
structure Execution where
  events : List Event
  /-- Reads-from, as (byte, write, read); a read with no entry for a byte reads its initial write. -/
  rf : List (Nat × Nat × Nat) := []
  /-- Coherence: for each byte, its writes in order. -/
  co : List (Nat × List Nat) := []
  /-- The total order of the `FENCE.ar` events (R231 case 6). -/
  fo : List Nat := []
  /-- The initial value of a byte, where it is not zero. -/
  init : List (Nat × Nat) := []
  deriving DecidableEq, Repr

variable (x : Execution)

/-- An event by its number. -/
def Execution.ev (i : Nat) : Event := x.events.getD i { thread := 0, kind := .sync }

/-- The pairs of events of which something holds. -/
def Execution.pairs (p : Nat → Nat → Bool) : Rel :=
  (List.range x.events.length).flatMap (fun i => ((List.range x.events.length).filter (p i)).map (fun j => (i, j)))

/-- The pairs of a list in which the first stands before the second. -/
def before (l : List Nat) : Rel :=
  match l with
  | [] => []
  | a :: r => r.map (fun b => (a, b)) ++ before r

/-- What is reached from some events in one step or more. -/
def reachFrom (r : Rel) (fuel : Nat) (front seen : List Nat) : List Nat :=
  match fuel with
  | 0 => seen
  | k + 1 =>
    let new := ((r.filter (fun p => front.contains p.1)).map (·.2)).eraseDups.filter (fun j => !seen.contains j)
    if new.isEmpty then seen else reachFrom r k new (seen ++ new)

/-- The transitive closure over the events below `n`. -/
def closure (n : Nat) (r : Rel) : Rel := (List.range n).flatMap (fun a => (reachFrom r n [a] []).map (fun b => (a, b)))

/-- Take away, again and again, the events that no event left stands before. -/
def peel (r : Rel) (fuel : Nat) (l : List Nat) : List Nat :=
  match fuel with
  | 0 => l
  | k + 1 => peel r k (l.filter (fun j => r.any (fun p => p.2 == j && l.contains p.1)))

/-- A relation with no cycle. -/
def acyclic (n : Nat) (r : Rel) : Bool := (peel r n (List.range n)).isEmpty

/-- Whether two events of one instruction, the first of them made first, stand in po (R226): a BANK read before the access's other
events, the sectors of a tile transfer, writes of lanes to a common byte, and the read-modify-writes of an atomic at one location.
The arrival at a barrier comes before the resumption, and the several reads of one WAITV are unordered: R226 names neither (DEDUCED,
log 77). -/
def inOrder (e f : Event) : Bool :=
  match e.form, f.form with
  | .bank, .bank => false
  | .bank, _ => true
  | .tile, .tile => true
  | .barArrive _ _, .barResume _ _ => true
  | .lane, .lane => e.kind == .write && f.kind == .write && e.locs.any f.locs.contains
  | .atom, .atom => e.locs.any f.locs.contains
  | _, _ => false

/-- Program order (R226): the events of one thread by slot, and within one instruction as `inOrder` says; an engine command's
events are not in it. -/
def Execution.po : Rel :=
  closure x.events.length (x.pairs (fun i j =>
    let e := x.ev i
    let f := x.ev j
    e.thread == f.thread && !e.engine && !f.engine && (e.slot < f.slot || (e.slot == f.slot && i < j && inOrder e f))))

/-- The reads and writes that an atomic joins (R225). -/
def Execution.rmw : Rel :=
  x.pairs (fun i j => j == i + 1 &&
    (let e := x.ev i
     let f := x.ev j
     e.form == .atom && f.form == .atom && e.kind == .read && f.kind == .write && e.thread == f.thread && e.slot == f.slot))

/-! ### The basic relations (R228) -/

/-- The writes of a byte in coherence order. -/
def Execution.coAt (b : Nat) : List Nat := (x.co.find? (fun p => p.1 == b)).elim [] (·.2)

/-- Coherence at a byte, as pairs. -/
def Execution.coRel (b : Nat) : Rel := before (x.coAt b)

/-- Reads-from at a byte. -/
def Execution.rfAt (b : Nat) : Rel := (x.rf.filter (fun t => t.1 == b)).map (·.2)

/-- The write that a read reads from at a byte; `none` is the initial write. -/
def Execution.source (b r : Nat) : Option Nat := ((x.rfAt b).find? (fun p => p.2 == r)).map (·.1)

/-- The bytes that some event touches. -/
def Execution.bytes : List Nat := (x.events.flatMap Event.locs).eraseDups

/-- The events of a kind that touch a byte. -/
def Execution.at (k : Kind) (b : Nat) : List Nat :=
  (List.range x.events.length).filter (fun i => (x.ev i).kind == k && (x.ev i).locs.contains b)

/-- The writes after one in the coherence order of a byte, all of them after the initial write. -/
def Execution.later (b : Nat) (w : Option Nat) : List Nat :=
  match w with
  | none => x.coAt b
  | some w => ((x.coAt b).dropWhile (· != w)).drop 1

/-- From-read at a byte: to every write after the one read from. -/
def Execution.frAt (b : Nat) : Rel :=
  (x.at .read b).flatMap (fun r => (x.later b (x.source b r)).map (fun w => (r, w)))

def Execution.rfRel : Rel := x.bytes.flatMap x.rfAt
def Execution.coAll : Rel := (x.bytes.flatMap x.coRel).eraseDups
def Execution.frAll : Rel := (x.bytes.flatMap x.frAt).eraseDups

/-- The relations whose closure is eco. -/
def Execution.ecoBase : Rel := x.rfRel.eraseDups ++ x.coAll ++ x.frAll

/-- eco. -/
def Execution.eco : Rel := closure x.events.length x.ecoBase

/-- Reads from another thread's write. -/
def Execution.rfe : Rel := x.rfRel.eraseDups.filter (fun p => (x.ev p.1).thread != (x.ev p.2).thread)

/-- The value that an event writes at a byte. -/
def Event.valAt (e : Event) (b : Nat) : Nat := ((e.locs.zip e.vals).find? (fun p => p.1 == b)).elim 0 (·.2)

/-- The value that a read returns (R225): byte by byte that of its source. -/
def Execution.value (r : Nat) : Nat :=
  ((x.ev r).locs.map (fun b => match x.source b r with
    | some w => (x.ev w).valAt b
    | none => (x.init.find? (fun p => p.1 == b)).elim 0 (·.2))).foldr (fun v n => v + 256 * n) 0

/-- The final value of a byte (R228). -/
def Execution.final (b : Nat) : Nat :=
  match (x.coAt b).getLast? with
  | some w => (x.ev w).valAt b
  | none => (x.init.find? (fun p => p.1 == b)).elim 0 (·.2)

/-! ### Synchronises-with (R229-R231) -/

/-- Whether a thread at a site lies in a scope of another (01 R23). -/
def inScope (scope : Nat) (e f : Event) : Bool :=
  let a := e.site
  let b := f.site
  match scope with
  | 0 => e.thread == f.thread
  | 1 => !a.host && !b.host && a.dev == b.dev && a.team == b.team
  | 2 => !a.host && !b.host && a.dev == b.dev && a.die == b.die && a.core == b.core
  | 3 => !a.host && !b.host && a.dev == b.dev && a.die == b.die
  | 4 => !a.host && !b.host && a.dev == b.dev
  | _ => true

/-- Scope inclusion (R229). -/
def Execution.includes (i j : Nat) : Bool :=
  let e := x.ev i
  let f := x.ev j
  inScope e.scope e f && inScope f.scope f e

/-- The releases that stand for a write: itself, and the release fences before it (R230). -/
def Execution.releases (w : Nat) : List Nat :=
  (if (x.ev w).rel then [w] else []) ++
  (x.po.filter (fun p => p.2 == w && (x.ev p.1).kind == .fence && (x.ev p.1).rel)).map (·.1)

/-- The acquires that stand for a read: itself, and the acquire fences after it (R230). -/
def Execution.acquires (r : Nat) : List Nat :=
  (if (x.ev r).acq then [r] else []) ++
  (x.po.filter (fun p => p.1 == r && (x.ev p.2).kind == .fence && (x.ev p.2).acq)).map (·.2)

/-- A write and the read-modify-writes that follow it alone in coherence (R231 case 1). -/
def Execution.chain (b w : Nat) : List Nat := w :: (x.later b (some w)).takeWhile (fun v => x.rmw.any (fun p => p.2 == v))

/-- Case 1 of R231. -/
def Execution.swMemory : Rel :=
  (x.bytes.flatMap (fun b => (x.at .write b).flatMap (fun w =>
    ((x.rfAt b).filter (fun p => (x.chain b w).contains p.1)).map (fun p => (w, p.2))))).eraseDups.flatMap (fun p =>
      (x.releases p.1).flatMap (fun e => ((x.acquires p.2).filter (x.includes e)).map (fun f => (e, f))))

/-- Cases 2, 3 and 5 of R231: of synchronisation events. -/
def Execution.swSync : Rel :=
  x.pairs (fun i j => match (x.ev i).form, (x.ev j).form with
    | .barArrive k p, .barResume l q => k == l && p == q
    | .txArrive b n, .txEnd c m => b == c && n < m && x.includes i j
    | .nodeFinish n, .nodeStart ps => ps.contains n
    | _, _ => false)

/-- Whether an event is another event of the handle access that a BANK read is made for (R226): any but a BANK read of its instruction,
since a copy counts as one access (R213). -/
def Event.ofAccess (f e : Event) : Bool := e.form == .bank && f.form != .bank && f.thread == e.thread && f.slot == e.slot

/-- Cases 1 and 4 of R231 for a BANK: a publish point, and every release fence before it, with every event of a handle access whose BANK
read reads from it; that read is an acquire for its access alone (R230). -/
def Execution.swPublish : Rel :=
  (x.rfRel.filter (fun p => (x.ev p.1).form == .publish)).flatMap (fun p =>
    (x.releases p.1).flatMap (fun e =>
      ((List.range x.events.length).filter (fun j => (x.ev j).ofAccess (x.ev p.2) && x.includes e j)).map (fun j => (e, j))))

/-- Synchronises-with (R231). -/
def Execution.sw : Rel :=
  x.swMemory ++ x.swSync ++ x.swPublish ++ (before x.fo).filter (fun p => x.includes p.1 p.2)

/-! ### The engines (R232) -/

/-- Whether an event is of the command that a thread issued in a slot, and of one of its hail threads. -/
def Event.ofCmd (e : Event) (t slot : Nat) : Bool := e.engine && e.thread == t && e.slot == slot
def Event.ofHail (e : Event) (t slot : Nat) : Bool := e.parent.any (fun p => p.1 == t && p.2.1 == slot)

/-- The edges of the engines: issue, sector order, birth, handler completion, fence wait and publish wait. A fence waits for the
hail threads of a read as for the read (10 R206) (DEDUCED, log 77). -/
def Execution.eng : Rel :=
  x.pairs (fun i j =>
    let e := x.ev i
    let f := x.ev j
    let issued (t slot : Nat) : Bool := !e.engine && e.thread == t && (e.slot < slot || (e.slot == slot && f.ofAccess e))
    -- issue
    (f.engine && issued f.thread f.slot) || f.parent.any (fun p => issued p.1 p.2.1) ||
    -- sector order
    (e.form == .sector && f.form == .sector && f.ofCmd e.thread e.slot && i < j) ||
    -- birth
    (match e.form with | .burst k => f.parent == some (e.thread, e.slot, k) | _ => false) ||
    -- handler completion
    (match f.form with
      | .txArrive _ _ => f.engine && ((e.form == .sector && e.ofCmd f.thread f.slot) || e.ofHail f.thread f.slot)
      | _ => false) ||
    -- fence wait
    (f.kind == .fence && f.rel && e.free &&
      ((e.engine && e.thread == f.thread && e.slot < f.slot) || e.parent.any (fun p => p.1 == f.thread && p.2.1 < f.slot))) ||
    -- publish wait
    (f.form == .publish && e.form == .sector && e.thread == f.thread && e.slot < f.slot && e.entry.any (fun b => f.locs == [b])))

/-- The relations whose closure is happens-before. -/
def Execution.hbBase : Rel := x.po ++ x.sw ++ x.eng

/-- Happens-before (R233). -/
def Execution.hb : Rel := closure x.events.length x.hbBase

/-! ### The axioms (R227, R234) -/

/-- Coherence. -/
def Execution.coherence : Bool :=
  x.bytes.all (fun b =>
    let poLoc := x.po.filter (fun p => (x.ev p.1).locs.contains b && (x.ev p.2).locs.contains b)
    acyclic x.events.length (poLoc ++ x.rfAt b ++ x.coRel b ++ x.frAt b))

/-- Atomicity: the write of a read-modify-write follows at once the write its read reads from. -/
def Execution.atomicity : Bool :=
  x.rmw.all (fun p => (x.ev p.2).locs.all (fun b => (x.later b (x.source b p.1)).head? == some p.2))

/-- Whether an event is of a group or hail thread of a core; an engine's is not. -/
def Execution.onCore (c : Nat × Nat × Nat) (i : Nat) : Bool :=
  let e := x.ev i
  !e.site.host && !e.engine && (e.site.dev, e.site.die, e.site.core) == c

/-- ppo of R234: a write followed by a read of other bytes, with no fence between, is outside it. -/
def Execution.ppo : Rel :=
  x.po.filter (fun p =>
    let e := x.ev p.1
    let f := x.ev p.2
    !(e.kind == .write && f.kind == .read && !(e.locs.any f.locs.contains)) ||
    x.po.any (fun q => q.1 == p.1 && (x.ev q.2).kind == .fence && x.po.contains (q.2, p.2)))

/-- Core order, for every core. -/
def Execution.coreOrder : Bool :=
  let cores := (x.events.map (fun e => (e.site.dev, e.site.die, e.site.core))).eraseDups
  let r := x.ppo ++ x.rfe ++ x.coAll ++ x.frAll
  cores.all (fun c => acyclic x.events.length (r.filter (fun p => x.onCore c p.1 && x.onCore c p.2)))

/-- Causality: hb followed by eco is irreflexive. -/
def Execution.causality : Bool :=
  let hb := x.hbBase
  let eco := x.ecoBase
  let n := x.events.length
  (List.range n).all (fun a => !(reachFrom eco n (reachFrom hb n [a] []) []).contains a)

/-- No thin air. -/
def Execution.noThinAir : Bool := acyclic x.events.length (x.po ++ x.rfRel)

/-- Two lists hold the same items, each once. -/
def sameItems (l m : List Nat) : Bool := l.eraseDups == l && l.all m.contains && m.all l.contains

/-- A read unit does not see part of a write unit (R227): where it reads from a write, it reads from that write, or from one after it,
at every byte the two share (DEDUCED, log 77). -/
def Execution.untorn (r : Nat) : Bool :=
  (x.ev r).locs.all (fun b => match x.source b r with
    | none => true
    | some w => ((x.ev r).locs.filter (x.ev w).locs.contains).all (fun c =>
        x.source c r == some w || (x.source c r).any (fun v => (x.later c (some w)).contains v)))

/-- An execution's relations fit its events (R227, R228, R230, R231): every event is what its instruction makes it; a byte's coherence
order lists its writes once each, and two writes stand alike in that of every byte they share; a read has one source for a byte,
a write of it; read units are untorn; of the reads of a `WAITV` the last alone is an acquire; and every `FENCE.ar` lies in fo. -/
def Execution.wf : Bool :=
  let n := x.events.length
  x.events.all Event.legal &&
  x.bytes.all (fun b => sameItems (x.coAt b) (x.at .write b)) &&
  x.bytes.all (fun b => (x.coRel b).all (fun p =>
    ((x.ev p.1).locs.filter (x.ev p.2).locs.contains).all (fun c => (x.coRel c).contains p))) &&
  x.rf.all (fun t => (x.at .write t.1).contains t.2.1 && (x.at .read t.1).contains t.2.2 &&
    (x.rf.filter (fun u => u.1 == t.1 && u.2.2 == t.2.2)).length == 1) &&
  (List.range n).all (fun r => (x.ev r).kind != .read || x.untorn r) &&
  (x.pairs (fun i j => i < j && (x.ev i).form == .wait && (x.ev j).form == .wait && (x.ev i).thread == (x.ev j).thread &&
    (x.ev i).slot == (x.ev j).slot)).all (fun p => !(x.ev p.1).acq) &&
  sameItems x.fo ((List.range n).filter (fun i => (x.ev i).kind == .fence && (x.ev i).rel && (x.ev i).acq))

/-- A consistent execution satisfies all five axioms (R234). -/
def Execution.consistent : Bool :=
  x.wf && x.coherence && x.atomicity && x.coreOrder && x.causality && x.noThinAir

/-! ### The executions of some threads -/

/-- Every order of a list. -/
def orders (l : List Nat) : List (List Nat) :=
  match l with
  | [] => [[]]
  | a :: r => (orders r).flatMap (fun m => (List.range (m.length + 1)).map (fun i => m.take i ++ a :: m.drop i))

/-- Every way to choose one item from each list. -/
def choices {α : Type} (ls : List (List α)) : List (List α) :=
  match ls with
  | [] => [[]]
  | l :: r => l.flatMap (fun a => (choices r).map (fun m => a :: m))

/-- Every execution of some events in which bytes with the same writers have the same coherence order, and a read takes such bytes from one
write: what two writes and a read unit all cover differs in no execution that is well-formed (R227, R228). -/
def executions (es : List Event) (init : List (Nat × Nat)) : List Execution :=
  let x : Execution := { events := es, init := init }
  let writers := (x.bytes.map (x.at .write)).eraseDups
  let reads := (List.range es.length).filter (fun r => (x.ev r).kind == .read)
  let want (r : Nat) : List (List Nat) := ((x.ev r).locs.map (x.at .write)).eraseDups
  let rfs := choices ((reads.flatMap (fun r => (want r).map (fun k => (r, k)))).map (fun p =>
    (none :: p.2.map some).map (fun w => (p.1, p.2, w))))
  let fences := (List.range es.length).filter (fun i => (x.ev i).kind == .fence && (x.ev i).rel && (x.ev i).acq)
  (choices (writers.map orders)).flatMap (fun cos => rfs.flatMap (fun rf => (orders fences).map (fun fo =>
    { x with
      fo := fo
      co := x.bytes.map (fun b => (b, (cos.find? (fun l => (x.at .write b).all l.contains && l.all (x.at .write b).contains)).getD []))
      rf := rf.flatMap (fun t => match t.2.2 with
        | none => []
        | some w => ((x.ev t.1).locs.filter (fun b => x.at .write b == t.2.1)).map (fun b => (b, w, t.1))) })))

/-- The values that the reads of the groups return, in the order of the events. -/
def Execution.outcome : List Nat :=
  ((List.range x.events.length).filter (fun r => (x.ev r).kind == .read && !(x.ev r).engine && (x.ev r).parent.isNone)).map x.value

/-- An outcome, the values that the groups' reads return and final values of bytes (R228), is allowed when some execution that
produces it is consistent. -/
def allowed (ps : List Party) (o : List Nat) (init : List (Nat × Nat) := []) (fin : List (Nat × Nat) := []) : Bool :=
  (executions (ps.flatMap Party.events) init).any (fun x => x.outcome == o && fin.all (fun p => x.final p.1 == p.2) && x.consistent)

/-! ### The catalogue of tests (R235-R244) -/

/-- A group of a team of its own on a core of die 0. -/
def group (t core : Nat) (ops : List Op) : Party := { thread := t, site := { core := core, team := t }, ops := ops }

/-- Accesses of one 8-byte word; the tests' words x and y lie in different sectors. -/
def ld (a : Nat) (scope : Nat := 1) (acq : Bool := false) : Op := .load [span a 8] acq scope none
def st (a v : Nat) (scope : Nat := 1) (rel : Bool := false) : Op := .store [cells a 8 v] rel scope none
def x0 : Nat := 0
def y0 : Nat := 32

/-- Message passing (R235, R236): B on core `c`; A's second access and B's first have the scopes and, when set, the orders. -/
def messagePassing (c : Nat) (rel : Bool) (relScope : Nat) (acq : Bool) (acqScope : Nat) : List Party :=
  [group 0 0 [st x0 1, st y0 1 relScope rel], group 1 c [ld y0 acqScope acq, ld x0]]

/-- Store buffering (R237): `f` is the scope of the fences, where they stand. -/
def storeBuffering (c : Nat) (f : Option Nat) : List Party :=
  let bar : List Op := f.toList.map (fun k => .fence true true k)
  [group 0 0 ([st x0 1] ++ bar ++ [ld y0]), group 1 c ([st y0 1] ++ bar ++ [ld x0])]

/-- Cumulativity (R238). -/
def cumulativity : List Party :=
  [group 0 0 [st x0 1], group 1 1 [ld x0, st y0 1 3 true], group 2 2 [ld y0 3 true, ld x0]]

/-- Independent reads of independent writes (R239): on four cores or one; ordered at `.dev` or relaxed; with `FENCE.ar.dev`. -/
def independentReads (apart ordered fence : Bool) : List Party :=
  let core (n : Nat) : Nat := if apart then n else 0
  let bar : List Op := if fence then [.fence true true 4] else []
  let k := if ordered then 4 else 1
  [group 0 (core 0) [st x0 1 k ordered], group 1 (core 1) [st y0 1 k ordered],
   group 2 (core 2) ([ld x0 k ordered] ++ bar ++ [ld y0]), group 3 (core 3) ([ld y0 k ordered] ++ bar ++ [ld x0])]

/-- Load buffering (R240), with the orders and the scope of the accesses. -/
def loadBuffering (c : Nat) (o : Bool) (scope : Nat) : List Party :=
  [group 0 0 [ld x0 scope o, st y0 1 scope o], group 1 c [ld y0 scope o, st x0 1 scope o]]

/-- Two sectors of a copy or tile store that write eight words of value 1, and S, which holds them. -/
def twoSectors (d : Nat) : List (List (Nat × Nat)) :=
  [(List.range 4).flatMap (fun i => cells (d + 8 * i) 8 1), (List.range 4).flatMap (fun i => cells (d + 32 + 8 * i) 8 1)]

/-- Trailing-sector flag (R241): A's copy or tile store, and B, which reads the flag at `acqScope`; with `flagLast` it is C. -/
def trailingSector (a : Op) (acqScope : Nat) (acq flagLast : Bool) : List Party :=
  [group 0 0 [a], group 1 1 (if flagLast then [ld 0, ld 56 acqScope acq] else [ld 56 acqScope acq, ld 0])]
/-- The copy, and the tile stores, of R241. -/
def flagCopy : Op := .copy [] ((twoSectors 0).map (·, false)) 3 none none []
def flagTile (rel : Bool) : Op := .tileStore (twoSectors 0) rel 3 none

/-- Publish (R242): bank 0 at byte 0 holds the value 2 in every word, bank 1 at byte 64 is zero, BANK is byte 128 and the source lies at
byte 192. B's accesses read the banks `b1` and `b2`; `shadow` is party A, else A' with a fence or none; `scope` is that of `PUBL`. -/
def publish (shadow fence : Bool) (b1 b2 : Nat) (scope : Nat := 4) : List Party :=
  let cp : Op := .copy [] ((twoSectors 64).map (·, false)) 4 none (if shadow then some 128 else none) []
  let bar : List Op := if fence then [.fence true false 4] else []
  let rd (off b : Nat) : Op := .load [span (64 * b + off) 8] false 4 (some 128)
  [group 0 0 ([cp] ++ bar ++ [.publ 128 1 scope]), group 1 1 [rd 56 b1, rd 0 b2]]
def publishInit : List (Nat × Nat) := (List.range 8).map (fun i => (8 * i, 2))

/-- Hail handlers (R243): the two bursts of the read lie at bytes 256 and 512, and each one's thread stores the word at byte 4k. G waits by
`TXWAIT`, G' by `WAITV`. Of the sectors of a burst the first is shown, which alone a handler uses. -/
def handlers (tx : Bool) : List Party :=
  let wait : Op := if tx then .txWait 0 1 1 else .waitv (span 0 4) 1 true 1
  let hail (k : Nat) : Party :=
    { thread := k + 1, site := { team := 0 }, parent := some (0, 0, k), ops := [.store [cells (4 * k) 4 (k + 1)] false 1 none] }
  [{ thread := 0, site := { team := 0 }
     ops := [.hread [[(span 256 32, false)], [(span 512 32, false)]] 1 (some (0, 0)) none, wait, .load [span 0 4] false 1 none,
             .load [span 4 4] false 1 none] }, hail 0, hail 1]
/-- Memory before R243: the first word of each burst. -/
def handlersInit : List (Nat × Nat) := [(256, 1), (512, 2)]

/-- Two atomic adds of 1 to one word (R244) whose reads return `v` and `w`, so that they write `v + 1` and `w + 1`. -/
def concurrentAtomics (v w : Nat) : List Party :=
  let add (n : Nat) : Op := .atomic [cells x0 8 (n + 1)] false false 1 none
  [group 0 0 [add v], group 1 1 [add w]]

/-- Whether the two adds may read `v` and `w` and leave `n` in the word (R244). -/
def atomicsAllow (v w n : Nat) : Bool := allowed (concurrentAtomics v w) [v, w] [] (cells x0 8 n)

/-- The hand-off of 12 R246: `BSTORE` writes lane 0's word of the column and then the flag; B, on core `c`, waits for the flag and reads. -/
def handOff (c relScope acqScope : Nat) : List Party :=
  [group 0 0 [.copy [] [(cells 0 4 2, false), (cells 64 4 1, false)] relScope none none []],
   group 1 c [.waitv (span 64 4) 1 true acqScope, .load [span 0 4] false 1 none]]

/-- The gather of 13 R251 for `c` live activations: the group's tile store of zeros, the handlers' 2-byte stores, the wait when
`waits`, and the tile load of the first sector. -/
def gather (c : Nat) (waits : Bool) : List Party :=
  let hail (k : Nat) : Party :=
    { thread := k + 1, site := { team := 0 }, parent := some (0, 1, k), ops := [.store [cells (2 * k) 2 (k + 1)] false 1 none] }
  { thread := 0, site := { team := 0 }
    ops := [.tileStore [cells 0 32 0] false 1 none, .hread ((List.range c).map (fun k => [(span (256 * (k + 1)) 32, false)])) 1 (some (0, 0)) none] ++
      (if waits then [.txWait 0 1 1] else []) ++ [.tileLoad [span 0 32] false 1 none] } :: (List.range c).map hail

end Sys2Proof.Machine.Ordering
end

