-- ==== Sys2Proof/Safety.lean ====
section
/-! DEFINITION. The terms in which claims about the machine are stated: when a slot issues (03 R57, R58, 04 R69,
R76, 08 R142, 17 R346), what the end of a slot counts, what a register result leaves (07 R121), and values of operands
written with the operations of bit vectors. No definition here is part of the machine. -/

namespace Sys2Proof.Machine

/-! ### When a slot issues -/

/-- What a long or extended instruction names, in the context of the issuing thread (03 R58, 09 R184). -/
def State.usesIn (s : State) (op : Nat) (f : Fields) : Uses := usesOf op f (s.ctx s.thr.name.ctx).regLayout

/-- The state once the waits that 03 R57 makes before an instruction issues are over. -/
def State.waited (s : State) (op : Nat) (f : Fields) : State := s.drain (s.usesIn op f) (isControl op)

/-- The state from which an instruction's effect starts: every window still open has lost this slot (03 R57). -/
def State.issued (s : State) (op : Nat) (f : Fields) : State := (s.waited op f).modThr Thread.tickWindows

/-- The lanes whose sources an instruction reads: S where it acts on lanes, else those of `m0` (03 R56). -/
def lanesActed (op : Nat) (f : Fields) (t : Thread) : Word := if actsOnLanes (rowOf! op) f then t.sel f else t.m0

/-- No poison is consumed: no uniform or affine operand is poisoned, and no real lane reads or receives a poisoned word (17
R346). -/
def NoPoison (t : Thread) (u : Uses) (sel remote : Word) : Prop :=
  remote &&& ~~~ t.help = 0 ∧ ∀ n ∈ u.reads, poisonedWhole t n = false ∧ poisonLanes t sel n &&& ~~~ t.help = 0

/-- Nothing that is checked at issue stands against an instruction that is the slot's `k`th: the instruction limits of
hail threads and routines (09 R193, 16 R311), lookahead (03 R58), window bounds (04 R69), declared tiles (08 R142), poison (17
R346), and uniform writes under a partial mask (04 R76) unless it is `exempt`. -/
def Clear (t : Thread) (u : Uses) (k : Nat) (sel remote : Word) (exempt noRead : Bool) : Prop :=
  (t.name.hail = true → t.hailCount + k ≤ 512) ∧
  (∀ r ∈ t.routine, r.count + k ≤ 4096) ∧
  (∀ p ∈ t.pending, (∀ n ∈ u.reads, RegName.checked n = true → n ∉ p.writes) ∧
    (∀ n ∈ u.writes, RegName.checked n = true → n ∉ p.reads ∧ n ∉ p.writes)) ∧
  (∀ n ∈ u.reads ++ u.writes, outsideWindow t n = false ∧ undeclared t n = false) ∧
  (noRead = false → NoPoison t u sel remote) ∧
  (exempt = false → ∀ n ∈ u.writes, breaksFence t n = false)

/-- A long or extended instruction of opcode `op` issues: no check at issue stands against it. `UPUT` and the
writes of class values are exempt from 04 R76, `ENTER` reads no register, and `BSTORE` moves poison (17 R345). -/
def Issues (op : Nat) (f : Fields) (s : State) : Prop :=
  Clear (s.waited op f).thr (s.usesIn op f) 1 (lanesActed op f (s.waited op f).thr) (remotePoison op f (s.waited op f).thr)
    (op == 0x0F || op == 0x09 || op == 0x0A || op == 0x0B) (op == 0x08 || op == 0xAB)

/-! ### What the end of a slot counts -/

/-- A thread without what the end of a slot may change: ISSUED, the limits' counts, the debugger's step and the wait
that a switch broke off (16 R311, 18 R364, R365, R369). -/
def Thread.bare (t : Thread) : Thread :=
  { t with counts := { t.counts with issued := 0 }, hailCount := 0, routine := t.routine.map (fun r => { r with count := 0 })
           step := false, stepDone := false, skipBp := false, sched := { t.sched with waited := 0 } }

/-- A context without its count of slots (18 R367). -/
def Ctx.bare (c : Ctx) : Ctx := { c with counters := { c.counters with slots := 0 } }

/-- `t` is `v` but for what the end of a slot counts. -/
def SlotEnd (v t : State) : Prop :=
  t.thr.bare = v.thr.bare ∧ t.parked.map Thread.bare = v.parked.map Thread.bare ∧
  (∀ n, t.hasCtx n = v.hasCtx n ∧ (t.ctx n).bare = (v.ctx n).bare) ∧
  t = { v with thr := t.thr, parked := t.parked, ctxs := t.ctxs, picks := t.picks }

/-- From `s`, a slot of opcode `op` ends in `t`, and between the state its effect starts from and the one it leaves, `P`
holds. -/
def Done (op : Nat) (f : Fields) (s t : State) (P : State → State → Prop) : Prop :=
  ∃ v, SlotEnd v t ∧ P (s.issued op f) v

/-- As `Done`, for an effect on nothing but the issuing thread. -/
def DoneHere (op : Nat) (f : Fields) (s t : State) (P : Thread → Thread → Prop) : Prop :=
  Done op f s t (fun u v => v = { u with thr := v.thr } ∧ P u.thr v.thr)

/-! ### Register results (07 R121) -/

/-- How a result reaches its registers: at once, or, of a long-latency instruction, when the pending instruction that the slot
leaves behind completes (03 R57), whatever has happened since. `W x y` is the effect on the registers of a thread. -/
def Lands (op : Nat) (f : Fields) (a b : Thread) (W : Thread → Thread → Prop) : Prop :=
  if (rowOf! op).ll then
    ∃ p : Pend, b = { a.advance f.parcels with pending := a.pending ++ [p] } ∧ p.left = f.ahead.toNat ∧
      ∀ w : State, w.doWork p = { w with thr := (w.doWork p).thr } ∧ W w.thr (w.doWork p).thr
  else W (a.advance f.parcels) b

/-- A result in the destination D of an instruction issued by `a`: each selected lane of a varying destination receives its
value and every other lane keeps its own; a uniform destination receives the one value. No other register changes. -/
def LaneResult (f : Fields) (a x y : Thread) (val : Option Nat → Word) : Prop :=
  (f.fc = 2 →
    (∀ l, l < 64 → mget 0 y.files.v (a.vKey f.d.toNat l) =
      if (a.sel f).getLsbD l then (val (some l)).setWidth 32 else mget 0 x.files.v (a.vKey f.d.toNat l)) ∧
    (∀ k, (∀ l, l < 64 → k ≠ a.vKey f.d.toNat l) → mget 0 y.files.v k = mget 0 x.files.v k) ∧
    y.files.s = x.files.s ∧ y.poison.s = x.poison.s) ∧
  (f.fc ≠ 2 →
    mget 0 y.files.s (a.wins.s.wb + f.d.toNat) = val none ∧
    (∀ k, k ≠ a.wins.s.wb + f.d.toNat → mget 0 y.files.s k = mget 0 x.files.s k) ∧
    y.files.v = x.files.v ∧ y.poison.v = x.poison.v) ∧
  y.files.a = x.files.a ∧
  y = { x with files := y.files, fpstat := y.fpstat, poison := { x.poison with s := y.poison.s, v := y.poison.v } }

/-- A result in the mask D over the selected lanes, or in the condition D (07 R127). -/
def BitResult (f : Fields) (a x y : Thread) (bit : Option Nat → Bool) : Prop :=
  (f.fc = 2 →
    (∀ l, l < 64 → (y.mask f.d.toNat).getLsbD l =
      if (a.sel f).getLsbD l then bit (some l) else (x.mask f.d.toNat).getLsbD l) ∧
    (∀ n, n ≠ f.d.toNat → y.mask n = x.mask n) ∧ y.conds = x.conds) ∧
  (f.fc ≠ 2 →
    y.cond f.d.toNat = bit none ∧ (∀ n, n ≠ f.d.toNat → y.cond n = x.cond n) ∧ y.masks = x.masks) ∧
  y = { x with masks := y.masks, conds := y.conds, fpstat := y.fpstat }

/-- A uniform result in `s`D. -/
def UniResult (f : Fields) (a x y : Thread) (w : Word) : Prop :=
  mget 0 y.files.s (a.wins.s.wb + f.d.toNat) = w ∧
  (∀ k, k ≠ a.wins.s.wb + f.d.toNat → mget 0 y.files.s k = mget 0 x.files.s k) ∧
  y = { x with files := { x.files with s := y.files.s }, poison := { x.poison with s := y.poison.s } }

/-- A condition result in `c`D. -/
def CondResult (n : Nat) (x y : Thread) (b : Bool) : Prop :=
  y.cond n = b ∧ (∀ k, k ≠ n → y.cond k = x.cond k) ∧ y = { x with conds := y.conds }

/-- An affine result in `a`D. -/
def AffResult (f : Fields) (a x y : Thread) (r : Affine) : Prop :=
  mget {} y.files.a (a.wins.a.wb + f.d.toNat) = r ∧
  (∀ k, k ≠ a.wins.a.wb + f.d.toNat → mget {} y.files.a k = mget {} x.files.a k) ∧
  y = { x with files := { x.files with a := y.files.a }, poison := { x.poison with a := y.poison.a } }

/-- Whether flag `i` is raised by the results of real selected lanes, or by a uniform result (06 R112). -/
def raised (f : Fields) (a : Thread) (fl : Option Nat → BitVec 5) (i : Nat) : Bool :=
  if f.fc = 2 then (lanesOf (a.sel f)).any (fun l => !a.help.getLsbD l && (fl (some l)).getLsbD i) else (fl none).getLsbD i

/-- No raised flag has its trap enabled in FPMODE (06 R111, R114). -/
def NoFlagTrap (f : Fields) (a : Thread) (fl : Option Nat → BitVec 5) : Prop :=
  ∀ i, i < 5 → raised f a fl i = true → a.fpmode.getLsbD (2 + i) = false

/-- FPSTAT gains the raised flags by OR (06 R110). -/
def FlagsGain (f : Fields) (a x y : Thread) (fl : Option Nat → BitVec 5) : Prop :=
  ∀ i, i < 5 → y.fpstat.getLsbD i = (x.fpstat.getLsbD i || raised f a fl i)

/-- The trap of an enabled flag, where `raises` says which flags would be raised and `byLane`, of an instruction that acts on lanes, in
which of them: the lowest-numbered enabled flag gives the cause, the record holds all the flags and the lanes that raised that one (06 R114;
that the lanes are those of that flag is DEDUCED, log 34). -/
def FlagTrapped (a : Thread) (raises : Nat → Bool) (byLane : Option (Nat → Nat → Bool)) (tr : TrapInfo) : Prop :=
  ∃ k, k < 5 ∧ raises k = true ∧ a.fpmode.getLsbD (2 + k) = true ∧
    (∀ j, j < k → raises j = true → a.fpmode.getLsbD (2 + j) = false) ∧
    (∀ i, i < 5 → tr.flags.getLsbD i = raises i) ∧
    (match byLane with
    | none => tr.lanes = none
    | some r => ∃ m, tr.lanes = some m ∧ ∀ l, l < 64 → m.getLsbD l = r l k) ∧
    tr = { cause := 0x20 + k, flags := tr.flags, lanes := tr.lanes }

/-- The trap of the flags `fl` of an instruction's results. -/
def ResultTrapped (f : Fields) (a : Thread) (fl : Option Nat → BitVec 5) (tr : TrapInfo) : Prop :=
  FlagTrapped a (raised f a fl)
    (if f.fc = 2 then some (fun l k => (a.sel f).getLsbD l && !a.help.getLsbD l && (fl (some l)).getLsbD k) else none) tr

/-- A result in the varying register D over the selected lanes, with a bit for each in the mask that RS names, if it names
one (07 R122, R138). -/
def LanesAndMask (f : Fields) (a x y : Thread) (val : Nat → LaneWord) (bit : Nat → Bool) : Prop :=
  (∀ l, l < 64 → mget 0 y.files.v (a.vKey f.d.toNat l) =
    if (a.sel f).getLsbD l then val l else mget 0 x.files.v (a.vKey f.d.toNat l)) ∧
  (∀ k, (∀ l, l < 64 → k ≠ a.vKey f.d.toNat l) → mget 0 y.files.v k = mget 0 x.files.v k) ∧
  (∀ n l, l < 64 → (y.mask n).getLsbD l =
    if n = f.rs.toNat ∧ n ≠ 0 ∧ (a.sel f).getLsbD l = true then bit l else (x.mask n).getLsbD l) ∧
  y = { x with files := { x.files with v := y.files.v }, masks := y.masks, poison := { x.poison with v := y.poison.v } }

/-- An instruction of opcode `op` that passes its checks of encoding and of issue, where `H` holds of the issuing thread: it
ends in a next state in which its result lands as `W a` says, and which is otherwise the state it found. -/
def GivesRegs (op : Nat) (i : Instr) (f : Fields) (s : State) (H : Thread → Prop) (W : Thread → Thread → Thread → Prop) : Prop :=
  checkLong op f = none → Issues op f s → H (s.issued op f).thr →
  ∃ t, exec i s = .next t ∧ DoneHere op f s t (fun a b => Lands op f a b (W a))

/-- An instruction that writes `val` in its lanes or its uniform destination and raises `fl`, where no enabled flag is
raised. -/
def GivesLanes (op : Nat) (i : Instr) (f : Fields) (s : State) (val : Thread → Option Nat → Word)
    (fl : Thread → Option Nat → BitVec 5) : Prop :=
  GivesRegs op i f s (fun a => NoFlagTrap f a (fl a)) (fun a x y => LaneResult f a x y (val a) ∧ FlagsGain f a x y (fl a))

/-- The same for a mask or a condition. -/
def GivesBits (op : Nat) (i : Instr) (f : Fields) (s : State) (bit : Thread → Option Nat → Bool)
    (fl : Thread → Option Nat → BitVec 5) : Prop :=
  GivesRegs op i f s (fun a => NoFlagTrap f a (fl a)) (fun a x y => BitResult f a x y (bit a) ∧ FlagsGain f a x y (fl a))

/-- An instruction that issues and would raise an enabled flag, where `H` holds: it traps instead, and nothing of it is written (06 R114). -/
def FlagTraps (op : Nat) (i : Instr) (f : Fields) (s : State) (H : Thread → Prop) (fl : Thread → Option Nat → BitVec 5) : Prop :=
  checkLong op f = none → Issues op f s → H (s.issued op f).thr → ¬ NoFlagTrap f (s.issued op f).thr (fl (s.issued op f).thr) →
  ∃ tr, ResultTrapped f (s.issued op f).thr (fl (s.issued op f).thr) tr ∧
    exec i s = .next ((s.waited op f).completeAll.takeTrap tr f.parcels)

/-- As `GivesLanes` and `GivesBits`, of an instruction that may raise flags: with none enabled its result, else the trap. -/
def GivesFloats (op : Nat) (i : Instr) (f : Fields) (s : State) (val : Thread → Option Nat → Word)
    (fl : Thread → Option Nat → BitVec 5) : Prop :=
  GivesLanes op i f s val fl ∧ FlagTraps op i f s (fun _ => True) fl

/-- An instruction whose slot changes only the issuing thread, by `P` from the thread it found to the one it leaves, where a
condition holds. -/
def GivesThread (op : Nat) (i : Instr) (f : Fields) (s : State) (H : Thread → Prop) (P : Thread → Thread → Prop) : Prop :=
  checkLong op f = none → Issues op f s → H (s.issued op f).thr →
  ∃ t, exec i s = .next t ∧ DoneHere op f s t P

/-- An instruction whose slot changes the state by `P`, where a condition holds. -/
def GivesState (op : Nat) (i : Instr) (f : Fields) (s : State) (H : State → Prop) (P : State → State → Prop) : Prop :=
  checkLong op f = none → Issues op f s → H (s.issued op f) →
  ∃ t, exec i s = .next t ∧ Done op f s t P

/-- An instruction that issues and, where `H` holds of the state its effect starts from, traps: what is pending completes (03
R58), then the trap `tr` is taken with the instruction's length (17 R323, R324). -/
def GivesTrap (op : Nat) (i : Instr) (f : Fields) (s : State) (H : State → Prop) (tr : State → TrapInfo) : Prop :=
  checkLong op f = none → Issues op f s → H (s.issued op f) →
  exec i s = .next ((s.waited op f).completeAll.takeTrap (tr (s.issued op f)) f.parcels)

/-- As `GivesState`, for a load, an atomic or a tile load, which first waits while 63 of them are in flight (09 R179). -/
def GivesRoom (op : Nat) (i : Instr) (f : Fields) (s : State) (H : State → Prop) (P : State → State → Prop) : Prop :=
  checkLong op f = none → Issues op f s.roomForLoad → H (s.roomForLoad.issued op f) →
  ∃ t, exec i s = .next t ∧ Done op f s.roomForLoad t P

/-! ### Memory, barriers and waits -/

/-- The lanes that a memory instruction addresses, one access where it acts on no lanes. -/
def addressed (lanes : Bool) (f : Fields) (a : Thread) : List (Option Nat) :=
  if lanes then (lanesOf (a.sel f)).map some else [none]

/-- Whether an access counts: helper lanes neither fault nor store (01 R17). -/
def countsIn (a : Thread) (l : Option Nat) : Bool := match l with | some j => !a.help.getLsbD j | none => true

/-- The access that the memory operand of `f` makes in a lane: 09 R167, R177. -/
def laneAccess (u : State) (f : Fields) (k : AccKind) (n : Nat) (l : Option Nat) : Word × Except Nat Nat :=
  access u u.thr k (baseOf u.thr f (l.getD 0)) (indexOf u.thr f n (l.getD 0)) n n

/-- A helper lane whose address comes from a poisoned index (17 R346). -/
def poisonIndex (f : Fields) (a : Thread) (l : Option Nat) : Bool :=
  l.any (fun j => f.bk == 2 && a.help.getLsbD j && a.poison.v.contains (a.vKey f.b.toNat j))

/-- Every addressed lane that is no helper lane passes the checks of 09 R178 and meets no watch point. -/
def AllReach (u : State) (f : Fields) (k : AccKind) (n : Nat) (lanes : Bool) : Prop :=
  ∀ l ∈ addressed lanes f u.thr, countsIn u.thr l = true →
    (∃ key, (laneAccess u f k n l).2 = .ok key) ∧ watchHits u u.thr k (laneAccess u f k n l).1 n = []

/-- The issuing thread goes on with one more pending instruction, `p`, the youngest of its memory accesses. -/
def Pending (f : Fields) (u v : State) (p : Pend) : Prop :=
  p.left = f.ahead.toNat ∧ p.ord = u.thr.memOrd ∧
  v = { u with thr := { u.thr.advance f.parcels with memOrd := u.thr.memOrd + 1, pending := u.thr.pending ++ [p] } }

/-- A loaded value reaches its destination: the lanes of S of a varying one, a uniform one, or the base of an affine one with
stride 0 (09 R175). -/
def LoadResult (f : Fields) (a x y : Thread) (val : Option Nat → Word) : Prop :=
  y.fpstat = x.fpstat ∧
  (if f.fc = 1 then AffResult f a x y { base := val none, stride := 0 } else LaneResult f a x y val)

/-- The issuing thread goes on with one more entry in its store queue, or with none where no lane stores. -/
def Queued (f : Fields) (u v : State) (es : List StoreEnt) : Prop :=
  es.length ≤ 1 ∧ (∀ e ∈ es, e.ord = u.thr.memOrd) ∧
  v = { u with thr := { u.thr.advance f.parcels with memOrd := u.thr.memOrd + es.length, queue := u.thr.queue ++ es } }

/-- The issuing thread waits at its instruction. -/
def WaitsAt (u v : State) (w : Wait) : Prop :=
  v = { u with thr := { u.thr with
    status := .waiting w, sched := { u.thr.sched with waitSince := u.clock - u.thr.sched.waited, waited := 0 } } }

/-- The issuing thread goes on past its instruction. -/
def GoesOn (f : Fields) (u v : State) : Prop := v = { u with thr := u.thr.advance f.parcels }

/-- No thread waits in `WAITV` (10 R209). -/
def NoValueWait (u : State) : Prop :=
  ∀ t, t = u.thr ∨ t ∈ u.parked → ∀ key size cc sg v, t.status ≠ .waiting (.val key size cc sg v)

/-- A barrier of a core is changed by `g`, and nothing else of any core. -/
def BarrierChange (u v : State) (core i : Nat) (b : TxBar) : Prop :=
  (v.bar core i) = b ∧ (∀ j, j ≠ i → v.bar core j = u.bar core j) ∧ (∀ c, c ≠ core → v.core c = u.core c) ∧
  v.core core = { u.core core with bars := (v.core core).bars }

/-- The checks of an instruction in order, each with the trap it raises: where all hold the instruction acts by `P`, else the
first that fails decides (09 R394). -/
def GivesChecked (op : Nat) (i : Instr) (f : Fields) (s : State) (checks : State → List (Prop × TrapInfo))
    (P : State → State → Prop) : Prop :=
  GivesState op i f s (fun u => ∀ c ∈ checks u, c.1) P ∧
  ∀ (n : Nat) (c : Prop) (tr : TrapInfo), GivesTrap op i f s
    (fun u => (checks u)[n]? = some (c, tr) ∧ ¬ c ∧ ∀ d ∈ (checks u).take n, d.1) (fun _ => tr)

/-- The issue of an engine command (09 R181; 10 R211): a fresh command with the launch site, in the thread's order; the
sequence number advances; a barrier that is named gains a pending arrival and a hold. -/
def CommandIssued (f : Fields) (u v : State) (bar : Word) (scope : Nat) (work : Work) (fabric : Bool) : Prop :=
  let t := u.thr
  let i := (bar.extractLsb' 0 8).toNat
  let b := u.bar t.place.core i
  v.hasCmd u.nextId = true ∧
  v.cmd u.nextId = { id := u.nextId, ctx := t.name.ctx, uid := t.name.uid, tid := t.id, core := t.place.core
                     launch := t.name.launch, team := t.name.team, group := t.name.group, pc := t.pc, seq := t.seq, bar := bar
                     scope := scope, work := work, ord := t.memOrd, fabric := fabric } ∧
  (∀ n, n ≠ u.nextId → v.hasCmd n = u.hasCmd n ∧ v.cmd n = u.cmd n) ∧
  (bar = 0 → v.cores = u.cores) ∧
  (bar ≠ 0 → BarrierChange u v t.place.core i { b with pend := b.pend + 1, refs := b.refs + 1 }) ∧
  v = { u with nextId := u.nextId + 1, cmds := v.cmds, cores := v.cores
               thr := { t.advance f.parcels with seq := t.seq + 1, memOrd := t.memOrd + 1 } }

/-- The checks of a barrier reference: steps 14 and 15 of 09 R394. -/
def barrierChecks (u : State) (bar addr : Word) : List (Prop × TrapInfo) :=
  let i := (bar.extractLsb' 0 8).toNat
  let b := u.bar u.thr.place.core i
  [(bar = 0 ∨ (bar.extractLsb' 8 8 = 0 ∧ bar.extractLsb' 24 8 = 0 ∧ (bar.extractLsb' 16 8).toNat = u.thr.place.core ∧
      (bar.extractLsb' 32 32).toNat = b.gen ∧ b.refs ≠ 0 ∧ b.owner = u.thr.name.uid ∧ b.held = true),
    { cause := 0x59, addr := addr }),
   (bar = 0 ∨ b.pend ≠ 16777215, { cause := 0x5A, addr := addr })]

/-- A check that answers a cause, as the condition that it answers none. -/
def causeCheck (c : Option Nat) (addr : Word) : Prop × TrapInfo := (c = none, { cause := c.getD 0, addr := addr })

/-- The checks of a copy from step 6 of 09 R394 on, destination before source. -/
def copyChecks (u : State) (dst src : Word) (w : List Word) (bar : Word) (entry : Option Nat) : List (Prop × TrapInfo) :=
  let t := u.thr
  let d := copySpan w (layDS w) dst
  let r := copySpan w (laySS w) src
  let shared (p : Word) : Prop := (p.extractLsb' 0 55).toNat < 0x100000
  [(d.layoutOk = true, { cause := 0x31, addr := dst }), (r.layoutOk = true, { cause := 0x31, addr := src }),
   (layoutValid w dst src = true, { cause := 0x52 }), causeCheck d.aperture dst, causeCheck r.aperture src,
   (∀ e, entry = some e → d.hi - ((dst.extractLsb' 0 55).toNat : Int) ≤ handleLength u t.name.ctx e, { cause := 0x34, addr := dst }),
   causeCheck (d.owned u t) dst, causeCheck (r.owned u t) src,
   (laySwz w = 0 ∨ shared dst ∨ shared src, { cause := 0x52 }),
   (copyTags u (u.team t.name.uid) w (layDS w) dst true = false ∧ copyTags u (u.team t.name.uid) w (laySS w) src false = false,
    { cause := 0x28 })] ++ barrierChecks u bar 0

/-- Whether a pointer names a place off die `die`: another die's scratchpad by number, or another device (01 R12, 09 R166, 19
R380). -/
def offDie (die : Nat) (p : Word) : Bool :=
  let a := (p.extractLsb' 0 55).toNat
  (0x40000000 ≤ a && a < 0x90000000 && (a - 0x40000000) / 0x14000000 != die) || 2 ^ 54 ≤ a

/-! ### The checks of engine commands at issue, in the order of 09 R394 -/

/-- A hail thread issues no engine command. -/
def userCheck (u : State) : Prop × TrapInfo := (u.thr.name.hail = false, { cause := 0x55 })

/-- The layout registers of a copy, from `s`B on (09 R182). -/
def layoutWords (f : Fields) (u : State) : List Word := (List.range 8).map (fun i => u.thr.sReg (f.b.toNat + i))

/-- The sealed record that `s`B names, and the check that it can be read (09 R184). -/
def layoutRecord (f : Fields) (u : State) : List Word :=
  match readRecord u (u.thr.sReg f.b.toNat) with
  | .ok w => w
  | .error _ => []
def recordCheck (f : Fields) (u : State) : Prop × TrapInfo :=
  ((∃ w, readRecord u (u.thr.sReg f.b.toNat) = .ok w),
   match readRecord u (u.thr.sReg f.b.toNat) with
   | .error tr => tr
   | .ok _ => { cause := 0 })

/-- The form of layout that the context uses (09 R184). -/
def formCheck (u : State) (reg : Bool) : Prop × TrapInfo := ((u.ctx u.thr.name.ctx).regLayout = reg, { cause := 0x53 })

/-- `BCOPY.R`, with the layout in registers, and `BCOPY`, with a sealed record. -/
def bcopyRChecks (f : Fields) (u : State) : List (Prop × TrapInfo) :=
  [userCheck u, formCheck u true] ++
    copyChecks u (u.thr.sReg f.d.toNat) (u.thr.sReg f.a.toNat) (layoutWords f u) (u.thr.sReg f.c.toNat) none
def bcopyChecks (f : Fields) (u : State) : List (Prop × TrapInfo) :=
  [userCheck u, formCheck u false, recordCheck f u] ++
    copyChecks u (u.thr.sReg f.d.toNat) (u.thr.sReg f.a.toNat) (layoutRecord f u) (u.thr.sReg f.c.toNat) none

/-- A word of a handle table entry of the context (16 R301). -/
def entryWord (u : State) (e k : Nat) : Word := mget 0 (u.ctx u.thr.name.ctx).handles (4 * e + k)

/-- The entry of the shadow pair that a `BCOPY.S` writes, the layout in the context's form, and the pointer to the bank that is
not visible (09 R187). -/
def shadowBind (f : Fields) (u : State) : Option Nat := (u.team u.thr.name.uid).binds[f.d.toNat]?
def shadowLayout (f : Fields) (u : State) : List Word :=
  if (u.ctx u.thr.name.ctx).regLayout then layoutWords f u else layoutRecord f u
def shadowPointer (f : Fields) (u : State) : Word :=
  let e := (shadowBind f u).getD 0
  ((entryWord u e (if (entryWord u e 3).getLsbD 4 then 0 else 1)).extractLsb' 0 55).setWidth 64 |||
    (((entryWord u e 0).extractLsb' 60 4).setWidth 64) <<< 60
def bcopySChecks (f : Fields) (u : State) : List (Prop × TrapInfo) :=
  [userCheck u] ++ (if (u.ctx u.thr.name.ctx).regLayout then [] else [recordCheck f u]) ++
    [((∃ e, shadowBind f u = some e ∧ (handleWord u (u.team u.thr.name.uid).ctx e 3).getLsbD 0 = true ∧
        (entryWord u e 3).getLsbD 3 = true ∧ (entryWord u e 3).getLsbD 2 = true), { cause := 0x37 })] ++
    copyChecks u (shadowPointer f u) (u.thr.sReg f.a.toNat) (shadowLayout f u) (u.thr.sReg f.c.toNat) (shadowBind f u)

/-- The bytes of a `BSTORE`, its base with the checks of the handle, and its span (09 R188). -/
def bstoreLen (f : Fields) (u : State) : Nat := f.d.toNat * u.thr.width * etBytes f.et.toNat
def bstoreBase (f : Fields) (u : State) : Word × Option Nat × Option Nat :=
  cmdBase u u.thr f (if f.ext then f.lit.signExtend 64 else 0) (bstoreLen f u) 2
def bstoreChecks (f : Fields) (u : State) : List (Prop × TrapInfo) :=
  let p := (bstoreBase f u).1
  let lo := (p.extractLsb' 0 55).toNat
  let x : Span := { p := p, lo := lo, hi := lo + bstoreLen f u }
  [userCheck u,
   (∀ r ∈ (usesOf 0xAB f false).reads, poisonedWhole u.thr r = false, { cause := 0x60, lanes := some (u.thr.sel f) }),
   causeCheck (bstoreBase f u).2.1 p, causeCheck (cmdLayout u.thr f x) p,
   (lo % etBytes f.et.toNat = 0, { cause := 0x33, addr := p }), causeCheck x.aperture p,
   causeCheck (bstoreBase f u).2.2 p, causeCheck (x.owned u u.thr) p] ++ barrierChecks u (u.thr.sReg f.c.toNat) p

/-- The handler's entry that a hail read names, relative to its own place, and the check that it is one (09 R190). -/
def hailTarget (f : Fields) (u : State) : Pc := u.thr.pc + 4 * f.lit.signExtend 55
def hailEntryCheck (f : Fields) (u : State) : Prop × TrapInfo :=
  ((∃ k, handlerAt (u.ctx u.thr.name.ctx) u.thr.pc.toNat (hailTarget f u).toNat = some k), { cause := 0x58 })

/-- The bytes at a pointer that a segment of `n` bytes spans. -/
def segmentSpan (p : Word) (n : Nat) : Span :=
  { p := p, lo := (p.extractLsb' 0 55).toNat, hi := (p.extractLsb' 0 55).toNat + max n 1 }

/-- `HREAD`: its length, its base, and its checks. -/
def hreadLen (f : Fields) (u : State) : Nat := (u.thr.sReg f.b.toNat).toNat
def hreadBase (f : Fields) (u : State) : Word × Option Nat × Option Nat := cmdBase u u.thr f 0 (hreadLen f u) 1
def hreadChecks (f : Fields) (u : State) : List (Prop × TrapInfo) :=
  let p := (hreadBase f u).1
  let n := hreadLen f u
  [userCheck u, causeCheck (hreadBase f u).2.1 p, ((hailEntryCheck f u).1, { (hailEntryCheck f u).2 with addr := p }),
   causeCheck (cmdLayout u.thr f (segmentSpan p n)) p, (n % 4 = 0 ∧ n ≤ 16777216, { cause := 0x52, addr := p }),
   ((p.extractLsb' 0 55).toNat % 4 = 0, { cause := 0x33, addr := p }), causeCheck (segmentSpan p n).hailAperture p,
   causeCheck (hreadBase f u).2.2 p] ++ barrierChecks u (u.thr.sReg f.d.toNat) p

/-- `HREAD.V`: the length of each segment, the lanes, the base of a lane's segment, and the checks. -/
def hreadVLen (f : Fields) (u : State) : Nat := (u.thr.sReg (f.c.toNat + 1)).toNat
def hreadVLanes (f : Fields) (u : State) : List Nat := lanesOf (u.thr.sel f &&& ~~~ u.thr.help)
def hreadVBase (f : Fields) (u : State) (l : Nat) : Word × Option Nat × Option Nat :=
  cmdBase u u.thr f ((u.thr.vReg f.b.toNat l).signExtend 64) (hreadVLen f u) 1
def hreadVChecks (f : Fields) (u : State) : List (Prop × TrapInfo) :=
  let n := hreadVLen f u
  let each (g : Word → Prop × TrapInfo) : List (Prop × TrapInfo) := (hreadVLanes f u).map (fun l => g (hreadVBase f u l).1)
  [userCheck u, causeCheck (cmdBase u u.thr f 0 0 1).2.1 0, hailEntryCheck f u] ++
    each (fun q => causeCheck (cmdLayout u.thr f (segmentSpan q n)) q) ++
    [(n % 4 = 0 ∧ n ≤ 4096, { cause := 0x52 })] ++
    each (fun q => ((q.extractLsb' 0 55).toNat % 4 = 0, { cause := 0x33, addr := q })) ++
    each (fun q => causeCheck (segmentSpan q n).hailAperture q) ++
    (hreadVLanes f u).map (fun l => causeCheck (hreadVBase f u l).2.2 (hreadVBase f u l).1) ++
    barrierChecks u (u.thr.sReg f.d.toNat) 0

/-! ### The class loop and traps -/

/-- start_next_class of 04 R74: from `a`, the class that entry `e` chooses runs in `b`, and `e` stays on top of `rest`. -/
def ClassStarts (a b : Thread) (e : ClassEntry) (rest : List Entry) : Prop :=
  let real (l : Nat) : Prop := l < 64 ∧ e.pend.getLsbD l = true ∧ a.help.getLsbD l = false
  ∃ k : LaneWord,
    (match e.order with
     | .first => ∃ l, real l ∧ keyOf a e.key l = k ∧ ∀ j, real j → l ≤ j
     | .asc => (∃ l, real l ∧ keyOf a e.key l = k) ∧ ∀ j, real j → k.toNat ≤ (keyOf a e.key j).toNat
     | .mask => (k = 1 ∧ ∃ l, real l ∧ keyOf a e.key l = 1) ∨ (k = 0 ∧ ∀ l, real l → keyOf a e.key l ≠ 1)) ∧
    (∀ l, l < 64 → b.m0.getLsbD l = (e.pend.getLsbD l && keyOf a e.key l == k)) ∧
    b.stack = .cls { e with pend := e.pend &&& ~~~ b.m0 } :: rest ∧ b.pc = e.body ∧
    mget 0 b.files.s e.dest = k.setWidth 64 ∧ (∀ j, j ≠ e.dest → mget 0 b.files.s j = mget 0 a.files.s j) ∧
    b = { a with m0 := b.m0, stack := b.stack, pc := b.pc, files := { a.files with s := b.files.s }
                 poison := { a.poison with s := b.poison.s } }

/-- Windows whose bases and sizes are those saved in `b`, of the same allocations (04 R81, R82). -/
def WindowsAre (w w' : Wins) (b : Bases) : Prop :=
  w'.bases = b ∧ w'.s.alloc = w.s.alloc ∧ w'.a.alloc = w.a.alloc ∧ w'.v.alloc = w.v.alloc

/-- The trap registers that 17 R324 and R329-R332 set, for a trap of `a`'s slot. -/
def TrapSet (a b : Thread) (tr : TrapInfo) (len : Nat) : Prop :=
  b.trap.vec = a.trap.vec ∧
  b.trap.cause = BitVec.ofNat 64 (tr.cause + tr.orig * 2 ^ 8 + tr.under * 2 ^ 16 + (if tr.async then 2 ^ 23 else 0)) ∧
  b.trap.tpc = a.pc.setWidth 64 ∧
  b.trap.mask = (match tr.lanes with | some m => m | none => a.m0) &&& ~~~ a.help ∧
  b.trap.addr = tr.addr ∧
  b.trap.info = BitVec.ofNat 64 (len + (if tr.half then 2 ^ 4 else 0) + tr.flags.toNat * 2 ^ 11 + tr.code.toNat * 2 ^ 16 +
    tr.seq.toNat * 2 ^ 32) ∧
  b.trap.site = tr.site.setWidth 64

/-- User entry (17 R325): from `a`, a trap of length `len` starts the handler of TRAPVEC in `b`. -/
def UserEntry (a b : Thread) (tr : TrapInfo) (len : Nat) : Prop :=
  TrapSet a b tr len ∧
  b.stack = .trap { mode := .user, savedM0 := a.m0, tpc := a.pc, tlen := len, bases := a.wins.bases, first := true } :: a.stack ∧
  b.m0 = b.trap.mask ∧ b.pc = a.trap.vec.setWidth 55 ∧ b.status = .ready ∧
  b = { a with trap := b.trap, stack := b.stack, m0 := b.m0, pc := b.pc, status := b.status, sched := b.sched }

/-- Supervisor entry (17 R325, R340). -/
def SupervisorEntry (a b : Thread) (tr : TrapInfo) (len : Nat) : Prop :=
  TrapSet a b tr len ∧
  b.stack = .trap { mode := .supervisor, savedM0 := a.m0, tpc := a.pc, tlen := len, bases := a.wins.bases } :: a.stack ∧
  WindowsAre a.wins b.wins
    { swb := a.wins.s.wb + a.wins.s.ws, sws := min 8 a.wins.s.alloc, awb := a.wins.a.wb + a.wins.a.ws
      aws := min 2 a.wins.a.alloc, vwb := a.wins.v.wb + a.wins.v.ws, vws := min 8 a.wins.v.alloc } ∧
  b.m0 = b.trap.mask ∧ b.pc = Config.supervisorPc ∧ b.status = .ready ∧
  b = { a with trap := b.trap, stack := b.stack, wins := b.wins, m0 := b.m0, pc := b.pc, status := b.status, sched := b.sched
               service := b.service }

/-- A thread to which a trap is delivered as 17 R323 has it with nothing before it: in no routine, with no cause slot of
Solder that matches. -/
def PlainTrap (u : State) (tr : TrapInfo) : Prop :=
  u.thr.routine = none ∧ solderPick u u.thr.name.ctx true (BitVec.ofNat 64 tr.cause) = none

/-- No flag. -/
def noFlags : Thread → Option Nat → BitVec 5 := fun _ _ => 0

/-! ### Values with the operations of bit vectors -/

/-- The low bits of an operand in the width of a type (06 R100). -/
def low (et : Nat) (w : Word) : BitVec (8 * etBytes et) := w.setWidth (8 * etBytes et)

/-- The integer an operand stands for (06 R100, 07 R124). -/
def intOf (et : Nat) (w : Word) : Int := if etSigned et then (low et w).toInt else (low et w).toNat

/-- A result extended to the register: sign-extended for `.i` types, zero-extended for `.u` types (06 R100). -/
def extended (et : Nat) (x : BitVec (8 * etBytes et)) : Word := if etSigned et then x.signExtend 64 else x.setWidth 64

/-- The least and the greatest integer of a type (06 R99). -/
def leastOf (et : Nat) : Int := if etSigned et then -(2 ^ (8 * etBytes et - 1)) else 0
def greatestOf (et : Nat) : Int := if etSigned et then 2 ^ (8 * etBytes et - 1) - 1 else 2 ^ (8 * etBytes et) - 1

/-- An exact result under `.wrap` or `.sat` (06 R99, R100). -/
def narrowed (et : Nat) (sat : Bool) (e : Int) : Word :=
  extended et (BitVec.ofInt (8 * etBytes et)
    (if sat then (if e < leastOf et then leastOf et else if greatestOf et < e then greatestOf et else e) else e))

/-- The condition codes of 07 R122 over integers. -/
def holdsCond (cc : Nat) (a b : Int) : Bool :=
  match cc with
  | 0 => a = b
  | 1 => a ≠ b
  | 2 => a < b
  | 3 => a ≤ b
  | 4 => a > b
  | _ => a ≥ b

/-- The number that a finite pattern stands for, and that of an exact result (06 R96, R103). -/
def FVal.rat (x : FVal) : Rat :=
  match x with
  | .fin n m e => (if n then -1 else 1) * (m : Rat) * 2 ^ e
  | _ => 0
def Exact.rat (x : Exact) : Rat := (if x.neg then -1 else 1) * (x.mant : Rat) * 2 ^ x.exp

/-- A decoded pattern is a number: no NaN and no infinity. -/
def FVal.finite (x : FVal) : Prop :=
  match x with
  | .fin _ _ _ => True
  | _ => False

/-- `x` lies below `y` as numbers and infinities do: zeros of both signs are one number (06 R109; 07 R127). -/
def FVal.below (x y : FVal) : Prop :=
  match x, y with
  | .fin _ _ _, .fin _ _ _ => x.rat < y.rat
  | .inf n, .fin _ _ _ => n = true
  | .fin _ _ _, .inf n => n = false
  | .inf n, .inf k => n = true ∧ k = false
  | _, _ => False

/-- `v` is the integer to which the mode rounds `q`: the nearest, the even one of two; or the nearest of those not further from zero, not
below, not above (06 R103, R108). -/
def IntRounding (mode : Nat) (q : Rat) (v : Int) : Prop :=
  (mode = 0 → 2 * ((v : Rat) - q).abs ≤ 1 ∧ (2 * ((v : Rat) - q).abs = 1 → v % 2 = 0)) ∧
  (mode = 1 → (v : Rat).abs ≤ q.abs ∧ q.abs < (v : Rat).abs + 1 ∧ 0 ≤ (v : Rat) * q) ∧
  (mode = 2 → q ≤ v ∧ (v : Rat) < q + 1) ∧
  (mode = 3 → (v : Rat) ≤ q ∧ q < v + 1)

/-- The E8M0 code of a number from 2^k to below 2^(k+1), for the modes but `.sr` (06 R98). -/
def scaleCode (mode : Nat) (q : Rat) (k : Int) : Int :=
  let up : Prop := (mode = 2 ∧ q ≠ 2 ^ k) ∨ (mode = 0 ∧ (3 * 2 ^ k < 2 * q ∨ (2 * q = 3 * 2 ^ k ∧ (k + 127) % 2 = 1)))
  if up then k + 128 else k + 127

/-! ### Short instructions and pairs (03 R50, R51, R60) -/

/-- The state once the waits that 03 R57 makes before a slot with one short, or with two, issues are over. -/
def State.shortWaited (s : State) (sop : Nat) (f : ShortFields) : State :=
  let q := shortParts f.fol
  let u := shortUses sop f
  let v := shortUses q.1 q.2
  if f.lead then s.drain { reads := u.reads ++ v.reads, writes := u.writes ++ v.writes } (sop == 0 || q.1 == 0)
  else s.drain u (sop == 0)

/-- Nothing that is checked at issue stands against a short that is the slot's `k`th instruction. -/
def ShortClear (sop : Nat) (f : ShortFields) (k : Nat) (t : Thread) : Prop := Clear t (shortUses sop f) k t.m0 0 false false

/-- A register operand of a short. -/
def shortReg (a : Thread) (k : BitVec 2) (n : Nat) (l : Option Nat) : Word :=
  match l with
  | none => a.sReg n
  | some j => (a.lane k.toNat n j).setWidth 64

/-- Source b of a short: a register, or the immediate, which stands for the upper half of an FP32 value where `flt` (R50). -/
def shortB (f : ShortFields) (flt : Bool) (a : Thread) (l : Option Nat) : Word :=
  if f.bf = 3 then (if flt then (f.hi ++ (0 : BitVec 16)).setWidth 64 else f.hi.signExtend 64)
  else shortReg a f.bf (f.hi.extractLsb' 0 5).toNat l

/-- Source b of an affine short. -/
def shortAffB (f : ShortFields) (a : Thread) : Affine :=
  if f.bf = 3 then { base := f.hi.signExtend 64, stride := 0 } else a.affine f.bf.toNat (f.hi.extractLsb' 0 5).toNat

/-- The value and the flags of a short that is not affine (R50, R51; 07 R124, R125, R129). -/
def shortValue (sop : Nat) (f : ShortFields) (a : Thread) (l : Option Nat) : Word × BitVec 5 :=
  let et := if f.df = 2 then 2 else 3
  let d := shortReg a f.df f.d.toNat l
  let b := shortB f false a l
  let x := (shortB f true a l).toNat
  let int (sat : Bool) (e : Int) : Word × BitVec 5 := (narrowed et sat e, 0)
  let bits (w : BitVec (8 * etBytes et)) : Word × BitVec 5 := (extended et w, 0)
  let flt (r : Nat × BitVec 5) : Word × BitVec 5 := (BitVec.ofNat 64 r.1, r.2)
  match sop with
  | 0x01 => int false (intOf et d + intOf et b)
  | 0x02 => int false (intOf et d - intOf et b)
  | 0x03 => int false (intOf et d * intOf et b)
  | 0x04 => int false (if intOf et d ≤ intOf et b then intOf et d else intOf et b)
  | 0x05 => int false (if intOf et d ≤ intOf et b then intOf et b else intOf et d)
  | 0x06 => bits (low et d &&& low et b)
  | 0x07 => bits (low et d ||| low et b)
  | 0x08 => bits (low et d ^^^ low et b)
  | 0x09 => bits (low et d <<< (low et b).toNat)
  | 0x0A => bits (low et d >>> (low et b).toNat)
  | 0x0B => bits ((low et d).sshiftRight (low et b).toNat)
  | 0x0C => bits ((low et d).rotateLeft (low et b).toNat)
  | 0x0D => int true (intOf et d + intOf et b)
  | 0x0E => int true (intOf et d - intOf et b)
  | 0x0F => flt (fAdd 8 0 d.toNat x)
  | 0x10 => flt (fSub 8 0 d.toNat x)
  | 0x11 => flt (fMul 8 0 d.toNat x)
  | 0x12 => flt (fMinMax 8 false d.toNat x)
  | 0x13 => flt (fMinMax 8 true d.toNat x)
  | 0x19 => int false (-intOf et b)
  | 0x1A => bits (~~~ low et b)
  | 0x1B => bits (BitVec.ofNat _ ((List.range (8 * etBytes et)).filter (low et b).getLsbD).length)
  | _ => bits (low et b).clz

/-- Base and exact stride of an affine short (R51; 07 R133). -/
def shortAff (sop : Nat) (f : ShortFields) (a : Thread) : Word × Int :=
  let d := a.aReg f.d.toNat
  let b := shortAffB f a
  match sop with
  | 0x14 => (d.base + b.base, d.stride.toInt + b.stride.toInt)
  | 0x15 => (d.base - b.base, d.stride.toInt - b.stride.toInt)
  | 0x16 => (d.base * b.base, d.stride.toInt * b.base.toInt)
  | 0x17 => (d.base <<< b.base.toNat, d.stride.toInt * 2 ^ b.base.toNat)
  | _ => (b.base, b.stride.toInt)

/-- The operation of a short raises no trap: an affine stride fits, and no enabled flag is raised. -/
def ShortRuns (sop : Nat) (f : ShortFields) (a : Thread) : Prop :=
  if 0x14 ≤ sop ∧ sop ≤ 0x18 then -(2 ^ 31) ≤ (shortAff sop f a).2 ∧ (shortAff sop f a).2 ≤ 2 ^ 31 - 1
  else sop = 0 ∨ NoFlagTrap (shortFields sop f) a (fun l => (shortValue sop f a l).2)

/-- The effect on the registers of a short whose sources are those of `a`: from `x` to `y`. -/
def ShortEffect (sop : Nat) (f : ShortFields) (a x y : Thread) : Prop :=
  let g := shortFields sop f
  if sop = 0 then y = x
  else if 0x14 ≤ sop ∧ sop ≤ 0x18 then
    ∃ r : Affine, AffResult g a x y r ∧ r.base = (shortAff sop f a).1 ∧ r.stride.toInt = (shortAff sop f a).2
  else LaneResult g a x y (fun l => (shortValue sop f a l).1) ∧ FlagsGain g a x y (fun l => (shortValue sop f a l).2)

/-- The slot of a short, or of a pair, ends in `t`, its thread changed by `P` from the one that has moved past it. -/
def ShortDone (sop : Nat) (f : ShortFields) (s t : State) (P : Thread → Thread → Prop) : Prop :=
  let u := s.shortWaited sop f
  ∃ v, SlotEnd v t ∧ v = { u with thr := v.thr } ∧ P (u.thr.tickWindows.advance (if f.lead then 2 else 1)) v.thr

/-! ### Host commands (19 R373, R375) -/

/-- An operand of `k` bytes at byte `off` of a command's operands, which count from byte 8 of the entry. -/
def entryNum (e : CmdEntry) (off k : Nat) : Nat := (e.opnd.extractLsb' (8 * off) (8 * k)).toNat

/-- No operand byte outside the listed places is set. -/
def entryClear (e : CmdEntry) (used : List (Nat × Nat)) : Prop :=
  ∀ i, i < 56 → (∀ u ∈ used, ¬ (u.1 ≤ i ∧ i < u.1 + u.2)) → entryNum e i 1 = 0

/-- A command is carried out: the state `u` and the results that `P` gives, and the completion with its TAG. -/
def Answers (i : Instr) (e : CmdEntry) (s : State) (P : State → Word → Word → Prop) : Prop :=
  ∃ u r0 r1, exec i s = .next (u.putCpl e.tag 0 0 r0 r1) ∧ P u r0 r1

/-- A command is refused: its completion holds the reason, and nothing else changes, but that a buffer which the fence of UCIe
refuses (REASON 0x30) advances that port's counter (16 R303). -/
def RefusedWith (i : Instr) (e : CmdEntry) (s : State) (reason : Nat) : Prop :=
  exec i s = .next ((if reason = 0x30 then s.countRefusal 12 else s).putCpl e.tag 1 reason 0 0)

/-- A command waits for issue to a context to stop: it is taken again later, from `u` (17 R350). -/
def TakenAgain (i : Instr) (s u : State) : Prop :=
  exec i s = .next { u with hub := { u.hub with cqHead := (u.hub.cqHead + 255) % 256 } }

/-- The reasons of a command in their order: where every condition holds it is carried out, else the first that fails gives the
reason. -/
def AnswersChecked (i : Instr) (e : CmdEntry) (s : State) (checks : List (Prop × Nat)) (P : State → Word → Word → Prop) : Prop :=
  ((∀ c ∈ checks, c.1) → Answers i e s P) ∧
  ∀ (n : Nat) (c : Prop) (r : Nat), checks[n]? = some (c, r) → ¬ c → (∀ d ∈ checks.take n, d.1) → RefusedWith i e s r

/-- Only one context changes, by what `c` says of it. -/
def CtxChange (s u : State) (n : Nat) (c : Ctx) : Prop :=
  u.ctx n = c ∧ (∀ k, u.hasCtx k = s.hasCtx k) ∧ (∀ k, k ≠ n → u.ctx k = s.ctx k) ∧ u = { s with ctxs := u.ctxs }

/-- Bytes of memory from key `k` on hold `bs`, every other byte of memory is as before, and nothing else changes. -/
def Wrote (s u : State) (k : Nat) (bs : List Byte) : Prop :=
  (∀ j, rdByte u.mem j = if k ≤ j ∧ j < k + bs.length then bs.getD (j - k) 0 else rdByte s.mem j) ∧
  u = { s with mem := u.mem, poisonMem := u.poisonMem }

/-! ### Steps of the part -/

/-- No thread of the device waits. -/
def NoWait (u : State) : Prop := ∀ t ∈ u.threads, ∀ w, t.status ≠ .waiting w

/-- No two threads have one identity. -/
def DistinctThreads (u : State) : Prop := (u.threads.map (·.id)).Nodup

/-- A step of the part: where its condition holds it leaves what `P` says, else it changes nothing. -/
def EventGives (i : Instr) (s : State) (guard : Prop) (P : State → Prop) : Prop :=
  (guard → ∃ t, exec i s = .next t ∧ P t) ∧ (¬ guard → exec i s = .next s)

/-- A step of one thread: its condition and its effect are of the state with that thread at the front. -/
def ThreadEvent (i : Instr) (tid : Nat) (s : State) (guard : State → Prop) (P : State → State → Prop) : Prop :=
  EventGives i s ((s.thread? tid).isSome = true ∧ guard (s.focus tid)) (P (s.focus tid))

/-- A map with one key changed. -/
def KeySet {α : Type} (d : α) (m m' : SMap α) (k : Nat) (x : α) : Prop :=
  mget d m' k = x ∧ ∀ j, j ≠ k → mget d m' j = mget d m j

/-! ### Invariants and traps -/

/-- The invariant of memory: its canonical form. -/
def State.memoryWf (s : State) : Prop := Memory.wf s.mem = true

/-- What an outcome keeps: a property of the next state, if there is one. -/
def Keeps (P : State → Prop) (o : Host.Outcome State Fault Refusal) : Prop :=
  match o with
  | .next t => P t
  | _ => True

/-- The trap that an instruction ends in: what is pending completes (03 R58), then the trap is taken with its length (17
R323, R324). -/
def Traps (i : Instr) (s : State) (op : Nat) (f : Fields) (tr : TrapInfo) : Prop :=
  exec i s = .next ((s.waited op f).completeAll.takeTrap tr f.parcels)

end Sys2Proof.Machine
end

