-- ==== Sys2Proof/Certificates/Slice0/Obligations.lean ====
section
/-! DEFINITION. The statements about the model that the provers settle: encodings, steps, register results, memory, control,
traps, synchronisation, engines, tiles, system instructions, commands and events. Each docstring names the rules of spec/ it
rests on; OBLIGATIONS.json says for each whether it states a rule whole or derives from some. -/

open Sys2Proof Sys2Proof.Machine

/-- Decoding the bytes of any well-formed long, extended or short instruction or pair gives it back, whatever follows (03 R49,
R52, R59): no bit of an encoding is dropped.
The same both ways for the 64-byte entries of host commands (19 R373, R375). -/
def Obligations.DecodeOfEncode : Prop :=
  (∀ (i : Instr) (rest : List Byte), wellFormed i = true → ((longOf i).isSome = true ∨ (shortOf i).isSome = true) →
     decode (encode i ++ rest) = .ok (i, rest)) ∧
  ((∀ (i : Instr) (c : Nat × Option Nat × CmdEntry), commandOf i = some c → wellFormed i = true →
     ∃ w, encodeCommand i = some w ∧ decodeCommand w = .ok i) ∧
   (∀ (w : BitVec 512) (i : Instr), decodeCommand w = .ok i → encodeCommand i = some w))

/-- Bytes that decode are the encoding of what they decode to, which is well formed: each instruction has one encoding (03 R64). -/
def Obligations.EncodeOfDecode : Prop :=
  ∀ (bs : List Byte) (i : Instr) (rest : List Byte), decode bs = .ok (i, rest) → bs = encode i ++ rest ∧ wellFormed i = true

/-- Bits [1:0] of the first parcel give the length (03 R46): the bytes that decoding takes. -/
def Obligations.LengthFromLowBits : Prop :=
  (∀ p : BitVec 32, parcelCount p = if p.extractLsb' 0 2 = 0 then 1 else if p.extractLsb' 0 2 = 1 then 2
    else if p.extractLsb' 0 2 = 2 then 2 else 3) ∧
  (∀ (b0 b1 b2 b3 : Byte) (bs : List Byte) (i : Instr) (rest : List Byte), decode (b0 :: b1 :: b2 :: b3 :: bs) = .ok (i, rest) →
    (bs.length + 4 = rest.length + 4 * parcelCount (parcelOf b0 b1 b2 b3) ∧ byteLen i = 4 * parcelCount (parcelOf b0 b1 b2 b3)) ∧
    ((parcelOf b0 b1 b2 b3).getLsbD 1 = false → (shortOf i).isSome = true) ∧
    ((parcelOf b0 b1 b2 b3).getLsbD 1 = true → (longOf i).isSome = true))

/-- Words written out from the encodings of 03 R49, R52 and R59 decode to what they stand for: `IADD v3, v4, v5` of type `.u32`,
`LD s1, [s2]` of type `.u64`, an extended `BRA` back by 8 bytes, `AADD a3, a3, s5` as a short, and a pair of short `INEG`s. -/
def Obligations.WordsDecode : Prop :=
  decode [0x82, 0x00, 0x68, 0x00, 0x03, 0x09, 0x16, 0x00] = .ok (.iadd
    { ext := false, lit := 0, c := 0, b := 5, bk := 2, a := 4, ak := 2, d := 3, ck := 0, mo := 0, rs := 0, ov := false, et := 6,
      fc := 2, neg := false, pm := 0, ahead := 0 }, []) ∧
  decode [0x82, 0x02, 0x70, 0x00, 0x01, 0x04, 0x03, 0x00] = .ok (.ld
    { ext := false, lit := 0, c := 0, b := 0, bk := 3, a := 2, ak := 0, d := 1, ck := 0, mo := 0, rs := 0, ov := false, et := 7,
      fc := 0, neg := false, pm := 0, ahead := 0 }, []) ∧
  decode ([0x07, 0x00, 0x00, 0x00, 0x00, 0x00, 0x03, 0x00] ++ [0xFE, 0xFF, 0xFF, 0xFF]) = .ok (.bra
    { ext := true, lit := 0xFFFFFFFE, c := 0, b := 0, bk := 3, a := 0, ak := 0, d := 0, ck := 0, mo := 0, rs := 0, ov := false,
      et := 0, fc := 0, neg := false, pm := 0, ahead := 0 }, []) ∧
  decode [0xD0, 0x06, 0x05, 0x00] = .ok (.aaddShort { lead := false, hi := 5, bf := 0, d := 3, df := 1, fol := 0 }, []) ∧
  decode ([0x65, 0x87, 0x02, 0x00] ++ [0x64, 0x08, 0x01, 0x00]) = .ok (.inegShort { lead := true, hi := 2, bf := 2, d := 3, df := 2, fol := 0x00010864 }, [])

/-- Integer arithmetic (07 R124): the exact result on the operands' low bits as integers of the type, wrapped or saturated to
the type and extended to the register; `IMULH` gives the high half of the exact product.
Bit fields (07 R126): position b[7:0], width b[15:8] cut at the top of the type; a field of width 0, or that begins outside
the type, extracts as 0 and inserts nothing.
Select, compare and add-minimum (07 R127, R128, R132). -/
def Obligations.IntegerOperations : Prop :=
  (∀ (f : Fields) (s : State),
     let et := f.et.toNat
     let A (a : Thread) (l : Option Nat) : Int := intOf et (a.opA f l)
     let B (a : Thread) (l : Option Nat) : Int := intOf et (a.opB f l)
     GivesLanes 0x20 (.iadd f) f s (fun a l => narrowed et false (A a l + B a l)) noFlags ∧
     GivesLanes 0x21 (.isub f) f s (fun a l => narrowed et false (A a l - B a l)) noFlags ∧
     GivesLanes 0x22 (.imul f) f s (fun a l => narrowed et f.ov (A a l * B a l)) noFlags ∧
     GivesLanes 0x23 (.imulh f) f s (fun a l => narrowed et false (A a l * B a l / 2 ^ (8 * etBytes et))) noFlags ∧
     GivesLanes 0x24 (.imad f) f s (fun a l => narrowed et f.ov (A a l * B a l + intOf et (a.opC f l))) noFlags ∧
     GivesLanes 0x25 (.imin f) f s (fun a l => narrowed et false (if A a l ≤ B a l then A a l else B a l)) noFlags ∧
     GivesLanes 0x26 (.imax f) f s (fun a l => narrowed et false (if A a l ≤ B a l then B a l else A a l)) noFlags ∧
     GivesLanes 0x27 (.iabs f) f s (fun a l => narrowed et f.ov (if A a l < 0 then -A a l else A a l)) noFlags ∧
     GivesLanes 0x28 (.ineg f) f s (fun a l => narrowed et f.ov (-A a l)) noFlags ∧
     GivesLanes 0x29 (.iadds f) f s (fun a l => narrowed et true (A a l + B a l)) noFlags ∧
     GivesLanes 0x2A (.isubs f) f s (fun a l => narrowed et true (A a l - B a l)) noFlags) ∧
  (∀ (f : Fields) (s : State),
     let et := f.et.toNat
     let n := 8 * etBytes et
     let pos (a : Thread) (l : Option Nat) : Nat := ((a.opB f l).extractLsb' 0 8).toNat
     let wid (a : Thread) (l : Option Nat) : Nat := ((a.opB f l).extractLsb' 8 8).toNat
     let cut (a : Thread) (l : Option Nat) : Nat := min (wid a l) (n - pos a l)
     GivesLanes 0x36 (.bfx f) f s (fun a l =>
       if wid a l = 0 ∨ n ≤ pos a l then 0
       else
         let x := (low et (a.opA f l)).extractLsb' (pos a l) (cut a l)
         extended et (if etSigned et then x.signExtend n else x.setWidth n)) noFlags ∧
     GivesLanes 0x37 (.bfi f) f s (fun a l =>
       let c := low et (a.opC f l)
       let m : BitVec (8 * etBytes et) := (BitVec.ofNat n (2 ^ cut a l - 1)) <<< pos a l
       if wid a l = 0 ∨ n ≤ pos a l then extended et c
       else extended et ((c &&& ~~~ m) ||| ((low et (a.opA f l) <<< pos a l) &&& m))) noFlags) ∧
  (∀ (f : Fields) (s : State),
     let et := f.et.toNat
     GivesLanes 0x38 (.sel f) f s (fun a l =>
       if (match l with | some j => (a.mask f.c.toNat).getLsbD j | none => a.cond f.c.toNat) then a.opA f l else a.opB f l)
       noFlags ∧
     GivesBits 0x39 (.icmp f) f s (fun a l => holdsCond f.rs.toNat (intOf et (a.opA f l)) (intOf et (a.opB f l))) noFlags ∧
     (etIsInt et = true → GivesLanes 0x3A (.addmin f) f s (fun a l =>
       let e := intOf et (narrowed et f.ov (intOf et (a.opA f l) + intOf et (a.opB f l)))
       let c := intOf et (a.opC f l)
       narrowed et false (if e ≤ c then e else c)) noFlags) ∧
     (etIsInt et = false → GivesFloats 0x3A (.addmin f) f s
       (fun a l => BitVec.ofNat 64
         (fMinMax et false (fAdd et (a.rounding f.rs) (a.opA f l).toNat (a.opB f l).toNat).1 (a.opC f l).toNat).1)
       (fun a l => (fAdd et (a.rounding f.rs) (a.opA f l).toNat (a.opB f l).toNat).2 |||
         (fMinMax et false (fAdd et (a.rounding f.rs) (a.opA f l).toNat (a.opB f l).toNat).1 (a.opC f l).toNat).2)))

/-- Logic, shifts and bit counts on the low N bits of the operands, extended to the register (07 R125): a shift by N or more
gives zeros or copies of the sign bit, a rotation goes by its amount modulo N. -/
def Obligations.LogicAndShifts : Prop :=
  ∀ (f : Fields) (s : State),
    let et := f.et.toNat
    let A (a : Thread) (l : Option Nat) := low et (a.opA f l)
    let B (a : Thread) (l : Option Nat) := low et (a.opB f l)
    GivesLanes 0x2B (.andB f) f s (fun a l => extended et (A a l &&& B a l)) noFlags ∧
    GivesLanes 0x2C (.orB f) f s (fun a l => extended et (A a l ||| B a l)) noFlags ∧
    GivesLanes 0x2D (.xorB f) f s (fun a l => extended et (A a l ^^^ B a l)) noFlags ∧
    GivesLanes 0x2E (.notB f) f s (fun a l => extended et (~~~ A a l)) noFlags ∧
    GivesLanes 0x2F (.shl f) f s (fun a l => extended et (A a l <<< (B a l).toNat)) noFlags ∧
    GivesLanes 0x30 (.shr f) f s (fun a l => extended et (A a l >>> (B a l).toNat)) noFlags ∧
    GivesLanes 0x31 (.sar f) f s (fun a l => extended et ((A a l).sshiftRight (B a l).toNat)) noFlags ∧
    GivesLanes 0x32 (.rol f) f s (fun a l => extended et ((A a l).rotateLeft (B a l).toNat)) noFlags ∧
    GivesLanes 0x33 (.popc f) f s (fun a l =>
      extended et (BitVec.ofNat _ ((List.range (8 * etBytes et)).filter (A a l).getLsbD).length)) noFlags ∧
    GivesLanes 0x34 (.clz f) f s (fun a l => extended et (A a l).clz) noFlags ∧
    GivesLanes 0x35 (.brev f) f s (fun a l => extended et (A a l).reverse) noFlags

/-- Floating-point arithmetic (07 R127, R129, R130): each result is one operation of the format on the operands, in the rounding
mode that the instruction or FPMODE names, with its flags, and an enabled flag is its trap 0x20 to 0x24 instead (06 R114; log 34); `HFMA2` does both halves; the transcendental functions land when
their lookahead ends. What sums, products, minima and comparisons give is said by `FloatRounding`, what the transcendental functions give of
the inputs for which the spec states it by the clauses that follow.
The inputs of 07 R130's table: what each transcendental function gives of ±0, ±∞ and negative numbers, in FP32 patterns with
its flags, whatever the rounding mode.
The exact results of 07 R130, in every rounding mode and with no flag: `FRCP` of a power of two and `FEXP2` of an integer where the
result is a number of FP32, `FLOG2` of a power of two, that of 1 being +0, and `FRSQ` of an even power of two; and the two overflows that the
rule gives. `FRCP` in `.rne` gives, where it does not overflow, a number than which none is nearer to the exact quotient. -/
def Obligations.FloatArithmetic : Prop :=
  (∀ (f : Fields) (s : State),
     let et := f.et.toNat
     let A (a : Thread) (l : Option Nat) : Nat := (a.opA f l).toNat
     let B (a : Thread) (l : Option Nat) : Nat := (a.opB f l).toNat
     let C (a : Thread) (l : Option Nat) : Nat := (a.opC f l).toNat
     let rm (a : Thread) : Nat := a.rounding f.rs
     let gives (op : Nat) (i : Instr) (r : Thread → Option Nat → Nat × BitVec 5) : Prop :=
       GivesFloats op i f s (fun a l => BitVec.ofNat 64 (r a l).1) (fun a l => (r a l).2)
     let trans (op : Nat) : Thread → Option Nat → Nat × BitVec 5 :=
       fun a l => finishF 8 (rm a) 0 (transcend op (decEt 8 (A a l)))
     gives 0x40 (.fadd f) (fun a l => fAdd et (rm a) (A a l) (B a l)) ∧
     gives 0x41 (.fsub f) (fun a l => fSub et (rm a) (A a l) (B a l)) ∧
     gives 0x42 (.fmul f) (fun a l => fMul et (rm a) (A a l) (B a l)) ∧
     gives 0x43 (.ffma f) (fun a l => fFma et (rm a) (A a l) (B a l) (C a l)) ∧
     gives 0x44 (.fmin f) (fun a l => fMinMax et false (A a l) (B a l)) ∧
     gives 0x45 (.fmax f) (fun a l => fMinMax et true (A a l) (B a l)) ∧
     GivesBits 0x46 (.fcmp f) f s (fun a l => (fCompare et f.rs.toNat (A a l) (B a l)).1)
       (fun a l => (fCompare et f.rs.toNat (A a l) (B a l)).2) ∧
     FlagTraps 0x46 (.fcmp f) f s (fun _ => True) (fun a l => (fCompare et f.rs.toNat (A a l) (B a l)).2) ∧
     gives 0x47 (.frcp f) (trans 0x47) ∧ gives 0x48 (.frsq f) (trans 0x48) ∧ gives 0x49 (.fexp2 f) (trans 0x49) ∧
     gives 0x4A (.flog2 f) (trans 0x4A) ∧ gives 0x4B (.fsin f) (trans 0x4B) ∧ gives 0x4C (.fcos f) (trans 0x4C) ∧
     gives 0x4D (.ftanh f) (trans 0x4D) ∧
     GivesFloats 0x4E (.hfma2 f) f s
       (fun a l => BitVec.ofNat 64 ((fFma et (rm a) (A a l / 65536) (B a l / 65536) (C a l / 65536)).1 * 65536 +
         (fFma et (rm a) (A a l) (B a l) (C a l)).1))
       (fun a l => (fFma et (rm a) (A a l) (B a l) (C a l)).2 |||
         (fFma et (rm a) (A a l / 65536) (B a l / 65536) (C a l / 65536)).2)) ∧
  (∀ mode : Nat, mode < 4 →
     let g (op a : Nat) : Nat × BitVec 5 := finishF 8 mode 0 (transcend op (decEt 8 a))
     let nan : Nat := 0x7FC00000
     let pinf : Nat := 0x7F800000
     let ninf : Nat := 0xFF800000
     let one : Nat := 0x3F800000
     g 0x47 0 = (pinf, fDZ) ∧ g 0x48 0 = (pinf, fDZ) ∧ g 0x49 0 = (one, 0) ∧ g 0x4A 0 = (ninf, fDZ) ∧ g 0x4B 0 = (0, 0) ∧
     g 0x4C 0 = (one, 0) ∧ g 0x4D 0 = (0, 0) ∧
     g 0x47 0x80000000 = (ninf, fDZ) ∧ g 0x48 0x80000000 = (pinf, fDZ) ∧ g 0x49 0x80000000 = (one, 0) ∧
     g 0x4A 0x80000000 = (ninf, fDZ) ∧ g 0x4B 0x80000000 = (0x80000000, 0) ∧ g 0x4C 0x80000000 = (one, 0) ∧
     g 0x4D 0x80000000 = (0x80000000, 0) ∧
     g 0x47 pinf = (0, 0) ∧ g 0x48 pinf = (0, 0) ∧ g 0x49 pinf = (pinf, 0) ∧ g 0x4A pinf = (pinf, 0) ∧ g 0x4B pinf = (nan, fIV) ∧
     g 0x4C pinf = (nan, fIV) ∧ g 0x4D pinf = (one, 0) ∧
     g 0x47 ninf = (0x80000000, 0) ∧ g 0x48 ninf = (nan, fIV) ∧ g 0x49 ninf = (0, 0) ∧ g 0x4A ninf = (nan, fIV) ∧
     g 0x4B ninf = (nan, fIV) ∧ g 0x4C ninf = (nan, fIV) ∧ g 0x4D ninf = (0xBF800000, 0) ∧
     (∀ a : Nat, 0x80000000 < a → a < ninf → g 0x48 a = (nan, fIV) ∧ g 0x4A a = (nan, fIV)) ∧
     (∀ (op a : Nat), op ∈ [0x47, 0x48, 0x49, 0x4A, 0x4B, 0x4C, 0x4D] → a < 2 ^ 32 → (decEt 8 a).isNan = true →
       g op a = (nan, if (decEt 8 a).isSig then fIV else 0))) ∧
  (let g (op mode a : Nat) : Nat × BitVec 5 := finishF 8 mode 0 (transcend op (decEt 8 a))
   let is (r : Nat × BitVec 5) (q : Rat) : Prop := r.2 = 0 ∧ (decEt 8 r.1).finite ∧ (decEt 8 r.1).rat = q
   (∀ mode a : Nat, mode < 4 → a < 2 ^ 32 → (decEt 8 a).finite →
     let q := (decEt 8 a).rat
     (∀ k : Int, q.abs = 2 ^ k → k ≤ 149 → -127 ≤ k → is (g 0x47 mode a) (1 / q)) ∧
     (∀ k : Int, q = k → k ≠ 0 → k ≤ 127 → -149 ≤ k → is (g 0x49 mode a) (2 ^ k)) ∧
     (∀ k : Int, q = 2 ^ k → is (g 0x4A mode a) k) ∧
     (∀ k : Int, q = 2 ^ (2 * k) → is (g 0x48 mode a) (2 ^ (-k)))) ∧
   (∀ mode : Nat, mode < 4 → g 0x4A mode 0x3F800000 = (0, 0)) ∧
   g 0x47 0 0x00000001 = (0x7F800000, fOF ||| fNX) ∧ g 0x49 0 0x43000000 = (0x7F800000, fOF ||| fNX) ∧
   (∀ mode : Nat, mode < 4 → g 0x49 mode 0xC3150000 = (1, 0)) ∧
   (∀ a : Nat, a < 2 ^ 32 → (decEt 8 a).finite → (decEt 8 a).rat ≠ 0 → (g 0x47 0 a).2.getLsbD 2 = false →
     (decEt 8 (g 0x47 0 a).1).finite ∧
     ∀ b : Nat, b < 2 ^ 32 → (decEt 8 b).finite →
       ((decEt 8 (g 0x47 0 a).1).rat - 1 / (decEt 8 a).rat).abs ≤ ((decEt 8 b).rat - 1 / (decEt 8 a).rat).abs))

/-- The operands of an exact operation on finite numbers are rounded once (06 R103, R115): the sum, the difference, the product
and the fused product and sum are the rounding of the exact number, with the flags of that rounding.
Rounding (06 R103-R105): a result that does not overflow is a finite number of the format and, in `.rne`, none of the
format's numbers is nearer to the exact one, and of two as near it is the even one; in `.ru`, `.rd` and `.rz` it is the nearest of those not
below, not above, and not further from zero; NX is raised exactly when it differs from the exact number, UF when besides the exact number
lies below the smallest normal one, and no other flag. A result that overflows raises OF and NX and is the largest number or the infinity
that the mode names.
Minimum, maximum and comparison (06 R109; 07 R127): with one NaN the other operand; of two numbers or infinities the lesser or greater,
−0 below +0; a signalling NaN raises IV and nothing else does; comparison by value, −0 equal to +0, unordered with any NaN. -/
def Obligations.FloatRounding : Prop :=
  (∀ (et mode a b c : Nat), et ∈ [8, 9, 10] → (decEt et a).finite → (decEt et b).finite → (decEt et c).finite →
     let A := (decEt et a).rat
     let B := (decEt et b).rat
     let C := (decEt et c).rat
     let rounds (r : Nat × BitVec 5) (q : Rat) : Prop := ∃ x : Exact, x.rat = q ∧ x.sticky = false ∧ r = (fmtOf et).round mode 0 x
     rounds (fAdd et mode a b) (A + B) ∧ rounds (fSub et mode a b) (A - B) ∧ rounds (fMul et mode a b) (A * B) ∧
     rounds (fFma et mode a b c) (A * B + C)) ∧
  (∀ (et mode : Nat) (x : Exact), et ∈ [8, 9, 10, 11, 12] → mode < 4 → x.sticky = false →
     let r := (fmtOf et).round mode 0 x
     let v := ((fmtOf et).dec r.1).rat
     (r.2.getLsbD 2 = true → r.2 = fOF ||| fNX ∧
       r.1 = (if x.neg then (fmtOf et).signBit else 0) +
         (if et = 11 ∨ mode = 1 ∨ (mode = 2 ∧ x.neg = true) ∨ (mode = 3 ∧ x.neg = false) then (fmtOf et).maxBits else (fmtOf et).infBits)) ∧
     (r.2.getLsbD 2 = false →
     ((fmtOf et).dec r.1).finite ∧
     (∀ b : Nat, b < 2 ^ (8 * etBytes et) → ((fmtOf et).dec b).finite →
       let q := ((fmtOf et).dec b).rat
       (mode = 0 → (v - x.rat).abs ≤ (q - x.rat).abs ∧ ((v - x.rat).abs = (q - x.rat).abs → q ≠ v → r.1 % 2 = 0)) ∧
       (mode = 1 → v.abs ≤ x.rat.abs ∧ 0 ≤ v * x.rat ∧ (q.abs ≤ x.rat.abs → q.abs ≤ v.abs)) ∧
       (mode = 2 → x.rat ≤ v ∧ (x.rat ≤ q → v ≤ q)) ∧
       (mode = 3 → v ≤ x.rat ∧ (q ≤ x.rat → q ≤ v))) ∧
     (r.2.getLsbD 4 = true ↔ v ≠ x.rat) ∧
     (r.2.getLsbD 3 = true ↔ v ≠ x.rat ∧ x.rat.abs < 2 ^ (1 - ((fmtOf et).bias : Int))) ∧
     r.2.getLsbD 0 = false ∧ r.2.getLsbD 1 = false)) ∧
  (∀ (et a b : Nat), et ∈ [8, 9, 10] → a < 2 ^ (8 * etBytes et) → b < 2 ^ (8 * etBytes et) →
     let x := decEt et a
     let y := decEt et b
     (∀ isMax, (fMinMax et isMax a b).2 = (if x.isSig || y.isSig then fIV else 0)) ∧
     (∀ isMax, x.isNan = true → y.isNan = false → (fMinMax et isMax a b).1 = b) ∧
     (∀ isMax, x.isNan = false → y.isNan = true → (fMinMax et isMax a b).1 = a) ∧
     (∀ isMax, x.isNan = true → y.isNan = true → (fMinMax et isMax a b).1 = (fmtOf et).nanBits) ∧
     (x.below y → (fMinMax et false a b).1 = a ∧ (fMinMax et true a b).1 = b) ∧
     (y.below x → (fMinMax et false a b).1 = b ∧ (fMinMax et true a b).1 = a) ∧
     (x.isNan = false → a = b → ∀ isMax, (fMinMax et isMax a b).1 = a) ∧
     (a = (fmtOf et).signBit → b = 0 → ∀ isMax, (fMinMax et isMax a b).1 = (if isMax then 0 else (fmtOf et).signBit) ∧
       (fMinMax et isMax b a).1 = (if isMax then 0 else (fmtOf et).signBit)) ∧
     (∀ cc, (fCompare et cc a b).2 = (if x.isSig || y.isSig then fIV else 0)) ∧
     ((x.isNan || y.isNan) = true → ∀ cc, (fCompare et cc a b).1 = decide (cc = 1 ∨ cc = 6)) ∧
     (x.isNan = false → y.isNan = false →
       ((fCompare et 0 a b).1 = true ↔ ¬ x.below y ∧ ¬ y.below x) ∧ ((fCompare et 1 a b).1 = true ↔ x.below y ∨ y.below x) ∧
       ((fCompare et 2 a b).1 = true ↔ x.below y) ∧ ((fCompare et 3 a b).1 = true ↔ ¬ y.below x) ∧
       ((fCompare et 4 a b).1 = true ↔ y.below x) ∧ ((fCompare et 5 a b).1 = true ↔ ¬ x.below y) ∧
       (fCompare et 6 a b).1 = false ∧ (fCompare et 7 a b).1 = true))

/-- Conversion (07 R131; 06 R99, R108): between integer types the exact value, wrapped or saturated; from a float to an integer
the rounded value saturated, with IV on saturation and on a NaN and NX when it is inexact; to a float or to E8M0 one rounding, with the values
that follow; an enabled flag is its trap instead (06 R114; log 34).
What a conversion gives (06 R98, R104, R106, R108, R109): to an integer type the rounded value, saturated with IV, 0 with IV of a NaN, NX
where it is inexact and in range; to E8M0 the table of R98; to a float the one rounding of the number, whose values `FloatRounding` states,
the infinity, E4M3's NaN with IV for it, and the canonical NaN, with IV of a signalling one. Under `.sr` the number that is chosen is the
farther neighbour exactly when the fraction of the way, in units of 2^-32, and the random word come to 2^32. -/
def Obligations.Conversion : Prop :=
  (∀ (f : Fields) (s : State),
     let src := f.cvtSrc
     let dst := f.et.toNat
     let rnd (a : Thread) (l : Option Nat) : Nat :=
       if f.rs = 4 then srWord (a.wide f.ck.toNat f.c.toNat (l.getD 0)) 0 else 0
     let x (a : Thread) (l : Option Nat) : FVal :=
       if etIsInt src then ofInt (intOf src (a.opA f l)) else decEt src (a.opA f l).toNat
     (etIsInt src = true → etIsInt dst = true →
       GivesLanes 0x60 (.cvt f) f s (fun a l => narrowed dst f.ov (intOf src (a.opA f l))) noFlags) ∧
     (etIsInt src = false → etIsInt dst = true →
       GivesFloats 0x60 (.cvt f) f s (fun a l => narrowed dst false (toInt dst (a.rounding f.rs) (x a l)).1)
         (fun a l => (toInt dst (a.rounding f.rs) (x a l)).2)) ∧
     (dst = 13 → etIsInt src = false →
       GivesFloats 0x60 (.cvt f) f s (fun a l => BitVec.ofNat 64 (toE8m0 (a.rounding f.rs) (x a l)).1)
         (fun a l => (toE8m0 (a.rounding f.rs) (x a l)).2)) ∧
     (etIsFlt dst = true →
       GivesFloats 0x60 (.cvt f) f s (fun a l => BitVec.ofNat 64 (toFloat dst (a.rounding f.rs) (rnd a l) (x a l)).1)
         (fun a l => (toFloat dst (a.rounding f.rs) (rnd a l) (x a l)).2))) ∧
  ((∀ (et mode : Nat) (x : FVal), et < 8 → mode < 4 →
     (x.isNan = true → toInt et mode x = (0, fIV)) ∧
     (∀ n, x = .inf n → toInt et mode x = (if n then leastOf et else greatestOf et, fIV)) ∧
     (x.finite → ∃ v : Int, IntRounding mode x.rat v ∧
       toInt et mode x = (if v < leastOf et then (leastOf et, fIV) else if greatestOf et < v then (greatestOf et, fIV)
         else (v, if (v : Rat) = x.rat then 0 else fNX)))) ∧
   (∀ (mode : Nat) (x : FVal), mode < 4 →
     (¬ x.finite ∨ x.rat ≤ 0 → toE8m0 mode x = (0xFF, fIV)) ∧
     (x.finite → 2 ^ (127 : Int) < x.rat → toE8m0 mode x = (0xFE, fOF ||| fNX)) ∧
     (x.finite → 0 < x.rat → x.rat < 2 ^ (-127 : Int) → toE8m0 mode x = (0, fUF ||| fNX)) ∧
     (∀ k : Int, x.finite → 2 ^ (-127 : Int) ≤ x.rat → x.rat ≤ 2 ^ (127 : Int) → 2 ^ k ≤ x.rat → x.rat < 2 ^ (k + 1) →
       ((toE8m0 mode x).1 : Int) = scaleCode mode x.rat k ∧ (toE8m0 mode x).2 = (if x.rat = 2 ^ k then 0 else fNX))) ∧
   (∀ (et mode rnd : Nat) (x : FVal), et ∈ [8, 9, 10, 11, 12] →
     (x.isNan = true → toFloat et mode rnd x = ((fmtOf et).nanBits, if x.isSig then fIV else 0)) ∧
     (∀ n, x = .inf n → toFloat et mode rnd x =
       (if et = 11 then (0x7F, fIV) else ((fmtOf et).infBits + (if n then (fmtOf et).signBit else 0), 0))) ∧
     (∀ n m e, x = .fin n m e → toFloat et mode rnd x = (fmtOf et).round mode rnd { neg := n, mant := m, exp := e })) ∧
   (∀ (et rnd : Nat) (x : Exact), et ∈ [11, 12] → rnd < 2 ^ 32 → x.sticky = false → x.mant ≠ 0 →
     let value (mode : Nat) : Rat := ((fmtOf et).dec ((fmtOf et).round mode rnd x).1).rat
     let lo := value 1
     let hi := if x.neg then value 3 else value 2
     x.rat.abs ≤ ((fmtOf et).dec (fmtOf et).maxBits).rat →
     (lo = x.rat → value 4 = x.rat ∧ ((fmtOf et).round 4 rnd x).2 = 0) ∧
     (lo ≠ x.rat → value 4 = (if (2 ^ 32 : Int) ≤ ((x.rat.abs - lo.abs) / (hi.abs - lo.abs) * 2 ^ 32).floor + (rnd : Int) then hi else lo) ∧
       ((fmtOf et).round 4 rnd x).2.getLsbD 4 = true ∧ ((fmtOf et).round 4 rnd x).2.getLsbD 2 = false)))

/-- Affine arithmetic (07 R133; 01 R20): base modulo 2^64 and exact stride; where the stride fits, in every lane the result is
the operation applied lane by lane modulo 2^64; where it does not, cause 0x16 and nothing is written. -/
def Obligations.AffineArithmetic : Prop :=
  ∀ (f : Fields) (s : State),
    let fits (k : Int) : Prop := -(2 ^ 31) ≤ k ∧ k ≤ 2 ^ 31 - 1
    let gives (op : Nat) (i : Instr) (base : Thread → Word) (k : Thread → Int) (lane : Thread → Nat → Word) : Prop :=
      GivesRegs op i f s (fun a => fits (k a)) (fun a x y =>
        ∃ r : Affine, AffResult f a x y r ∧ r.base = base a ∧ r.stride.toInt = k a ∧ ∀ l, l < 64 → r.at l = lane a l) ∧
      (checkLong op f = none → Issues op f s → ¬ fits (k (s.issued op f).thr) → Traps i s op f { cause := 0x16 })
    let x (a : Thread) : Affine := affA a f
    let y (a : Thread) : Affine := affB a f
    gives 0x50 (.aadd f) (fun a => (x a).base + (y a).base) (fun a => (x a).stride.toInt + (y a).stride.toInt)
      (fun a l => (x a).at l + (y a).at l) ∧
    gives 0x51 (.asub f) (fun a => (x a).base - (y a).base) (fun a => (x a).stride.toInt - (y a).stride.toInt)
      (fun a l => (x a).at l - (y a).at l) ∧
    gives 0x52 (.amul f) (fun a => (x a).base * (y a).base) (fun a => (x a).stride.toInt * (y a).base.toInt)
      (fun a l => (x a).at l * (y a).base) ∧
    gives 0x53 (.ashl f) (fun a => (x a).base <<< (y a).base.toNat) (fun a => (x a).stride.toInt * 2 ^ (y a).base.toNat)
      (fun a l => (x a).at l <<< (y a).base.toNat) ∧
    gives 0x54 (.amov f) (fun a => (x a).base) (fun a => (x a).stride.toInt) (fun a l => (x a).at l)

/-- Mask operations over the selected lanes, and the summaries of a mask over the real lanes of `m0` (07 R136, R137). -/
def Obligations.MaskOperations : Prop :=
  ∀ (f : Fields) (s : State),
    let bit (a : Thread) (n : Nat) (l : Option Nat) : Bool := (a.mask n).getLsbD (l.getD 0)
    let inT (a : Thread) (l : Nat) : Bool := a.m0.getLsbD l && !a.help.getLsbD l
    let set (a : Thread) (l : Nat) : Bool := inT a l && (a.mask f.a.toNat).getLsbD l
    GivesBits 0x58 (.mand f) f s (fun a l => bit a f.a.toNat l && bit a f.b.toNat l) noFlags ∧
    GivesBits 0x59 (.mor f) f s (fun a l => bit a f.a.toNat l || bit a f.b.toNat l) noFlags ∧
    GivesBits 0x5A (.mxor f) f s (fun a l => bit a f.a.toNat l ^^ bit a f.b.toNat l) noFlags ∧
    GivesBits 0x5B (.mnot f) f s (fun a l => !bit a f.a.toNat l) noFlags ∧
    GivesRegs 0x5C (.mcount f) f s (fun _ => True) (fun a x y =>
      UniResult f a x y (BitVec.ofNat 64 ((List.range 64).filter (set a)).length)) ∧
    GivesRegs 0x5D (.many f) f s (fun _ => True) (fun a x y => CondResult f.d.toNat x y ((List.range 64).any (set a))) ∧
    GivesRegs 0x5E (.mall f) f s (fun _ => True) (fun a x y =>
      CondResult f.d.toNat x y ((List.range 64).all (fun l => !inT a l || (a.mask f.a.toNat).getLsbD l))) ∧
    GivesRegs 0x5F (.mfirst f) f s (fun _ => True) (fun a x y => ∃ n, UniResult f a x y (BitVec.ofNat 64 n) ∧
      ((n < 64 ∧ set a n = true ∧ ∀ l, l < n → set a l = false) ∨ (n = 64 ∧ ∀ l, l < 64 → set a l = false)))

/-- `VFROM` takes a half of the 64-bit lane value; `SFROM` the value of the lowest real lane of `m0`; `SFROM.CHK` the same where
all real lanes agree, and cause 0x17 where they do not (07 R134, R135). -/
def Obligations.PromotionAndNarrowing : Prop :=
  ∀ (f : Fields) (s : State),
    let inT (a : Thread) (l : Nat) : Prop := l < 64 ∧ a.m0.getLsbD l = true ∧ a.help.getLsbD l = false
    let val (a : Thread) (l : Nat) : Word :=
      if f.ak = 1 then (a.aReg f.a.toNat).at l
      else if f.et = 3 then (a.vReg f.a.toNat l).signExtend 64 else (a.vReg f.a.toNat l).setWidth 64
    let first (a : Thread) (n : Nat) : Prop := inT a n ∧ ∀ l, inT a l → n ≤ l
    GivesLanes 0x61 (.vfrom f) f s (fun a l =>
      let w := if f.ak = 0 then a.sReg f.a.toNat else (a.aReg f.a.toNat).at (l.getD 0)
      if f.uimm = 1 then w >>> 32 else w) noFlags ∧
    GivesRegs 0x62 (.sfrom f) f s (fun a => ∃ l, inT a l) (fun a x y => ∃ n, first a n ∧ UniResult f a x y (val a n)) ∧
    GivesRegs 0x63 (.sfromChk f) f s (fun a => (∃ l, inT a l) ∧ ∀ l j, inT a l → inT a j → val a l = val a j)
      (fun a x y => ∃ n, first a n ∧ UniResult f a x y (val a n)) ∧
    (checkLong 0x63 f = none → Issues 0x63 f s →
      (∃ l j, inT (s.issued 0x63 f).thr l ∧ inT (s.issued 0x63 f).thr j ∧
        val (s.issued 0x63 f).thr l ≠ val (s.issued 0x63 f).thr j) →
      Traps (.sfromChk f) s 0x63 f { cause := 0x17 })

/-- Lane exchange (07 R138): a lane whose source lane is below W and in `m0` receives that lane's value, any other its own; the
mask RS names, if any, records which.
`MATCH` (07 R139): each selected lane receives the lowest real selected lane that holds its value, or its own index where
none does; the mask RS names marks the lanes that receive themselves as participants. -/
def Obligations.LaneExchange : Prop :=
  (∀ (f : Fields) (s : State),
     let delta (a : Thread) (l : Nat) : Int :=
       if f.bk = 3 then (if f.ext then (f.lit.toNat : Int) else ((f.imm14.signExtend 32).toNat : Int))
       else ((a.lane f.bk.toNat f.b.toNat l).toNat : Int)
     let gives (op : Nat) (i : Instr) (src : Thread → Nat → Int) : Prop :=
       let valid (a : Thread) (l : Nat) : Bool := 0 ≤ src a l && src a l < a.width && a.m0.getLsbD (src a l).toNat
       GivesRegs op i f s (fun _ => True) (fun a x y => LanesAndMask f a x y
         (fun l => a.lane f.ak.toNat f.a.toNat (if valid a l then (src a l).toNat else l)) (valid a))
     gives 0x68 (.shfl f) (fun a l => delta a l) ∧
     gives 0x69 (.shflup f) (fun a l => l - delta a l) ∧
     gives 0x6A (.shfldn f) (fun a l => l + delta a l) ∧
     gives 0x6B (.shflx f) (fun a l => ((l ^^^ (delta a l).toNat : Nat) : Int)) ∧
     gives 0x6C (.qswap f) (fun _ l => ((4 * (l / 4) + ((l % 4) ^^^ f.uimm) : Nat) : Int)) ∧
     gives 0x6D (.qbcast f) (fun _ l => ((4 * (l / 4) + f.uimm : Nat) : Int))) ∧
  (∀ (f : Fields) (s : State),
     let part (a : Thread) (l : Nat) : Prop := l < 64 ∧ (a.sel f).getLsbD l = true ∧ a.help.getLsbD l = false
     let same (a : Thread) (l j : Nat) : Prop := a.vReg f.a.toNat l = a.vReg f.a.toNat j
     GivesRegs 0x6E (.matchV f) f s (fun _ => True) (fun a x y => ∃ lead : Nat → Nat,
       (∀ l, l < 64 → (a.sel f).getLsbD l = true →
         ((∃ j, part a j ∧ same a j l) → part a (lead l) ∧ same a (lead l) l ∧ ∀ j, part a j → same a j l → lead l ≤ j) ∧
         ((¬ ∃ j, part a j ∧ same a j l) → lead l = l)) ∧
       LanesAndMask f a x y (fun l => BitVec.ofNat 32 (lead l)) (fun l => !a.help.getLsbD l && lead l == l)))

/-- `VSCAN` and `VRED` (07 R140): over the participants up to the lane, and over all of them, the one operation; an enabled flag is its trap
(06 R114; log 34).
Combining values (06 R116; 07 R140): an integer sum is the exact sum narrowed once; minimum and maximum are a value among
them that none exceeds; and sums, minima and maxima of integers and sums of floats do not depend on the order of the values. -/
def Obligations.ScanAndReduce : Prop :=
  (∀ (f : Fields) (s : State),
     let et := f.et.toNat
     let parts (a : Thread) (m : Word) (p : Nat → Bool) : List Nat := (List.range 64).filter (fun l => m.getLsbD l && p l)
     let val (a : Thread) (l : Nat) : Word := (a.lane f.ak.toNat f.a.toNat l).setWidth 64
     let uni (a : Thread) (l : Nat) : Word := if f.et = 3 then (a.vReg f.a.toNat l).signExtend 64 else val a l
     let op (a : Thread) (xs : List Word) : Word × BitVec 5 := combine f.b.toNat et (a.rounding f.rs) f.ov xs
     GivesFloats 0x6F (.vscan f) f s
       (fun a l => (op a ((parts a (a.sel f) (fun p => p ≤ l.getD 0)).map (val a))).1)
       (fun a l => (op a ((parts a (a.sel f) (fun p => p ≤ l.getD 0)).map (val a))).2) ∧
     (f.fc = 2 → GivesFloats 0x70 (.vred f) f s (fun a _ => (op a ((parts a (a.sel f) (fun _ => true)).map (val a))).1)
       (fun a _ => (op a ((parts a (a.sel f) (fun _ => true)).map (val a))).2)) ∧
     (f.fc = 0 → GivesFloats 0x70 (.vred f) f s (fun a _ => (op a ((parts a a.m0 (fun _ => true)).map (uni a))).1)
       (fun a _ => (op a ((parts a a.m0 (fun _ => true)).map (uni a))).2))) ∧
  ((∀ (et mode : Nat) (sat : Bool) (xs : List Word), et < 8 →
     (combine 0 et mode sat xs).1 = narrowed et sat ((xs.map (intOf et)).foldr (· + ·) 0) ∧
     (xs ≠ [] → (∃ x ∈ xs, (combine 1 et mode sat xs).1 = narrowed et false (intOf et x) ∧ ∀ y ∈ xs, intOf et x ≤ intOf et y) ∧
       (∃ x ∈ xs, (combine 2 et mode sat xs).1 = narrowed et false (intOf et x) ∧ ∀ y ∈ xs, intOf et y ≤ intOf et x))) ∧
   (∀ (opn et mode : Nat) (sat : Bool) (xs ys : List Word), xs.Perm ys → (et < 8 ∨ (et ∈ [8, 9, 10] ∧ opn = 0)) → opn ≤ 5 →
     combine opn et mode sat xs = combine opn et mode sat ys))

/-- Branches, `LOOP`, `JTAB`, `UPUT`, `NOP` and `YIELD` (03 R63; 04 R78-R80, R86, R87): where the program counter goes, what is
written, and that nothing else changes. A displacement counts 4-byte units from the instruction's first parcel. -/
def Obligations.Branches : Prop :=
  ∀ (f : Fields) (s : State),
    let disp : Pc := 4 * (if f.ext then f.lit.signExtend 55 else (f.c ++ f.b).signExtend 55)
    let next (a : Thread) : Pc := a.pc + 4 * BitVec.ofNat 55 f.parcels
    GivesThread 0x00 (.nop f) f s (fun _ => True) (fun a b => b = { a with pc := next a }) ∧
    GivesThread 0x01 (.bra f) f s (fun _ => True) (fun a b => b = { a with pc := a.pc + disp }) ∧
    GivesThread 0x02 (.brc f) f s (fun _ => True) (fun a b =>
      let taken : Bool := if f.ak = 3 then a.cond (f.a.toNat % 8) != f.a.getLsbD 3 else a.sReg f.a.toNat != 0
      b = { a with pc := if taken then a.pc + disp else next a }) ∧
    GivesThread 0x03 (.loop f) f s (fun _ => True) (fun a b => ∃ y, UniResult f a a y (a.sReg f.d.toNat - 1) ∧
      b = { y with pc := if a.sReg f.d.toNat = 1 then next a else a.pc + disp }) ∧
    GivesThread 0x04 (.jtab f) f s (fun _ => True) (fun a b =>
      let i := if f.uimm < (a.sReg f.a.toNat).toNat then f.uimm else (a.sReg f.a.toNat).toNat
      b = { a with pc := a.pc + 8 + 8 * BitVec.ofNat 55 i }) ∧
    GivesThread 0x0F (.uput f) f s (fun _ => True) (fun a b => ∃ y,
      UniResult f a a y (if f.bk = 3 then (if f.ext then f.lit.signExtend 64 else (f.c ++ f.b).signExtend 64) else a.sReg f.b.toNat) ∧
      b = { y with pc := next a }) ∧
    GivesState 0x10 (.yield f) f s (fun _ => True) (fun u v =>
      v = { u with thr := { u.thr with pc := next u.thr, sched := { u.thr.sched with age := u.tick, starve := 0 } } })

/-- Calls push a frame with the return address and the windows, `RET` pops it and restores them, `ENTER` slides the windows (04
R81, R82). A misaligned target is cause 0x07, an overflow of the spill area 0x11, a `RET` on an empty stack 0x14 and on another
entry 0x12, a size of 0 or above its allocation 0x15; in each of these nothing changes but for the trap. -/
def Obligations.CallsAndWindows : Prop :=
  ∀ (f : Fields) (s : State),
    let disp : Pc := 4 * (if f.ext then f.lit.signExtend 55 else (f.c ++ f.b).signExtend 55)
    let next (a : Thread) : Pc := a.pc + 4 * BitVec.ofNat 55 f.parcels
    let framed (a : Thread) : Thread := { a with stack := .frame (next a) a.wins.bases :: a.stack }
    let target (a : Thread) : Pc := (a.sReg f.a.toNat).setWidth 55
    let nv := (f.lit.extractLsb' 0 8).toNat
    let ns := (f.lit.extractLsb' 8 8).toNat
    let na := (f.lit.extractLsb' 16 8).toNat
    let sizes (a : Thread) : Prop := 0 < nv ∧ nv ≤ a.wins.v.alloc ∧ 0 < ns ∧ ns ≤ a.wins.s.alloc ∧ 0 < na ∧ na ≤ a.wins.a.alloc
    let slid (a b : Thread) : Prop := WindowsAre a.wins b.wins
        { swb := a.wins.s.wb + f.b.toNat, sws := ns, awb := a.wins.a.wb + f.c.toNat, aws := na, vwb := a.wins.v.wb + f.a.toNat
          vws := nv } ∧ b = { a with wins := b.wins, pc := next a }
    GivesThread 0x05 (.call f) f s (fun a => (framed a).spillFits = true) (fun a b => b = { framed a with pc := a.pc + disp }) ∧
    GivesTrap 0x05 (.call f) f s (fun u => (framed u.thr).spillFits = false) (fun _ => { cause := 0x11 }) ∧
    GivesThread 0x06 (.calli f) f s (fun a => (target a).toNat % 4 = 0 ∧ (framed a).spillFits = true)
      (fun a b => b = { framed a with pc := target a }) ∧
    GivesTrap 0x06 (.calli f) f s (fun u => (target u.thr).toNat % 4 ≠ 0) (fun _ => { cause := 0x07 }) ∧
    GivesTrap 0x06 (.calli f) f s (fun u => (target u.thr).toNat % 4 = 0 ∧ (framed u.thr).spillFits = false)
      (fun _ => { cause := 0x11 }) ∧
    (∀ (ret : Pc) (w : Bases) (rest : List Entry),
      GivesThread 0x07 (.ret f) f s (fun a => a.stack = .frame ret w :: rest) (fun a b =>
        WindowsAre a.wins b.wins w ∧ b = { a with wins := b.wins, stack := rest, pc := ret })) ∧
    GivesTrap 0x07 (.ret f) f s (fun u => u.thr.stack = []) (fun _ => { cause := 0x14 }) ∧
    (∀ (e : Entry) (rest : List Entry), (∀ r w, e ≠ .frame r w) → (∀ x, e ≠ .focus x) →
      GivesTrap 0x07 (.ret f) f s (fun u => u.thr.stack = e :: rest) (fun _ => { cause := 0x12 })) ∧
    (checkLong 0x08 f = none → Issues 0x08 f s → sizes (s.issued 0x08 f).thr →
      (∃ t, exec (.enter f) s = .next t ∧ DoneHere 0x08 f s t slid) ∨
      exec (.enter f) s = .next ((s.waited 0x08 f).completeAll.takeTrap { cause := 0x11 } f.parcels)) ∧
    GivesThread 0x08 (.enter f) f s (fun a => sizes a ∧ a.wins.s.low = 0 ∧ a.wins.a.low = 0 ∧ a.wins.v.low = 0 ∧
        a.wins.s.wb + f.b.toNat + ns ≤ a.wins.s.alloc ∧ a.wins.a.wb + f.c.toNat + na ≤ a.wins.a.alloc ∧
        a.wins.v.wb + f.a.toNat + nv ≤ a.wins.v.alloc ∧ a.stack.length ≤ 16) slid ∧
    GivesTrap 0x08 (.enter f) f s (fun u => ¬ sizes u.thr) (fun _ => { cause := 0x15 })

/-- Opening a class loop and going to its next class (04 R74, R83, R84): the entry, the class that runs, the class value and the
place; a slot below an open loop's is cause 0x10, a full spill area 0x11, `NEXTC` on another entry or an empty stack 0x12.
`LEAVE` and `EXIT` (04 R85; 17 R326): the selected lanes leave `m0` and OUTER of the entries the instruction names; with a
real lane left the group goes on, else it settles; too few class entries are cause 0x12, even when no lane is selected. -/
def Obligations.ClassLoops : Prop :=
  (∀ (f : Fields) (s : State),
     let disp : Pc := 4 * (if f.ext then f.lit.signExtend 55 else (f.c ++ f.b).signExtend 55)
     let key (a : Thread) : Key :=
       if f.ak = 0 then .uni (a.sReg f.a.toNat)
       else if f.ak = 1 then .aff (a.aReg f.a.toNat).base (a.aReg f.a.toNat).stride
       else .slot (a.wins.v.wb + f.a.toNat)
     let entry (o : Order) (k : Thread → Key) (a : Thread) : ClassEntry :=
       { order := o, outer := a.m0, pend := a.m0, key := k a, body := a.pc + 4 * BitVec.ofNat 55 f.parcels, fin := a.pc + disp
         dest := a.wins.s.wb + f.d.toNat }
     let clear (a : Thread) : Prop := ∀ e, Entry.cls e ∈ a.stack → e.dest ≤ a.wins.s.wb + f.d.toNat
     let opens (op : Nat) (i : Instr) (o : Order) (k : Thread → Key) : Prop :=
       GivesThread op i f s (fun a => clear a ∧ a.active ≠ 0 ∧
           ({ a with stack := .cls (entry o k a) :: a.stack } : Thread).spillFits = true)
         (fun a b => ClassStarts a b (entry o k a) a.stack) ∧
       GivesTrap op i f s (fun u => ¬ clear u.thr) (fun _ => { cause := 0x10 }) ∧
       GivesTrap op i f s (fun u => clear u.thr ∧
           ({ u.thr with stack := .cls (entry o k u.thr) :: u.thr.stack } : Thread).spillFits = false) (fun _ => { cause := 0x11 })
     opens 0x09 (.classFirst f) .first key ∧ opens 0x0A (.classAsc f) .asc key ∧
     opens 0x0B (.classM f) .mask (fun a => .mask (a.mask f.a.toNat)) ∧
     (∀ (e : ClassEntry) (rest : List Entry),
       GivesThread 0x0C (.nextc f) f s (fun a => a.stack = .cls e :: rest ∧ e.pend &&& ~~~ a.help ≠ 0)
         (fun a b => ClassStarts a b e rest) ∧
       GivesThread 0x0C (.nextc f) f s (fun a => a.stack = .cls e :: rest ∧ e.pend &&& ~~~ a.help = 0)
         (fun a b => b = { a with m0 := e.outer, stack := rest, pc := e.fin })) ∧
     GivesTrap 0x0C (.nextc f) f s (fun u => (∀ x, u.thr.stack.head? ≠ some (.cls x)) ∧ ∀ x, u.thr.stack.head? ≠ some (.focus x))
       (fun _ => { cause := 0x12 })) ∧
  (∀ (f : Fields) (s : State),
     let gone (a : Thread) : Word := a.sel f
     let left (a : Thread) : Word := a.m0 &&& ~~~ gone a
     let open_ (a : Thread) : Nat :=
       ((a.stack.takeWhile (fun e => match e with | .trap _ => false | _ => true)).filter
         (fun e => match e with | .cls _ => true | _ => false)).length
     let exits (a : Thread) : List Entry := a.stack.map (fun e => match e with
       | .cls x => .cls { x with outer := x.outer &&& ~~~ gone a }
       | .trap x => .trap { x with savedM0 := x.savedM0 &&& ~~~ gone a }
       | e => e)
     let ends (stack : Thread → List Entry) (u v : State) : Prop :=
       let b : Thread := { u.thr with m0 := left u.thr, stack := stack u.thr }
       (left u.thr &&& ~~~ u.thr.help ≠ 0 → v = { u with thr := { b with pc := u.thr.pc + 8 } }) ∧
       (left u.thr &&& ~~~ u.thr.help = 0 → v = ({ u with thr := b } : State).settle f.parcels)
     GivesState 0x0E (.exit f) f s (fun _ => True) (ends exits) ∧
     GivesState 0x0D (.leave f) f s (fun u => f.uimm < open_ u.thr) (fun u v => ∃ st : List Entry,
       st.length = u.thr.stack.length ∧
       (∀ n, n < u.thr.stack.length →
         st[n]? = (match u.thr.stack[n]? with
           | some (.cls x) => if ((u.thr.stack.take n).filter (fun e => match e with | .cls _ => true | _ => false)).length < f.uimm
               then some (.cls { x with outer := x.outer &&& ~~~ gone u.thr }) else some (.cls x)
           | e => e)) ∧
       ends (fun _ => st) u v) ∧
     GivesTrap 0x0D (.leave f) f s (fun u => open_ u.thr ≤ f.uimm) (fun _ => { cause := 0x12 }))

/-- Taking a trap (17 R323-R325, R327, R328) in a group with nothing that comes before: a cause that TRAPVEC enables starts the
user handler; 0x3A enters the supervisor; a cause that is not enabled, and one that cannot be delivered (in a handler of its
kind, at a handler's first fetch, or for want of spill area), ends the group, which retires with the cause in its trap
registers, the undeliverable one under 0x73. The launch site and SEQ are recorded of 0x50, 0x57 and an engine command's 0x3A alone
(R329, R332, R341; log 36), FLAGS of 0x20 to 0x24 alone.
The checks at issue trap (03 R58; 04 R69, R76; 08 R142; 09 R193; 16 R311), the first that fails, in the model's order (DEDUCED, log
21): a hail thread's 513th instruction 0x54, a routine's 4,097th 0x3E, a slot in an open window that reads what the window's instruction
writes or writes what it reads or writes 0x08, a register above its window 0x13, an undeclared tile 0x27, and a write of a uniform register
below a class entry's fence under another mask 0x10, in every long and extended instruction. What is pending completes first, and nothing
of the instruction is performed. -/
def Obligations.TrapDelivery : Prop :=
  (∀ (u : State) (tr : TrapInfo) (len : Nat),
     PlainTrap u tr → u.thr.name.hail = false → ¬ (0x78 ≤ tr.cause ∧ tr.cause ≤ 0x7B) →
     let enabled : Prop := tr.cause ≠ 0x3A ∧
       ((1 ≤ tr.cause ∧ tr.cause ≤ 0x1F ∧ u.thr.trap.vec.getLsbD 56 = true) ∨
        (0x20 ≤ tr.cause ∧ tr.cause ≤ 0x2F ∧ u.thr.trap.vec.getLsbD 57 = true) ∨
        (0x30 ≤ tr.cause ∧ tr.cause ≤ 0x4F ∧ u.thr.trap.vec.getLsbD 58 = true) ∨
        (((0x50 ≤ tr.cause ∧ tr.cause ≤ 0x5F) ∨ tr.cause = 0x65) ∧ u.thr.trap.vec.getLsbD 59 = true) ∨
        (tr.cause = 0x72 ∧ u.thr.trap.vec.getLsbD 60 = true))
     let deep : Prop := ({ u.thr with stack := .trap { mode := .user, savedM0 := 0, tpc := 0, tlen := 0, bases := {} } :: u.thr.stack } :
       Thread).spillFits = true
     let superDeep : Prop := ({ u.thr with
       wins := u.thr.wins.handler
       stack := .trap { mode := .supervisor, savedM0 := 0, tpc := 0, tlen := 0, bases := {} } :: u.thr.stack } : Thread).spillFits = true
     let ofEngine : Prop := tr.cause = 0x50 ∨ tr.cause = 0x57
     let told : TrapInfo := { tr with
       under := if ofEngine ∨ tr.cause = 0x73 ∨ tr.cause = 0x74 then tr.under else 0
       site := if ofEngine ∨ (tr.cause = 0x3A ∧ tr.cmd.isSome) then tr.site else 0
       seq := if ofEngine ∨ (tr.cause = 0x3A ∧ tr.cmd.isSome) then tr.seq else 0
       flags := if 0x20 ≤ tr.cause ∧ tr.cause ≤ 0x24 then tr.flags else 0 }
     let t := u.takeTrap tr len
     (u.thr.supervisor = false → u.thr.firstFetch = false → enabled → u.thr.holds .user = false → deep →
       t = { u with thr := t.thr } ∧ UserEntry u.thr t.thr told len) ∧
     (u.thr.supervisor = false → tr.cause = 0x3A → superDeep →
       t = { u with thr := t.thr } ∧ SupervisorEntry u.thr t.thr told len) ∧
     (u.thr.supervisor = false → u.thr.firstFetch = false → ¬ enabled → tr.cause ≠ 0x3A →
       t.thr.status = .retiring ∧ TrapSet u.thr t.thr told len ∧ t.mem = u.mem) ∧
     ((u.thr.supervisor = true ∨ (tr.cause ≠ 0x3A ∧ u.thr.firstFetch = true ∧ tr.async = false) ∨
       (enabled ∧ (u.thr.holds .user = true ∨ ¬ deep)) ∨ (tr.cause = 0x3A ∧ ¬ superDeep)) →
       t.thr.status = .retiring ∧ t.mem = u.mem ∧
       TrapSet u.thr t.thr { tr with cause := 0x73, under := tr.cause, flags := 0, site := 0, seq := 0 } len)) ∧
  (∀ (i : Instr) (op : Nat) (f : Fields) (s0 : State), longOf i = some (op, f) →
     let s := if [0xA0, 0xA2, 0xA5, 0xC0, 0xC1, 0x82, 0x84].contains op then s0.roomForLoad else s0
     let t := (s.waited op f).thr
     let u := s.usesIn op f
     let traps (c : Nat) : Prop := exec i s0 = .next ((s.waited op f).completeAll.takeTrap { cause := c } f.parcels)
     let within : Prop := (t.name.hail = true → t.hailCount < 512) ∧ ∀ r ∈ t.routine, r.count < 4096
     let ahead : Prop := ∃ p ∈ t.pending, ∃ n, RegName.checked n = true ∧
       ((n ∈ u.reads ∧ n ∈ p.writes) ∨ (n ∈ u.writes ∧ (n ∈ p.reads ∨ n ∈ p.writes)))
     let outside : Prop := ∃ n ∈ u.reads ++ u.writes, outsideWindow t n = true
     let untold : Prop := ∃ n ∈ u.reads ++ u.writes, undeclared t n = true
     (t.name.hail = true → 512 ≤ t.hailCount → traps 0x54) ∧
     ((t.name.hail = true → t.hailCount < 512) → (∃ r ∈ t.routine, 4096 ≤ r.count) → traps 0x3E) ∧
     (within → ahead → traps 0x08) ∧
     (within → ¬ ahead → outside → traps 0x13) ∧
     (within → ¬ ahead → ¬ outside → untold → traps 0x27) ∧
     (within → ¬ ahead → ¬ outside → ¬ untold → ¬ (op = 0x0F ∨ op = 0x09 ∨ op = 0x0A ∨ op = 0x0B) →
       (op ≠ 0x08 → op ≠ 0xAB → NoPoison t u (lanesActed op f t) (remotePoison op f t)) →
       (∃ (n : Nat) (e : ClassEntry), .s n ∈ u.writes ∧ .cls e ∈ t.stack ∧ t.wins.s.wb + n < e.dest ∧ t.m0 ≠ e.outer) → traps 0x10))

/-- `TRAP` (17 R334): outside supervisor mode cause 0x72 with its immediate in TINFO.CODE, precise, for the real lanes of `m0`;
where TRAPVEC enables class 4 the group's handler starts with all of that recorded. In a supervisor routine it pops the
supervisor's entry as `SRET` does and raises its immediate as the cause of the trapped instruction, or, where the entry serves an engine
command, ends that command, which releases its hold and makes no arrival, and raises 0x50 with the immediate as UNDER; an immediate of 0
or above 0x7F is 0x03.
`SRET` (17 R326, R334): windows and `m0` from the trap entry, which is popped; with #0 the trapped instruction comes again, with
#1 the one after it. An empty stack is cause 0x14, another entry on top 0x12. -/
def Obligations.TrapAndReturn : Prop :=
  (∀ (f : Fields) (s : State), checkLong 0xE0 f = none → Issues 0xE0 f s →
     let u := (s.waited 0xE0 f).completeAll
     let a := u.thr
     (a.supervisor = false → Traps (.trap f) s 0xE0 f { cause := 0x72, code := BitVec.ofNat 16 f.uimm }) ∧
     (a.supervisor = false → PlainTrap u { cause := 0x72 } → a.name.hail = false → a.firstFetch = false →
       a.trap.vec.getLsbD 60 = true → a.holds .user = false →
       ({ a with stack := .trap { mode := .user, savedM0 := 0, tpc := 0, tlen := 0, bases := {} } :: a.stack } : Thread).spillFits = true →
       ∃ t, exec (.trap f) s = .next t ∧ t = { u with thr := t.thr } ∧
         t.thr.trap.cause = 0x72 ∧ t.thr.trap.tpc = a.pc.setWidth 64 ∧ t.thr.trap.mask = a.m0 &&& ~~~ a.help ∧
         t.thr.trap.info = BitVec.ofNat 64 (f.uimm * 2 ^ 16 + 2) ∧ t.thr.pc = a.trap.vec.setWidth 55 ∧
         UserEntry a t.thr { cause := 0x72, code := BitVec.ofNat 16 f.uimm } 2) ∧
     GivesTrap 0xE0 (.trap f) f s (fun w => w.thr.supervisor = true ∧ (f.uimm = 0 ∨ 0x7F < f.uimm)) (fun _ => { cause := 0x03 }) ∧
     (∀ (e : TrapEntry) (rest : List Entry),
       let serves (w : State) (id : Option Nat) : Prop :=
         w.thr.stack = .trap e :: rest ∧ e.mode = .supervisor ∧ 1 ≤ f.uimm ∧ f.uimm ≤ 0x7F ∧ w.thr.service.bind (·.cmd) = id
       let popped (w : State) (b : Thread) : Prop :=
         WindowsAre w.thr.wins b.wins e.bases ∧ b.m0 = e.savedM0 ∧ b.stack = rest ∧ b.pc = e.tpc ∧ b.service = none ∧
         b = { w.thr with wins := b.wins, m0 := b.m0, stack := b.stack, pc := b.pc, service := b.service }
       GivesState 0xE0 (.trap f) f s (fun w => serves w none) (fun w v => ∃ b, popped w b ∧
         v = ({ w with thr := b } : State).takeTrap { cause := f.uimm, addr := w.thr.trap.addr, lanes := some w.thr.trap.mask } e.tlen) ∧
       (∀ (id : Nat) (c : Cmd), GivesState 0xE0 (.trap f) f s
         (fun w => serves w (some id) ∧ w.hasCmd id = true ∧ w.cmd id = c ∧ c.id = id ∧ c.failed = false)
         (fun w v => ∃ b x, popped w b ∧
           x = { w with thr := b, cmds := x.cmds, cores := x.cores, ctxs := x.ctxs, nodes := x.nodes } ∧
           x.cmd id = { c with failed := true, suspended := none } ∧ (∀ n, n ≠ id → x.cmd n = w.cmd n) ∧
           (c.spoiled = false → c.bar ≠ 0 → (w.core c.core).serves = some c.ctx →
             BarrierChange w x c.core (refIndex c.bar) (w.bar c.core (refIndex c.bar)).release) ∧
           (c.bar = 0 → x.cores = w.cores) ∧
           v = x.takeTrap { cause := 0x50, under := f.uimm, async := true, addr := c.watermark, site := c.pc, seq := c.seq
                            src := c.source } e.tlen)))) ∧
  (∀ (f : Fields) (s : State),
     (∀ (e : TrapEntry) (rest : List Entry),
       GivesThread 0xE1 (.sret f) f s (fun a => a.stack = .trap e :: rest ∧ f.uimm ≤ 1) (fun a b =>
         WindowsAre a.wins b.wins e.bases ∧ b.m0 = e.savedM0 ∧ b.stack = rest ∧
         b.pc = e.tpc + 4 * BitVec.ofNat 55 e.tlen * BitVec.ofNat 55 f.uimm ∧
         b = { a with wins := b.wins, m0 := b.m0, stack := b.stack, pc := b.pc, service := b.service, routine := b.routine })) ∧
     GivesTrap 0xE1 (.sret f) f s (fun u => u.thr.stack = []) (fun _ => { cause := 0x14 }) ∧
     (∀ (e : Entry) (rest : List Entry), (∀ x, e ≠ .trap x) → (∀ x, e ≠ .focus x) →
       GivesTrap 0xE1 (.sret f) f s (fun u => u.thr.stack = e :: rest) (fun _ => { cause := 0x12 })) ∧
     (1 < f.uimm → checkLong 0xE1 f = none → Issues 0xE1 f s → ∀ (e : TrapEntry) (rest : List Entry),
       (s.issued 0xE1 f).thr.stack = .trap e :: rest → Traps (.sret f) s 0xE1 f { cause := 0x03 }))

/-- Control registers (17 R329, R335; 06 R110, R111, R114): `CSRR` gives the value of each register listed, `CSRW` writes FPSTAT
and FPMODE, in a hail thread FPMODE's rounding mode alone; every other number, and a write to any other register, is cause 0x71. -/
def Obligations.ControlRegisters : Prop :=
  ∀ (f : Fields) (s : State),
    let regs (u : State) : List (Nat × Word) :=
      [(0x001, u.thr.fpstat.setWidth 64), (0x002, u.thr.fpmode.setWidth 64), (0x004, u.thr.help),
       (0x010, coresched u u.thr.place.core), (0x020, (u.ctx u.thr.name.ctx).word), (0x030, u.hub.gts), (0x040, u.thr.trap.vec),
       (0x041, u.thr.trap.cause), (0x042, u.thr.trap.tpc), (0x043, u.thr.trap.mask), (0x044, u.thr.trap.addr),
       (0x045, u.thr.trap.info), (0x046, u.thr.trap.site), (0x050, u.thr.counts.issued), (0x051, u.thr.counts.prod),
       (0x052, u.thr.counts.skip)]
    let next (a : Thread) : Pc := a.pc + 8
    (∀ w : Word, GivesState 0xE2 (.csrr f) f s (fun u => (f.uimm, w) ∈ regs u) (fun u v =>
      ∃ y, UniResult f u.thr u.thr y w ∧ v = { u with thr := { y with pc := next u.thr } })) ∧
    GivesTrap 0xE2 (.csrr f) f s (fun u => ∀ w, (f.uimm, w) ∉ regs u) (fun _ => { cause := 0x71 }) ∧
    GivesThread 0xE3 (.csrw f) f s (fun _ => f.uimm = 0x001) (fun a b =>
      b = { a with pc := next a, fpstat := (a.sReg f.a.toNat).setWidth 5 }) ∧
    GivesThread 0xE3 (.csrw f) f s (fun a => f.uimm = 0x002 ∧ a.name.hail = false) (fun a b =>
      b = { a with pc := next a, fpmode := (a.sReg f.a.toNat).setWidth 7 }) ∧
    GivesThread 0xE3 (.csrw f) f s (fun a => f.uimm = 0x002 ∧ a.name.hail = true) (fun a b =>
      b = { a with pc := next a, fpmode := (a.sReg f.a.toNat).setWidth 7 &&& 3 }) ∧
    GivesTrap 0xE3 (.csrw f) f s (fun _ => f.uimm ≠ 0x001 ∧ f.uimm ≠ 0x002) (fun _ => { cause := 0x71 }) ∧
    GivesThread 0xE4 (.trapvec f) f s (fun a => a.name.hail = false) (fun a b =>
      b.trap.vec.setWidth 55 = (if f.a = 0 then a.trap.vec.setWidth 55
        else a.pc + 4 * (if f.ext then f.lit.signExtend 55 else (f.c ++ f.b).signExtend 55)) ∧
      b.trap.vec.extractLsb' 56 5 = f.a.setWidth 5 ∧ b.trap.vec.getLsbD 55 = false ∧ b.trap.vec.extractLsb' 61 3 = 0 ∧
      b = { a with pc := a.pc + 4 * BitVec.ofNat 55 f.parcels, trap := { a.trap with vec := b.trap.vec } }) ∧
    GivesTrap 0xE4 (.trapvec f) f s (fun u => u.thr.name.hail = true) (fun _ => { cause := 0x70 })

/-- The encodings of the system instructions (17 R333): which fields each row carries, the others zero; an immediate in [63:50] with BK 0b11 and
its range, above which it is cause 0x03 (of `SRET` R334 says when); only `TRAPVEC` has an extended form. That BK of `MAPPG`, which has no
immediate, is zero is DEDUCED (log 30).
The supervisor's instructions and `MARK` (17 R337, R338): outside supervisor mode cause 0x70, in a hail thread 0x55; in
supervisor mode `MAPPG` maps the page of its operand or reports that it cannot, `TLBINV` leaves everything but the program
counter, which a model that keeps no stale translation may (DESIGN CHOICE, log 25); `MARK` leaves everything but the program counter where
tracing of marks is off. -/
def Obligations.SupervisorInstructions : Prop :=
  (∀ f : Fields,
     let plain : Prop := f.ahead = 0 ∧ f.pm = 0 ∧ f.neg = false ∧ f.fc = 0 ∧ f.et = 0 ∧ f.ov = false ∧ f.rs = 0 ∧ f.mo = 0
     let long : Prop := f.ext = false ∧ f.lit = 0
     let noSource : Prop := f.a = 0 ∧ f.ak = 0
     let uniSource : Prop := f.a.toNat < 64 ∧ f.ak = 0
     let value (hi : Nat) : Prop := f.bk = 3 ∧ f.ck = 0 ∧ f.imm14.toNat ≤ hi
     (∀ op ∈ [0xE0, 0xE1], checkLong op f = none ↔ plain ∧ long ∧ f.d = 0 ∧ noSource ∧ value 16383) ∧
     (checkLong 0xE2 f = none ↔ plain ∧ long ∧ f.d.toNat < 64 ∧ noSource ∧ value 0xFFF) ∧
     (checkLong 0xE3 f = none ↔ plain ∧ long ∧ f.d = 0 ∧ uniSource ∧ value 0xFFF) ∧
     (checkLong 0xE4 f = none ↔ plain ∧ ((f.ext = false ∧ f.lit = 0) ∨ (f.ext = true ∧ f.imm14 = 0)) ∧ f.d = 0 ∧
       f.a.toNat < 32 ∧ f.ak = 3 ∧ f.bk = 3 ∧ f.ck = 0) ∧
     (checkLong 0xE5 f = none ↔ plain ∧ long ∧ f.d = 0 ∧ uniSource ∧ f.b = 0 ∧ f.bk = 0 ∧ f.c.toNat < 8 ∧ f.ck = 3) ∧
     (checkLong 0xE6 f = none ↔ plain ∧ long ∧ f.d = 0 ∧ uniSource ∧ value 1) ∧
     (checkLong 0xE7 f = none ↔ plain ∧ long ∧ f.d = 0 ∧ uniSource ∧ value 16383) ∧
     (plain → long → f.bk = 3 → f.ck = 0 → 0xFFF < f.imm14.toNat →
       (f.d.toNat < 64 → noSource → checkLong 0xE2 f = some 0x03) ∧ (f.d = 0 → uniSource → checkLong 0xE3 f = some 0x03)) ∧
     (plain → long → f.bk = 3 → f.ck = 0 → 1 < f.imm14.toNat → f.d = 0 → uniSource → checkLong 0xE6 f = some 0x03)) ∧
  (∀ (f : Fields) (s : State),
     let next (a : Thread) : Thread := { a with pc := a.pc + 8 }
     let page (u : State) : Nat := ((u.thr.sReg f.a.toNat).extractLsb' 0 55).toNat / 65536 * 65536
     GivesTrap 0xE5 (.mappg f) f s (fun u => u.thr.name.hail = false ∧ u.thr.supervisor = false) (fun _ => { cause := 0x70 }) ∧
     GivesTrap 0xE5 (.mappg f) f s (fun u => u.thr.name.hail = true) (fun _ => { cause := 0x55 }) ∧
     (∀ (b : Bool) (w : State),
       GivesState 0xE5 (.mappg f) f s (fun u => u.thr.name.hail = false ∧ u.thr.supervisor = true ∧
           u.mapPage u.thr.name.ctx (page u) = .ok (b, w))
         (fun u v => ∃ y, CondResult f.c.toNat w.thr y b ∧ v = { w with thr := { y with pc := y.pc + 8 } })) ∧
     (∀ c : Nat, GivesTrap 0xE5 (.mappg f) f s (fun u => u.thr.name.hail = false ∧ u.thr.supervisor = true ∧
       u.mapPage u.thr.name.ctx (page u) = .error c) (fun _ => { cause := c })) ∧
     GivesTrap 0xE6 (.tlbinv f) f s (fun u => u.thr.name.hail = false ∧ u.thr.supervisor = false) (fun _ => { cause := 0x70 }) ∧
     GivesTrap 0xE6 (.tlbinv f) f s (fun u => u.thr.name.hail = true) (fun _ => { cause := 0x55 }) ∧
     GivesThread 0xE6 (.tlbinv f) f s (fun a => a.name.hail = false ∧ a.supervisor = true) (fun a b => b = next a) ∧
     GivesState 0xE7 (.mark f) f s
       (fun u => (u.ctx u.thr.name.ctx).obs.word.getLsbD 2 = false ∨ (u.ctx u.thr.name.ctx).conf = true)
       (fun u v => v = { u with thr := next u.thr }) ∧
     GivesState 0xE7 (.mark f) f s
       (fun u => (u.ctx u.thr.name.ctx).obs.word.getLsbD 2 = true ∧ (u.ctx u.thr.name.ctx).conf = false)
       (fun u v =>
         let t := u.thr
         let w := u.tracePut t.name.ctx (traceRecord u 1 0 t.name t.source f.uimm t.pc.toNat (t.sReg f.a.toNat).toNat)
         v = { w with thr := next w.thr }))

/-- Loads (09 R175, R177, R179): where every addressed lane passes its checks, the load is pending, and when it completes, in
whatever state that is, each destination holds the bytes at its lane's address, extended; a helper lane whose access would
fault receives zero. Memory and every other part of the state stay as they are, at issue and at completion. -/
def Obligations.Loads : Prop :=
  ∀ (f : Fields) (s : State),
    let et := f.et.toNat
    let e := etBytes et
    let loads (op : Nat) (i : Instr) : Prop :=
      GivesRoom op i f s (fun u => AllReach u f .load e (f.fc == 2)) (fun u v => ∃ p, Pending f u v p ∧
        ∀ w : State, w.doWork p = { w with thr := (w.doWork p).thr } ∧
          LoadResult f u.thr w.thr (w.doWork p).thr (fun l => match (laneAccess u f .load e l).2 with
            | .ok k => extended et (BitVec.ofNat _ (ofBytes ((List.range e).map (fun i => loadByte w w.thr u.thr.memOrd (k + i)))))
            | .error _ => 0))
    loads 0xA0 (.ld f) ∧ loads 0xA2 (.ldh f) ∧
    GivesRoom 0xA5 (.ltag f) f s (fun u => AllReach u f .ltag 32 (f.fc == 2)) (fun u v => ∃ p, Pending f u v p ∧
      ∀ w : State, w.doWork p = { w with thr := (w.doWork p).thr } ∧
        LoadResult f u.thr w.thr (w.doWork p).thr (fun l => match (laneAccess u f .ltag 32 l).2 with
          | .ok k => (loadTag w w.thr u.thr.memOrd (k / 32)).setWidth 64
          | .error _ => 0))

/-- Stores (09 R176, R177, R180): the stores of all lanes enter the queue as one entry, and nothing else changes at issue, no
byte of memory among it. Once that entry is performed, each byte that some lane stores holds the highest-numbered such lane's
value, and every other byte what it held; `STAG` does the same to the tags of granules. -/
def Obligations.Stores : Prop :=
  ∀ (f : Fields) (s : State),
    let e := etBytes f.et.toNat
    let lanes (u : State) : List (Option Nat) := (addressed (f.fc != 0) f u.thr).filter (countsIn u.thr)
    let stores (op : Nat) (i : Instr) : Prop :=
      GivesState op i f s (fun u => AllReach u f .store e (f.fc != 0)) (fun u v => ∃ es, Queued f u v es ∧
        (∀ x ∈ es, x.tags = []) ∧
        ∀ (m : List Host.Cell) (k : Nat),
          let after := rdByte (wrCells m (es.flatMap (·.bytes))) k
          let covers (l : Option Nat) (a : Nat) : Prop := (laneAccess u f .store e l).2 = .ok a ∧ a ≤ k ∧ k < a + e
          ((∀ l ∈ lanes u, ∀ a, ¬ covers l a) → after = rdByte m k) ∧
          (∀ l ∈ lanes u, ∀ a, covers l a → (∀ j ∈ lanes u, (∃ b, covers j b) → j.getD 0 ≤ l.getD 0) →
            after = (u.thr.wide f.ck.toNat f.d.toNat (l.getD 0)).extractLsb' (8 * (k - a)) 8))
    stores 0xA1 (.st f) ∧ stores 0xA3 (.sth f) ∧
    GivesState 0xA4 (.stag f) f s (fun u => AllReach u f .stag 32 (f.fc != 0)) (fun u v => ∃ es, Queued f u v es ∧
      (∀ x ∈ es, x.bytes = []) ∧
      ∀ (w : State) (g : Nat),
        let after := mget 0 (es.foldl State.performEnt w).tags g
        let at_ (l : Option Nat) : Prop := ∃ k, (laneAccess u f .stag 32 l).2 = .ok k ∧ k / 32 = g
        (es.foldl State.performEnt w).mem = w.mem ∧
        ((∀ l ∈ lanes u, ¬ at_ l) → after = mget 0 w.tags g) ∧
        (∀ l ∈ lanes u, at_ l → (∀ j ∈ lanes u, at_ j → j.getD 0 ≤ l.getD 0) →
          after = (laneAccess u f .stag 32 l).1.extractLsb' 60 4))

/-- An access that fails (09 R178): the instruction traps with the cause of the lowest-numbered failing lane that is no helper
lane and that lane's address; no lane is read or written. Where none fails and some lane's bytes meet an enabled watch point of the
access's kind, cause 0x79 with the lowest such address (18 R364).
The checks of one access of a thread through a pointer (09 R165-R170; 16 R293): the layout of the pointer, the aperture,
alignment, and then the place's own: shared memory within the team's, the spill stack within SPILLSZ and never for a hail
thread, the die's scratchpad where its owner is the context. What passes is at the place that the aperture gives; that a spill stack lies at its
slot's part, by partition and slot, of the top of its core's scratchpad slice is the model's reading (DEDUCED, log 49). -/
def Obligations.AccessTrapsAndChecks : Prop :=
  (∀ (f : Fields) (s : State),
     let e := etBytes f.et.toNat
     let traps (op : Nat) (i : Instr) (s0 : State) (k : AccKind) (n : Nat) (lanes : Bool) : Prop :=
       checkLong op f = none → Issues op f s0 →
       ∀ (l : Option Nat) (c : Nat),
         let u := s0.issued op f
         l ∈ addressed lanes f u.thr → countsIn u.thr l = true → (laneAccess u f k n l).2 = .error c →
         (∀ j ∈ addressed lanes f u.thr, countsIn u.thr j = true → j.getD 0 < l.getD 0 → ∃ key, (laneAccess u f k n j).2 = .ok key) →
         ∃ m, exec i s = .next ((s0.waited op f).completeAll.takeTrap
           { cause := c, addr := (laneAccess u f k n l).1, lanes := m } f.parcels)
     let watches (op : Nat) (i : Instr) (s0 : State) (k : AccKind) (n : Nat) (lanes : Bool) : Prop :=
       checkLong op f = none → Issues op f s0 →
         let u := s0.issued op f
         let o := (u.ctx u.thr.name.ctx).obs
         let addr (w : Word) : Nat := (w.extractLsb' 0 55).toNat
         let met (x : Nat) : Prop := ∃ l ∈ addressed lanes f u.thr, countsIn u.thr l = true ∧ ∃ w, w < 4 ∧
           (mget 0 o.wctl w).getLsbD 63 = true ∧
           ((k = .load ∨ k = .ltag) ∧ (mget 0 o.wctl w).getLsbD 61 = true ∨ (k = .store ∨ k = .stag) ∧ (mget 0 o.wctl w).getLsbD 62 = true) ∧
           addr (mget 0 o.wctl w) ≤ x ∧ x ≤ addr (mget 0 o.wlimit w) ∧
           addr (laneAccess u f k n l).1 ≤ x ∧ x < addr (laneAccess u f k n l).1 + n
         (∀ l ∈ addressed lanes f u.thr, countsIn u.thr l = true → ∃ key, (laneAccess u f k n l).2 = .ok key) →
         u.thr.name.hail = false → u.thr.supervisor = false → u.thr.routine = none →
         ∀ x, met x → (∀ y, met y → x ≤ y) → ∃ c m, exec i s = .next ((s0.waited op f).completeAll.takeTrap
           { cause := 0x79, addr := BitVec.ofNat 64 x, code := c, lanes := m } f.parcels)
     traps 0xA0 (.ld f) s.roomForLoad .load e (f.fc == 2) ∧ traps 0xA2 (.ldh f) s.roomForLoad .load e (f.fc == 2) ∧
     traps 0xA1 (.st f) s .store e (f.fc != 0) ∧ traps 0xA3 (.sth f) s .store e (f.fc != 0) ∧
     traps 0xA4 (.stag f) s .stag 32 (f.fc != 0) ∧ traps 0xA5 (.ltag f) s.roomForLoad .ltag 32 (f.fc == 2) ∧
     watches 0xA0 (.ld f) s.roomForLoad .load e (f.fc == 2) ∧ watches 0xA2 (.ldh f) s.roomForLoad .load e (f.fc == 2) ∧
     watches 0xA1 (.st f) s .store e (f.fc != 0) ∧ watches 0xA3 (.sth f) s .store e (f.fc != 0) ∧
     watches 0xA4 (.stag f) s .stag 32 (f.fc != 0) ∧ watches 0xA5 (.ltag f) s.roomForLoad .ltag 32 (f.fc == 2)) ∧
  (∀ (s : State) (t : Thread) (k : AccKind) (p o : Word) (align n : Nat),
     k = .load ∨ k = .store ∨ k = .atomic →
     let g := p + o
     let a := (g.extractLsb' 0 55).toNat
     let r := (access s t k (.ptr p) o align n)
     let tm := s.team t.name.uid
     let sound : Prop := p.extractLsb' 55 5 = 0 ∧ g.extractLsb' 55 5 = 0 ∧ g.extractLsb' 60 4 = p.extractLsb' 60 4
     r.1 = g ∧
     (¬ sound → r.2 = .error 0x31) ∧
     (sound → 0x40000000 ≤ a → a < 0x90000000 → r.2 = .error 0x30) ∧
     (sound → 0x4000000000 ≤ a → r.2 = .error 0x30) ∧
     (sound → (0x100000 ≤ a ∧ a < 0x8000000) ∨ (0x8010000 ≤ a ∧ a < 0x10000000) ∨ (0x24000000 ≤ a ∧ a < 0x40000000) ∨
       (0x90000000 ≤ a ∧ a < 0x4000000000) → r.2 = .error 0x32) ∧
     (sound → a < 0x100000 ∨ (0x8000000 ≤ a ∧ a < 0x8010000) ∨ (0x10000000 ≤ a ∧ a < 0x24000000) → a % align ≠ 0 →
       r.2 = .error 0x33) ∧
     (sound → a < 0x100000 → a % align = 0 → r.2 = if tm.kernel.shared < a + n then .error 0x34 else .ok (teamKey tm a)) ∧
     (sound → 0x8000000 ≤ a → a < 0x8010000 → a % align = 0 →
       r.2 = if t.name.hail = true ∨ a < 0x8008000 ∨ 0x8000000 + (s.ctx t.name.ctx).spillSize < a + n then .error 0x34
         else .ok (scratchKey (t.place.core / 40) (t.place.core % 40 * 2 ^ 23 + (2 ^ 23 - 64 * (s.ctx t.name.ctx).spillSize) +
           (t.place.part * 8 + t.place.slot) * (s.ctx t.name.ctx).spillSize + (a - 0x8000000)))) ∧
     (sound → 0x10000000 ≤ a → a < 0x24000000 → a % align = 0 →
       let die := t.place.core / 40
       let off := a - 0x10000000
       ((scratchOwner s die off).who ≠ t.name.ctx + 2 → r.2 = .error 0x3C) ∧
       ((scratchOwner s die off).who = t.name.ctx + 2 → 2 ^ 23 - 64 * (s.ctx t.name.ctx).spillSize ≤ off % 2 ^ 23 →
         r.2 = .error 0x34) ∧
       (∀ key, r.2 = .ok key → key = scratchKey die off ∧ (scratchOwner s die off).who = t.name.ctx + 2 ∧
         (k ≠ .load → (scratchOwner s die off).ro = false))))

/-- Atomics (10 R205): pending, and performed after the thread's older stores as one read-modify-write for each addressed
lane in ascending lane order, each seeing the one before it, here in a state with no poisoned sector and no thread in `WAITV`:
each lane's register holds the old value, its location the new one, the flags of the operations are raised in FPSTAT, and every
other byte and register keeps what it held.
The new value of each atomic operation (10 R205; 06 R109, R118): on integers with no flag; those on floating-point values are
the format's sum, rounded to nearest even, and its minimum and maximum, with their flags. -/
def Obligations.Atomics : Prop :=
  (∀ (f : Fields) (s : State),
     let et := f.et.toNat
     let e := etBytes et
     let acc (u : State) (l : Option Nat) : Word × Except Nat Nat :=
       access u u.thr .atomic (baseOf u.thr f (l.getD 0)) ((if f.bk = 3 then 0 else u.thr.wide f.bk.toNat f.b.toNat (l.getD 0)) +
         (f.lit.extractLsb' 0 24).signExtend 64) e e
     let lanes (u : State) : List (Option Nat) := (addressed (f.fc == 2) f u.thr).filter (countsIn u.thr)
     let gives (op : Nat) (i : Instr) : Prop :=
       GivesRoom op i f s
         (fun u => ∀ l ∈ lanes u, (∃ key, (acc u l).2 = .ok key) ∧ watchHits u u.thr .atomic (acc u l).1 e = [])
         (fun u v => ∃ p, Pending f u v p ∧ ∀ w : State, w.poisonMem = [] → NoValueWait w →
           let x := w.drainStores u.thr.memOrd
           let y := w.doWork p
           let data (l : Option Nat) : Nat := (low et (u.thr.wide f.ck.toNat f.c.toNat (l.getD 0))).toNat
           let cmp (l : Option Nat) : Nat := (low et (u.thr.wide f.fc.toNat f.d.toNat (l.getD 0))).toNat
           ∃ M : Nat → List Host.Cell, M 0 = x.mem ∧ M (lanes u).length = y.mem ∧
             (∀ n, n < (lanes u).length → ∀ l key, (lanes u)[n]? = some l → (acc u l).2 = .ok key →
               let old := ofBytes ((List.range e).map (fun i => rdByte (M n) (key + i)))
               (∀ k, rdByte (M (n + 1)) k = if key ≤ k ∧ k < key + e then
                 (BitVec.ofNat 64 (atomNew f.atomOp et old (data l) (cmp l)).1).extractLsb' (8 * (k - key)) 8 else rdByte (M n) k) ∧
               (f.fc = 2 → mget 0 y.thr.files.v (u.thr.vKey f.d.toNat (l.getD 0)) = (extended et (BitVec.ofNat _ old)).setWidth 32) ∧
               (f.fc = 0 → mget 0 y.thr.files.s (u.thr.wins.s.wb + f.d.toNat) = extended et (BitVec.ofNat _ old))) ∧
             (f.fc = 2 → y.thr.files.s = x.thr.files.s ∧
               ∀ k, (∀ l, some l ∈ lanes u → k ≠ u.thr.vKey f.d.toNat l) → mget 0 y.thr.files.v k = mget 0 x.thr.files.v k) ∧
             (f.fc = 0 → y.thr.files.v = x.thr.files.v ∧
               ∀ k, k ≠ u.thr.wins.s.wb + f.d.toNat → mget 0 y.thr.files.s k = mget 0 x.thr.files.s k) ∧
             (∀ j, y.thr.fpstat.getLsbD j = true ↔ (x.thr.fpstat.getLsbD j = true ∨ (∃ n l key, n < (lanes u).length ∧
               (lanes u)[n]? = some l ∧ (acc u l).2 = .ok key ∧
               (atomNew f.atomOp et (ofBytes ((List.range e).map (fun i => rdByte (M n) (key + i)))) (data l) (cmp l)).2.getLsbD j =
                 true))) ∧
             y = { x with mem := y.mem, thr := { x.thr with
               fpstat := y.thr.fpstat, poison := y.thr.poison
               files := { x.thr.files with s := y.thr.files.s, v := y.thr.files.v } } })
     gives 0xC0 (.atom f) ∧ gives 0xC1 (.atomh f)) ∧
  (∀ (et old x cmp : Nat), et ∈ [2, 3, 6, 7] → old < 2 ^ (8 * etBytes et) → x < 2 ^ (8 * etBytes et) →
     let n := 8 * etBytes et
     let v (y : Nat) : Int := if etSigned et then (BitVec.ofNat n y).toInt else y
     let new (opn : Nat) : Nat := (atomNew opn et old x cmp).1
     new 0 = (old + x) % 2 ^ n ∧ v (new 1) = min (v old) (v x) ∧ v (new 2) = max (v old) (v x) ∧
     new 3 = old &&& x ∧ new 4 = old ||| x ∧ new 5 = old ^^^ x ∧ new 6 = x ∧ new 7 = (if old = cmp then x else old) ∧
     (∀ opn, opn ≤ 7 → new opn < 2 ^ n ∧ (atomNew opn et old x cmp).2 = 0) ∧
     (∀ fet fo fx fc, atomNew 8 fet fo fx fc = fAdd fet 0 fo fx ∧ atomNew 9 fet fo fx fc = fMinMax fet false fo fx ∧
       atomNew 10 fet fo fx fc = fMinMax fet true fo fx))

/-- `WAITLD` and `FENCE` (09 R179; 10 R206) go on at once where what they wait for is over, and wait where it is not.
`WAITV` (10 R209; 18 R364): its address is checked, and no watch point meets it; older loads complete; where the location then satisfies the condition the
thread goes on, else it waits at its instruction and nothing else changes. -/
def Obligations.FencesAndWaits : Prop :=
  (∀ (f : Fields) (s : State),
     let out (u : State) : List Pend := u.thr.pending.filter Pend.loads
     let rel : Bool := f.mo != 1
     let mine (u : State) (c : Cmd) : Prop := c.tid = u.thr.id ∧ c.bar = 0 ∧ c.node = none ∧ c.done = false ∧ c.failed = false
     GivesState 0xA6 (.waitld f) f s (fun u => (out u).length ≤ f.uimm) (fun u v => GoesOn f u v) ∧
     GivesState 0xA6 (.waitld f) f s (fun u => f.uimm < (out u).length) (fun u v => WaitsAt u v (.ld f.uimm)) ∧
     GivesState 0xC2 (.fence f) f s
       (fun u => out u = [] ∧ (rel = true → u.thr.queue = [] ∧ ∀ n c, (n, c) ∈ u.cmds → ¬ mine u c)) (fun u v => GoesOn f u v) ∧
     GivesState 0xC2 (.fence f) f s
       (fun u => (∃ p ∈ out u, p.ord < u.thr.memOrd) ∨ (rel = true ∧ ((∃ e ∈ u.thr.queue, e.ord < u.thr.memOrd) ∨
         ∃ n c, (n, c) ∈ u.cmds ∧ n < u.nextId ∧ mine u c)))
       (fun u v => WaitsAt u v (.fence rel (f.mo != 2) u.thr.memOrd u.nextId))) ∧
  (∀ (f : Fields) (s : State),
     let et := f.et.toNat
     let e := etBytes et
     let acc (u : State) : Word × Except Nat Nat := access u u.thr .watch (.ptr (u.thr.sReg f.a.toNat)) 0 e e
     let ok (u : State) (key : Nat) : Prop :=
       u.thr.name.hail = false ∧ (acc u).2 = .ok key
     let holds (u : State) (key : Nat) : Bool :=
       let b := u.finishAll
       holdsCond f.c.toNat
         (intOf et (BitVec.ofNat 64 (ofBytes ((List.range e).map (fun i => loadByte b b.thr b.thr.memOrd (key + i))))))
         (intOf et (u.thr.sReg f.b.toNat))
     (∀ key, GivesState 0xC5 (.waitv f) f s (fun u => ok u key ∧ holds u key = true) (fun u v => GoesOn f u.finishAll v)) ∧
     (∀ key, GivesState 0xC5 (.waitv f) f s (fun u => ok u key ∧ holds u key = false) (fun u v =>
       WaitsAt u.finishAll v (.val key e f.c.toNat (etSigned et) (u.thr.sReg f.b.toNat)))) ∧
     (∀ c, GivesTrap 0xC5 (.waitv f) f s (fun u => u.thr.name.hail = false ∧ (acc u).2 = .error c)
       (fun u => { cause := c, addr := (acc u).1 })))

/-- Team barriers (10 R207, R208). The arrival is a release. While other groups of the team are still to arrive, the group
waits past its instruction; with the last arrival the phase completes: its number advances, the count starts at zero, and the
team's groups that wait in the phase, and the arriving one, go on. The premises say of every other barrier that no phase of it
is complete already.
Span barriers (10 R207, R208): the same over the groups of every team of the span; in a launch whose span is 1, cause 0x5B. -/
def Obligations.PhaseBarriers : Prop :=
  (∀ (f : Fields) (s : State),
     let k := f.uimm
     let uid (u : State) : Nat := u.thr.name.uid
     let tm (u : State) : Team := u.release.team (uid u)
     let bar (u : State) (j : Nat) : PhaseBar := mget {} u.release.teamBars (teamBarKey (uid u) j)
     let span (u : State) (j : Nat) : PhaseBar :=
       mget {} u.release.spanBars (spanBarKey (tm u).launch ((tm u).index / (tm u).kernel.span) j)
     let quiet (u : State) : Prop := u.thr.name.hail = false ∧
       (∀ j, j < 16 → j ≠ k → (bar u j).count = 0 ∨ (bar u j).count < (tm u).live) ∧
       (∀ j, j < 4 → (span u j).count = 0 ∨
         (span u j).count < liveSpan u.release (tm u).launch ((tm u).index / (tm u).kernel.span))
     let moved (u v : State) (b : PhaseBar) (st : Status) (parked : List Thread) : Prop :=
       mget {} v.teamBars (teamBarKey (uid u) k) = b ∧
       (∀ j, j ≠ teamBarKey (uid u) k → mget {} v.teamBars j = mget {} u.release.teamBars j) ∧
       v.thr.status = st ∧ v.thr.pc = u.release.thr.pc + 8 ∧ v.parked = parked ∧
       v = { u.release with teamBars := v.teamBars, parked := v.parked
                            thr := { u.release.thr with pc := v.thr.pc, status := v.thr.status, sched := v.thr.sched } }
     GivesState 0xC3 (.bar f) f s (fun u => quiet u ∧ (bar u k).count + 1 < (tm u).live) (fun u v =>
       moved u v { bar u k with count := (bar u k).count + 1 } (.waiting (.bar k (bar u k).phase)) u.release.parked) ∧
     GivesState 0xC3 (.bar f) f s (fun u => quiet u ∧ (tm u).live ≤ (bar u k).count + 1) (fun u v =>
       moved u v { phase := (bar u k).phase + 1, count := 0 } .ready (u.release.parked.map (fun t =>
         if t.name.uid = uid u ∧ t.status = .waiting (.bar k (bar u k).phase) then
           { t with status := .ready, sched := { t.sched with waitSince := 0 } } else t)))) ∧
  (∀ (f : Fields) (s : State),
     let k := f.uimm
     let uid (u : State) : Nat := u.thr.name.uid
     let tm (u : State) : Team := u.release.team (uid u)
     let no (u : State) : Nat := (tm u).index / (tm u).kernel.span
     let live (u : State) : Nat := liveSpan u.release (tm u).launch (no u)
     let key (u : State) (j : Nat) : Nat := spanBarKey (tm u).launch (no u) j
     let bar (u : State) (j : Nat) : PhaseBar := mget {} u.release.spanBars (key u j)
     let quiet (u : State) : Prop := u.thr.name.hail = false ∧ 1 < (u.team (uid u)).kernel.span ∧
       (∀ j, j < 16 → (mget {} u.release.teamBars (teamBarKey (uid u) j)).count = 0 ∨
         (mget {} u.release.teamBars (teamBarKey (uid u) j)).count < (tm u).live) ∧
       (∀ j, j < 4 → j ≠ k → (bar u j).count = 0 ∨ (bar u j).count < live u)
     let moved (u v : State) (b : PhaseBar) (st : Status) (parked : List Thread) : Prop :=
       mget {} v.spanBars (key u k) = b ∧
       (∀ j, j ≠ key u k → mget {} v.spanBars j = mget {} u.release.spanBars j) ∧
       v.thr.status = st ∧ v.thr.pc = u.release.thr.pc + 8 ∧ v.parked = parked ∧
       v = { u.release with spanBars := v.spanBars, parked := v.parked
                            thr := { u.release.thr with pc := v.thr.pc, status := v.thr.status, sched := v.thr.sched } }
     let mate (u : State) (t : Thread) : Prop := (u.release.team t.name.uid).launch = (tm u).launch ∧
       (u.release.team t.name.uid).index / (u.release.team t.name.uid).kernel.span = no u
     GivesState 0xC4 (.sbar f) f s (fun u => quiet u ∧ (bar u k).count + 1 < live u) (fun u v =>
       moved u v { bar u k with count := (bar u k).count + 1 } (.waiting (.sbar k (bar u k).phase)) u.release.parked) ∧
     GivesState 0xC4 (.sbar f) f s (fun u => quiet u ∧ live u ≤ (bar u k).count + 1) (fun u v =>
       ∃ parked : List Thread, moved u v { phase := (bar u k).phase + 1, count := 0 } .ready parked ∧
         parked.length = u.release.parked.length ∧
         ∀ (n : Nat) (t : Thread), u.release.parked[n]? = some t →
           ((mate u t ∧ t.status = .waiting (.sbar k (bar u k).phase)) →
             parked[n]? = some { t with status := .ready, sched := { t.sched with waitSince := 0 } }) ∧
           (¬ (mate u t ∧ t.status = .waiting (.sbar k (bar u k).phase)) → parked[n]? = some t)) ∧
     GivesTrap 0xC4 (.sbar f) f s (fun u => u.thr.name.hail = false ∧ (u.team (uid u)).kernel.span ≤ 1) (fun _ => { cause := 0x5B }))

/-- `TXALLOC` (10 R211): the lowest-numbered free barrier of the core's pool, with the next generation, or 0 and a clear
condition where none is free.
Expecting, arriving, waiting and freeing (10 R210-R212; 14 R275, R278): with a valid reference, one step on the barrier; an
arrival that takes PEND to zero advances PHASE, and is a release. The barrier's waiters are groups of the team that owns it: those
that the new PHASE or a PEND of zero lets go are past their `TXWAIT`, where the team stands on its core; a swapped team is woken,
and one that is being swapped out will be. A count of 0 or above 16,777,215 is cause 0x03, an invalid reference 0x59, a count that
PEND cannot take 0x5A; in each nothing changes but for the trap. -/
def Obligations.TransactionBarriers : Prop :=
  (∀ (f : Fields) (s : State),
     let result (u v : State) (w : Word) (b : Bool) : Prop :=
       ∃ x y, UniResult f u.thr u.thr x w ∧ CondResult f.c.toNat x y b ∧
         v = { u with cores := v.cores, thr := { y with pc := u.thr.pc + 8 } }
     (∀ i : Nat, GivesState 0xC6 (.txalloc f) f s
       (fun u => i < 256 ∧ (u.bar u.thr.place.core i).refs = 0 ∧ ∀ j, j < i → (u.bar u.thr.place.core j).refs ≠ 0)
       (fun u v =>
         let core := u.thr.place.core
         let old := (u.bar core i).gen
         let gen := if (old + 1) % 2 ^ 32 = 0 then 1 else (old + 1) % 2 ^ 32
         result u v (BitVec.ofNat 64 (gen * 2 ^ 32 + core * 2 ^ 16 + i)) true ∧
         BarrierChange u v core i { gen := gen, owner := u.thr.name.uid, pend := 0, phase := 0, refs := 1, held := true })) ∧
     GivesState 0xC6 (.txalloc f) f s (fun u => ∀ j, j < 256 → (u.bar u.thr.place.core j).refs ≠ 0)
       (fun u v => result u v 0 false ∧ v.cores = u.cores)) ∧
  (∀ (f : Fields) (s : State),
     let n (u : State) : Nat := if f.bk = 3 then f.uimm else (u.thr.sReg f.b.toNat).toNat
     let core (u : State) : Nat := u.thr.place.core
     let r (u : State) : Word := u.thr.sReg f.a.toNat
     let idx (u : State) : Nat := ((r u).extractLsb' 0 8).toNat
     let bar (u : State) : TxBar := u.bar (core u) (idx u)
     let counted (u : State) : Prop := 1 ≤ n u ∧ n u ≤ 16777215
     let valid (u : State) : Prop :=
       (r u).extractLsb' 8 8 = 0 ∧ (r u).extractLsb' 24 8 = 0 ∧ ((r u).extractLsb' 16 8).toNat = core u ∧
       ((r u).extractLsb' 32 32).toNat = (bar u).gen ∧ (bar u).refs ≠ 0 ∧ (bar u).owner = u.thr.name.uid ∧ (bar u).held = true
     let ok (u : State) : Prop := u.thr.status = .ready ∧ valid u
     let goes (u : State) (b : TxBar) (t : Thread) : Prop := t.name.uid = u.thr.name.uid ∧ t.place.core = core u ∧
       ∃ p, t.status = .waiting (.tx (idx u) p) ∧ (p ≠ b.phase ∨ b.pend = 0)
     let here (u : State) : Prop := (u.team u.thr.name.uid).state = .resident
     let acts (u w : State) (b : TxBar) : Prop :=
       BarrierChange u w (core u) (idx u) b ∧ w = { u with cores := w.cores, parked := w.parked, teams := w.teams } ∧
       w.parked.length = u.parked.length ∧
       (∀ (j : Nat) (t : Thread), u.parked[j]? = some t →
         ((here u ∧ goes u b t) →
           w.parked[j]? = some { t with status := .ready, pc := t.pc + 8, sched := { t.sched with waitSince := 0 } }) ∧
         (¬ (here u ∧ goes u b t) → w.parked[j]? = some t)) ∧
       (∀ k, (k = u.thr.name.uid ∧ ∃ t ∈ u.parked, goes u b t) → w.team k = (match (u.team k).state with
         | .swapped => { u.team k with state := .woken }
         | .swapping => { u.team k with wakeDue := true }
         | _ => u.team k)) ∧
       (∀ k, ¬ (k = u.thr.name.uid ∧ ∃ t ∈ u.parked, goes u b t) → w.team k = u.team k)
     let past (u v : State) (b : TxBar) : Prop := ∃ w, acts u w b ∧ v = { w with thr := u.thr.advance f.parcels }
     let arrives (u v : State) (b : TxBar) : Prop :=
       ∃ w, acts u w b ∧ v = { w.release with thr := w.release.thr.advance f.parcels }
     GivesState 0xC7 (.txexpect f) f s (fun u => counted u ∧ ok u ∧ (bar u).pend + n u ≤ 16777215)
       (fun u v => past u v { bar u with pend := (bar u).pend + n u }) ∧
     GivesState 0xC8 (.txarrive f) f s (fun u => counted u ∧ ok u ∧ n u < (bar u).pend)
       (fun u v => arrives u v { bar u with pend := (bar u).pend - n u }) ∧
     GivesState 0xC8 (.txarrive f) f s (fun u => counted u ∧ ok u ∧ n u = (bar u).pend)
       (fun u v => arrives u v { bar u with pend := 0, phase := ((bar u).phase + 1) % 2 ^ 32 }) ∧
     GivesState 0xC9 (.txwait f) f s (fun u => u.thr.name.hail = false ∧ valid u ∧ (bar u).pend = 0) (fun u v => GoesOn f u v) ∧
     GivesState 0xC9 (.txwait f) f s (fun u => u.thr.name.hail = false ∧ valid u ∧ (bar u).pend ≠ 0)
       (fun u v => WaitsAt u v (.tx (idx u) (bar u).phase)) ∧
     GivesState 0xCA (.txfree f) f s ok (fun u v => past u v { bar u with refs := (bar u).refs - 1, held := false }) ∧
     GivesTrap 0xC7 (.txexpect f) f s (fun u => ¬ counted u) (fun _ => { cause := 0x03 }) ∧
     GivesTrap 0xC8 (.txarrive f) f s (fun u => ¬ counted u) (fun _ => { cause := 0x03 }) ∧
     GivesTrap 0xC7 (.txexpect f) f s (fun u => counted u ∧ ¬ valid u) (fun _ => { cause := 0x59 }) ∧
     GivesTrap 0xC8 (.txarrive f) f s (fun u => counted u ∧ ¬ valid u) (fun _ => { cause := 0x59 }) ∧
     GivesTrap 0xC9 (.txwait f) f s (fun u => u.thr.name.hail = false ∧ ¬ valid u) (fun _ => { cause := 0x59 }) ∧
     GivesTrap 0xCA (.txfree f) f s (fun u => ¬ valid u) (fun _ => { cause := 0x59 }) ∧
     GivesTrap 0xC7 (.txexpect f) f s (fun u => counted u ∧ valid u ∧ 16777215 < (bar u).pend + n u) (fun _ => { cause := 0x5A }) ∧
     GivesTrap 0xC8 (.txarrive f) f s (fun u => counted u ∧ valid u ∧ (bar u).pend < n u) (fun _ => { cause := 0x5A }))

/-- `PUBL` (10 R213, R214): of a bound shadow pair with write permission, once the thread's earlier loads, stores and atomics, and
its copies to that entry, are performed, BANK of the table entry flips, in one step; before that the thread waits; otherwise cause
0x37. That it waits for plain loads too is DEDUCED from 11 R230 (log 54). -/
def Obligations.Publishing : Prop :=
  ∀ (f : Fields) (s : State),
    let word (u : State) (c e w : Nat) : Word := mget 0 (u.ctx c).handles (4 * e + w)
    let pair (u : State) (e : Nat) : Prop :=
      let tm := u.team u.thr.name.uid
      tm.binds[f.a.toNat]? = some e ∧ (word u tm.ctx e 3).getLsbD 0 = true ∧
      (word u u.thr.name.ctx e 3).getLsbD 2 = true ∧ (word u u.thr.name.ctx e 3).getLsbD 3 = true
    let copies (u : State) (e : Nat) (c : Cmd) : Prop :=
      c.tid = u.thr.id ∧ c.sectorsDone = false ∧ c.failed = false ∧ ∃ d x w, c.work = .copy d x w (some e)
    let loads (u : State) : List Pend := u.thr.pending.filter Pend.loads
    (∀ e, GivesState 0xCB (.publ f) f s
      (fun u => pair u e ∧ u.thr.queue = [] ∧ loads u = [] ∧ ∀ n c, (n, c) ∈ u.cmds → ¬ copies u e c)
      (fun u v =>
        let c := u.thr.name.ctx
        (∀ k, mget 0 (v.ctx c).handles k = if k = 4 * e + 3 then word u c e 3 ^^^ 16 else mget 0 (u.ctx c).handles k) ∧
        v.ctx c = { u.ctx c with handles := (v.ctx c).handles } ∧ (∀ n, n ≠ c → v.ctx n = u.ctx n) ∧
        v = { u with ctxs := v.ctxs, thr := u.thr.advance f.parcels })) ∧
    (∀ e, GivesState 0xCB (.publ f) f s
      (fun u => pair u e ∧ ((∃ x ∈ u.thr.queue, x.ord < u.thr.memOrd) ∨ (∃ p ∈ loads u, p.ord < u.thr.memOrd) ∨
        ∃ n c, (n, c) ∈ u.cmds ∧ n < u.nextId ∧ copies u e c))
      (fun u v => WaitsAt u v (.publ e u.thr.memOrd u.nextId))) ∧
    GivesTrap 0xCB (.publ f) f s (fun u => ∀ e, ¬ pair u e) (fun _ => { cause := 0x37 })

/-- Copies (09 R181, R184, R185, R187, R394): the checks in their order, and the issue of the command with the layout from the
eight registers or from the sealed record, in the context's form; a copy into a shadow bank names its table entry, and a fabric engine
serves a copy that leaves the die (01 R12).
A sealed layout record (09 R184): 72 bytes at a multiple of 8 with VERSION 1, a zero Reserved field and the CRC-32C of the layout
give its eight words; any of the three wrong is cause 0x51.
The base of a `BSTORE` or hail read: a register and an offset, or a handle's visible bank and the offset (09 R177, R188, R190),
with the checks of steps 4 and 10 of R394.
`BSTORE` (09 R188, R394; 17 R345, R346): the checks in order, and a command whose bytes are those of each register in each lane
of S that is no helper lane, at e × (r × W + L), captured now, with their poison; a poisoned uniform operand is cause 0x60. -/
def Obligations.CopyAndBlockStoreIssue : Prop :=
  (∀ (f : Fields) (s : State),
     let A (u : State) : Word := u.thr.sReg f.a.toNat
     let issued (u v : State) (w : List Word) (dst : Word) (e : Option Nat) : Prop :=
       CommandIssued f u v (u.thr.sReg f.c.toNat) f.rs.toNat (.copy dst (A u) w e)
         (offDie (u.thr.place.core / 40) dst || offDie (u.thr.place.core / 40) (A u))
     GivesChecked 0xA9 (.bcopyR f) f s (bcopyRChecks f) (fun u v => issued u v (layoutWords f u) (u.thr.sReg f.d.toNat) none) ∧
     GivesChecked 0xA8 (.bcopy f) f s (bcopyChecks f) (fun u v => issued u v (layoutRecord f u) (u.thr.sReg f.d.toNat) none) ∧
     GivesChecked 0xAA (.bcopyS f) f s (bcopySChecks f) (fun u v => issued u v (shadowLayout f u) (shadowPointer f u) (shadowBind f u))) ∧
  (∀ (s : State) (p : Word),
     let off := (p.extractLsb' 0 55).toNat
     let tm := s.team s.thr.name.uid
     let byte (k : Nat) : Byte := loadByte s s.thr s.thr.memOrd (teamKey tm (off + k))
     let field (k n : Nat) : Nat := ofBytes ((List.range n).map (fun j => byte (k + j)))
     p.extractLsb' 55 5 = 0 → off % 8 = 0 → off + 72 ≤ tm.kernel.shared → tm.kernel.shared ≤ 0x100000 →
     (readRecord s p = if field 0 2 = 1 ∧ field 2 2 = 0 ∧ field 4 4 = crc32c ((List.range 64).map (fun j => byte (8 + j)))
       then .ok ((List.range 8).map (fun i => BitVec.ofNat 64 (field (8 + 8 * i) 8))) else .error { cause := 0x51 })) ∧
  (∀ (s : State) (f : Fields) (o : Word) (n perm : Nat),
     let t := s.thr
     let r := cmdBase s t f o n perm
     (f.ak ≠ 3 → r = (t.sReg f.a.toNat + o, none, none)) ∧
     (f.ak = 3 → ((s.team t.name.uid).binds[f.a.toNat]? = none → r.2.1 = some 0x37) ∧
       ∀ e, (s.team t.name.uid).binds[f.a.toNat]? = some e →
         ((handleWord s (s.team t.name.uid).ctx e 3).getLsbD 0 = false → r.2.1 = some 0x37) ∧
         ((handleWord s (s.team t.name.uid).ctx e 3).getLsbD 0 = true →
           (r.2.1 = none ↔ (handleWord s t.name.ctx e 3).getLsbD perm = true) ∧ (r.2.1 ≠ none → r.2.1 = some 0x37) ∧
           (r.2.2 = none ↔ 0 ≤ o.toInt ∧ o.toInt + n ≤ ((handleWord s t.name.ctx e 2).extractLsb' 0 40).toNat) ∧
           (r.2.2 ≠ none → r.2.2 = some 0x34) ∧
           (let word (k : Nat) : Word := mget 0 (s.ctx t.name.ctx).handles (4 * e + k)
            let bank := if (word 3).getLsbD 3 = true ∧ (word 3).getLsbD 4 = true then 1 else 0
            r.1.extractLsb' 0 55 = (word bank).extractLsb' 0 55 + o.extractLsb' 0 55 ∧
            r.1.extractLsb' 60 4 = (word 0).extractLsb' 60 4 ∧ r.1.extractLsb' 55 5 = 0)))) ∧
  (∀ (f : Fields) (s : State),
     let e := etBytes f.et.toNat
     GivesChecked 0xAB (.bstore f) f s (bstoreChecks f)
       (fun u v => ∃ (bytes : List Host.Cell) (bad : List Nat),
         CommandIssued f u v (u.thr.sReg f.c.toNat) f.rs.toNat (.bstore (bstoreBase f u).1 bytes bad) false ∧
         let stored (k r l i : Nat) : Prop := r < f.d.toNat ∧ l < 64 ∧ i < e ∧ (u.thr.sel f).getLsbD l = true ∧
           u.thr.help.getLsbD l = false ∧ k = e * (r * u.thr.width + l) + i
         (∀ (k : Nat) (b : Byte), (k, b) ∈ bytes ↔ ∃ r l i, stored k r l i ∧
           b = (u.thr.vReg (f.b.toNat + r) l).extractLsb' (8 * i) 8) ∧
         ∀ k, k ∈ bad ↔ ∃ r l i, stored k r l i ∧ u.thr.vKey (f.b.toNat + r) l ∈ u.thr.poison.v))

/-- Hail reads (09 R190, R195, R394): the checks in order, and a command whose bursts are 256 bytes of the read each, the last one
shorter, for each segment in ascending lane; `HRET` ends a hail thread (R194): its stores are performed, its flags reach the
issuing group, the read has one thread fewer, the slot is empty, and waits that this ends are over.
What a hail thread may not execute (09 R193): cause 0x55, and nothing else changes; `HRET` outside a hail thread is 0x56 (R194),
and a hail thread's 513th instruction 0x54. -/
def Obligations.HailReads : Prop :=
  (∀ (f : Fields) (s : State),
     let bar (u : State) : Word := u.thr.sReg f.d.toNat
     let arg (u : State) : Word := u.thr.sReg f.c.toNat
     let bursts (p : Word) (n seg : Nat) (bs : List (Word × Nat × Nat × Nat)) : Prop :=
       bs.length = (n + 255) / 256 ∧ ∀ k, k < (n + 255) / 256 →
         bs[k]? = some (p + BitVec.ofNat 64 (256 * k), min 256 (n - 256 * k), k, seg)
     GivesChecked 0xAC (.hread f) f s (hreadChecks f)
       (fun u v => ∃ bs, bursts (hreadBase f u).1 (hreadLen f u) 0 bs ∧
         CommandIssued f u v (bar u) f.rs.toNat (.hread bs (arg u) (hailTarget f u)) false) ∧
     GivesChecked 0xAD (.hreadV f) f s (hreadVChecks f)
       (fun u v => ∃ bs : Nat → List (Word × Nat × Nat × Nat),
         (∀ l ∈ hreadVLanes f u, bursts (hreadVBase f u l).1 (hreadVLen f u) l (bs l)) ∧
         CommandIssued f u v (bar u) f.rs.toNat (.hread ((hreadVLanes f u).flatMap bs) (arg u) (hailTarget f u)) false) ∧
     GivesState 0xAE (.hret f) f s (fun u => u.thr.name.hail = true) (fun u v =>
       let b := u.finishAll
       let d := (b.thr.queue.foldl State.performEnt b).reread none
       ∃ w : State, v = w.endWaits ∧ w.thr = {} ∧
         w.parked = d.parked.map (fun t => if t.id = b.thr.name.owner then { t with fpstat := t.fpstat ||| b.thr.fpstat } else t) ∧
         (∀ n, w.hasCmd n = b.hasCmd n ∧ (n ≠ b.thr.name.cmd → w.cmd n = b.cmd n)) ∧
         (b.hasCmd b.thr.name.cmd = true →
           w.cmd b.thr.name.cmd = { b.cmd b.thr.name.cmd with running := (b.cmd b.thr.name.cmd).running - 1 }) ∧
         w = { d with thr := {}, parked := w.parked, cmds := w.cmds })) ∧
  (∀ (f : Fields) (s : State),
     let refuses (op : Nat) (i : Instr) : Prop := GivesTrap op i f s (fun u => u.thr.name.hail = true) (fun _ => { cause := 0x55 })
     refuses 0xC3 (.bar f) ∧ refuses 0xC4 (.sbar f) ∧ refuses 0xC5 (.waitv f) ∧ refuses 0xC9 (.txwait f) ∧
     refuses 0xAC (.hread f) ∧ refuses 0xAD (.hreadV f) ∧ refuses 0xA8 (.bcopy f) ∧ refuses 0xA9 (.bcopyR f) ∧
     refuses 0xAA (.bcopyS f) ∧ refuses 0xAB (.bstore f) ∧ refuses 0xD4 (.coll f) ∧ refuses 0xD0 (.gnode f) ∧
     refuses 0xD1 (.gedge f) ∧ refuses 0xD2 (.garm f) ∧ refuses 0xE5 (.mappg f) ∧ refuses 0xE6 (.tlbinv f) ∧
     GivesTrap 0xAE (.hret f) f s (fun u => u.thr.name.hail = false) (fun _ => { cause := 0x56 }) ∧
     (∀ (op : Nat) (i : Instr) (g : Fields), longOf i = some (op, g) →
       let w := (if op ∈ [0x82, 0x84, 0xA0, 0xA2, 0xA5, 0xC0, 0xC1] then s.roomForLoad else s).waited op g
       w.thr.name.hail = true → 512 < w.thr.hailCount + 1 →
       exec i s = .next (w.completeAll.takeTrap { cause := 0x54 } g.parcels)))

/-- `GNODE` (10 R216): with a descriptor that passes its checks and a free slot, the lowest-numbered free slot of the die's unit
holds the node, with the next generation; its reference and a set condition are the results, and a barrier that an event names
gains a pending arrival and a hold. Without a free slot the results are 0 and a clear condition; a descriptor that fails, or
an event's barrier reference that is not valid, is cause 0x5C. In strict-partition mode a context takes its own slots alone (16
R291).
`GEDGE` and `GARM` (10 R215, R217, R218): an edge is one more successor and one more predecessor; after a finished predecessor
nothing changes; a full list refuses; arming a node with predecessors marks it, and one without starts it: a copy becomes a
command of a fabric engine, an event with no barrier and no successor is freed with the next generation, a launch is entered on
its die with priority 2. A node whose thread's earlier accesses are not performed yet waits for them as a command (09 R181). That a launch
which may not run never finishes (log 24), and that a predecessor's reference that is free or of another context counts as finished (log
56), are DEDUCED. -/
def Obligations.GraphUnit : Prop :=
  (∀ (f : Fields) (s : State) (bs lb : List Byte),
     let g (off n : Nat) : Nat := ofBytes ((bs.drop off).take n)
     let kind := g 0 1
     let die (u : State) : Nat := u.finishAll.thr.place.core / 40
     let key (u : State) (n : Nat) : Nat := die u * 4096 + n
     let ref : Word := if kind = 0 then BitVec.ofNat 64 (g 0x18 8) else 0
     let i := (ref.extractLsb' 0 8).toNat
     let read (u : State) : Prop := u.thr.name.hail = false ∧ slotRead u.finishAll (u.finishAll.thr.sReg f.a.toNat) 8 16 = .ok bs ∧
       slotRead u.finishAll (BitVec.ofNat 64 (g 0x28 8)) 2 (if nodeShape bs = true ∧ kind = 2 then g 0x23 1 else 0) = .ok lb
     let sound (u : State) : Prop := nodeShape bs = true ∧ (kind = 1 → nodeCopyOk u.finishAll u.finishAll.thr false bs = true) ∧
       (kind = 2 → nodeLaunchOk u.finishAll u.finishAll.thr.name.ctx (die u) bs (indexList lb) = true)
     let free (u : State) (n : Nat) : Prop := (u.finishAll.node (key u n)).kind = none ∧
       (u.finishAll.hub.mode = true → Config.nodeOwner (die u) n = u.finishAll.thr.name.ctx)
     let result (u v : State) (w : Word) (b : Bool) (t : Thread) : Prop :=
       ∃ x y, UniResult f u.finishAll.thr u.finishAll.thr x w ∧ CondResult f.c.toNat x y b ∧
         t = { y with pc := u.finishAll.thr.pc + 8, seq := v.thr.seq, memOrd := v.thr.memOrd }
     (∀ n : Nat, GivesState 0xD0 (.gnode f) f s
       (fun u => read u ∧ sound u ∧
         (∀ c ∈ barrierChecks u.finishAll ref 0, c.1) ∧ n < 4096 ∧ free u n ∧ ∀ m, m < n → ¬ free u m)
       (fun u v =>
         let b := u.finishAll
         let t := b.thr
         let old := (b.node (key u n)).gen
         let gen := if (old + 1) % 2 ^ 32 = 0 then 1 else (old + 1) % 2 ^ 32
         v.node (key u n) = { gen := gen, kind := some kind, ctx := t.name.ctx, desc := bs, binds := indexList lb
                              cmd := { ctx := t.name.ctx, uid := t.name.uid, tid := t.id, core := t.place.core
                                       launch := t.name.launch, team := t.name.team, group := t.name.group, pc := t.pc, seq := t.seq
                                       bar := ref, scope := g 1 1, work := nodeWork bs, ord := t.memOrd } } ∧
         (∀ k, k ≠ key u n → v.node k = b.node k) ∧
         (ref = 0 → v.cores = b.cores) ∧
         (ref ≠ 0 → BarrierChange b v t.place.core i
           { b.bar t.place.core i with pend := (b.bar t.place.core i).pend + 1, refs := (b.bar t.place.core i).refs + 1 }) ∧
         v.thr.seq = t.seq + 1 ∧ v.thr.memOrd = t.memOrd + 1 ∧
         result u v (BitVec.ofNat 64 (gen * 2 ^ 32 + key u n / 4096 * 4096 + key u n % 4096)) true v.thr ∧
         v = { b with nodes := v.nodes, cores := v.cores, thr := v.thr })) ∧
     GivesState 0xD0 (.gnode f) f s
       (fun u => read u ∧ sound u ∧
         (∀ c ∈ barrierChecks u.finishAll ref 0, c.1) ∧ ∀ m, m < 4096 → ¬ free u m)
       (fun u v => v.thr.seq = u.finishAll.thr.seq ∧ v.thr.memOrd = u.finishAll.thr.memOrd ∧ result u v 0 false v.thr ∧
         v = { u.finishAll with thr := v.thr }) ∧
     GivesTrap 0xD0 (.gnode f) f s
       (fun u => read u ∧ (¬ sound u ∨ ∃ c tr, (barrierChecks u.finishAll ref 0)[0]? = some (c, tr) ∧ ¬ c))
       (fun _ => { cause := 0x5C })) ∧
  (∀ (f : Fields) (s : State),
     let ra (u : State) : Word := u.thr.sReg f.a.toNat
     let rb (u : State) : Word := u.thr.sReg f.b.toNat
     let die (r : Word) : Nat := (r.extractLsb' 12 3).toNat
     let key (r : Word) : Nat := die r * 4096 + (r.extractLsb' 0 12).toNat
     let sound (r : Word) : Prop := r.extractLsb' 15 17 = 0 ∧ die r ≤ 3
     let live (u : State) (r : Word) : Prop :=
       (u.node (key r)).kind ≠ none ∧ (u.node (key r)).gen = (r.extractLsb' 32 32).toNat ∧ (u.node (key r)).ctx = u.thr.name.ctx
     let user (u : State) : Prop := u.thr.name.hail = false
     let good (u : State) : Prop := user u ∧ sound (ra u) ∧ sound (rb u) ∧ live u (rb u) ∧ die (ra u) = die (rb u) ∧
       (u.node (key (rb u))).armed = false ∧ ra u ≠ rb u
     let cond (u v : State) (b : Bool) : Prop :=
       ∃ y, CondResult f.c.toNat u.thr y b ∧ v = { u with nodes := v.nodes, thr := { y with pc := u.thr.pc + 8 } }
     let armable (u : State) : Prop := user u ∧ sound (ra u) ∧ live u (ra u) ∧ (u.node (key (ra u))).armed = false
     GivesState 0xD1 (.gedge f) f s (fun u => good u ∧ ¬ live u (ra u)) (fun u v => cond u v true ∧ v.nodes = u.nodes) ∧
     GivesState 0xD1 (.gedge f) f s (fun u => good u ∧ live u (ra u) ∧ 16 ≤ (u.node (key (ra u))).succ.length)
       (fun u v => cond u v false ∧ v.nodes = u.nodes) ∧
     GivesState 0xD1 (.gedge f) f s (fun u => good u ∧ live u (ra u) ∧ (u.node (key (ra u))).succ.length < 16) (fun u v =>
       cond u v true ∧
       (v.node (key (ra u))) = { u.node (key (ra u)) with succ := (u.node (key (ra u))).succ ++ [key (rb u)] } ∧
       (v.node (key (rb u))) = { u.node (key (rb u)) with cnt := (u.node (key (rb u))).cnt + 1 } ∧
       ∀ k, k ≠ key (ra u) → k ≠ key (rb u) → v.node k = u.node k) ∧
     GivesTrap 0xD1 (.gedge f) f s (fun u => user u ∧ ¬ good u) (fun _ => { cause := 0x5C }) ∧
     GivesTrap 0xD2 (.garm f) f s (fun u => user u ∧ ¬ armable u) (fun _ => { cause := 0x5C }) ∧
     GivesState 0xD2 (.garm f) f s (fun u => armable u ∧ (u.node (key (ra u))).cnt ≠ 0) (fun u v =>
       v.node (key (ra u)) = { u.node (key (ra u)) with armed := true } ∧ (∀ k, k ≠ key (ra u) → v.node k = u.node k) ∧
       v = { u with nodes := v.nodes, thr := u.thr.advance f.parcels }) ∧
     GivesState 0xD2 (.garm f) f s (fun u => armable u ∧ (u.node (key (ra u))).cnt = 0 ∧ (u.node (key (ra u))).kind = some 1)
       (fun u v =>
         let x := u.node (key (ra u))
         v.node (key (ra u)) = { x with armed := true, started := true } ∧ (∀ k, k ≠ key (ra u) → v.node k = u.node k) ∧
         v.cmd u.nextId = { x.cmd with id := u.nextId, node := some (key (ra u)), fabric := true } ∧
         v.hasCmd u.nextId = true ∧ (∀ n, n ≠ u.nextId → v.hasCmd n = u.hasCmd n ∧ v.cmd n = u.cmd n) ∧
         v = { u with nodes := v.nodes, cmds := v.cmds, nextId := u.nextId + 1, thr := u.thr.advance f.parcels }) ∧
     GivesState 0xD2 (.garm f) f s
       (fun u => armable u ∧ (u.node (key (ra u))).cnt = 0 ∧ (u.node (key (ra u))).kind = some 0 ∧
         earlierDone u (u.node (key (ra u))).cmd.tid (u.node (key (ra u))).cmd.ord = true ∧
         (u.node (key (ra u))).cmd.bar = 0 ∧ (u.node (key (ra u))).succ = [] ∧ ∀ t ∈ u.threads, ∀ w, t.status ≠ .waiting w)
       (fun u v =>
         let g := (u.node (key (ra u))).gen
         v.node (key (ra u)) = { gen := if (g + 1) % 2 ^ 32 = 0 then 1 else (g + 1) % 2 ^ 32 } ∧
         (∀ k, k ≠ key (ra u) → v.node k = u.node k) ∧
         v = { u with nodes := v.nodes, thr := u.thr.advance f.parcels }) ∧
     (∀ (im : Image) (k : Kernel),
       let x (u : State) : Node := u.node (key (ra u))
       let at_ (u : State) (off n : Nat) : Nat := ofBytes (((x u).desc.drop off).take n)
       let runs (u : State) : Prop := at_ u 4 4 % max 1 k.span = 0 ∧ spanFits u (x u).ctx (2 ^ (key (ra u) / 4096)) k = true ∧
         needsMet u (x u).ctx im.minor im.needs = true
       let l (u : State) : Launch :=
         { ctx := (x u).ctx, image := im.number, kernel := k, entryPc := BitVec.ofNat 55 (at_ u 8 8), teams := at_ u 4 4, prio := 2
           dies := 2 ^ (key (ra u) / 4096), fpmode := BitVec.ofNat 7 (at_ u 0x22 1), argAddr := at_ u 0x10 8, binds := (x u).binds
           node := some (key (ra u)) }
       let goes (u : State) : Prop := armable u ∧ (x u).cnt = 0 ∧ (x u).kind = some 2 ∧
         earlierDone u (x u).cmd.tid (x u).cmd.ord = true ∧ kernelAt (u.ctx (x u).ctx) (at_ u 8 8) = some (im, k)
       let started (u w : State) (failed : Bool) : Prop :=
         w.node (key (ra u)) = { x u with armed := true, started := true, failed := (x u).failed || failed } ∧
         (∀ j, j ≠ key (ra u) → w.node j = u.node j) ∧ w = { u with nodes := w.nodes }
       GivesState 0xD2 (.garm f) f s (fun u => goes u ∧ runs u) (fun u v =>
         ∃ w, started u w false ∧ v = { (w.addLaunch (l u)).2 with thr := u.thr.advance f.parcels }) ∧
       GivesState 0xD2 (.garm f) f s (fun u => goes u ∧ ¬ runs u) (fun u v =>
         ∃ w, started u w true ∧ v = { w with thr := u.thr.advance f.parcels })) ∧
     GivesState 0xD2 (.garm f) f s
       (fun u => armable u ∧ (u.node (key (ra u))).cnt = 0 ∧ (u.node (key (ra u))).kind ≠ some 1 ∧
         earlierDone u (u.node (key (ra u))).cmd.tid (u.node (key (ra u))).cmd.ord = false)
       (fun u v =>
         let x := u.node (key (ra u))
         v.node (key (ra u)) = { x with armed := true, started := true } ∧ (∀ k, k ≠ key (ra u) → v.node k = u.node k) ∧
         v.cmd u.nextId = { x.cmd with id := u.nextId, node := some (key (ra u)), fabric := false } ∧
         v.hasCmd u.nextId = true ∧ (∀ n, n ≠ u.nextId → v.hasCmd n = u.hasCmd n ∧ v.cmd n = u.cmd n) ∧
         v = { u with nodes := v.nodes, cmds := v.cmds, nextId := u.nextId + 1, thr := u.thr.advance f.parcels }))

/-- `COLL` and `COLLW` (10 R219, R221): a descriptor that passes its checks starts a collective with a ticket the context does not
use, which the team then holds; with 256 tickets in use the results are 0 and a clear condition. `COLLW` gives the status, and
frees the ticket once the collective is done; a ticket that the team does not hold is cause 0x5E, a bad descriptor 0x5D. -/
def Obligations.Collectives : Prop :=
  ∀ (f : Fields) (s : State) (d : List Byte),
    let ctx (u : State) : Nat := u.finishAll.thr.name.ctx
    let bar (u : State) : Word := u.finishAll.thr.sReg f.b.toNat
    let i (u : State) : Nat := ((bar u).extractLsb' 0 8).toNat
    let read (u : State) : Prop := u.thr.name.hail = false ∧ slotRead u.finishAll (u.finishAll.thr.sReg f.a.toNat) 8 8 = .ok d
    let sound (u : State) : Prop := collOk u.finishAll (ctx u) d = true ∧
      (∀ x ∈ collSpans u.finishAll (ctx u) d, x.collective = none) ∧ ∀ c ∈ barrierChecks u.finishAll (bar u) 0, c.1
    let used (u : State) : List Nat := ticketsUsed u.finishAll (ctx u)
    let result (u v : State) (w : Word) (b : Bool) : Prop :=
      ∃ x y, UniResult f u.finishAll.thr u.finishAll.thr x w ∧ CondResult f.c.toNat x y b ∧
        v.thr = { y with pc := u.finishAll.thr.pc + 8, seq := v.thr.seq, memOrd := v.thr.memOrd }
    let ticket (u : State) : Nat := (u.thr.sReg f.a.toNat).toNat
    let holds (u : State) : Prop := ticket u ∈ (u.team u.thr.name.uid).tickets ∧ ticket u ≠ 0
    let mine (u : State) (p : Nat × Coll) : Prop := p.2.ctx = u.thr.name.ctx ∧ p.2.ticket = ticket u
    let status (u v : State) (x : Coll) : Prop := ∃ a b, UniResult f u.thr u.thr a (BitVec.ofNat 64 (x.code * 256 + x.flags.toNat)) ∧
      CondResult f.c.toNat a b x.done ∧ v.thr = { b with pc := u.thr.pc + 8 }
    GivesState 0xD4 (.coll f) f s
      (fun u => read u ∧ sound u ∧ (used u).length < 256)
      (fun u v =>
        let b := u.finishAll
        let t := b.thr
        ∃ n : Nat, n ≠ 0 ∧ n < 2 ^ 64 ∧ n ∉ used u ∧
        mget {} v.colls b.nextId = { id := b.nextId, ctx := ctx u, comm := collComm d
                                     seqNo := mget 0 (b.ctx (ctx u)).collSeq (collComm d), ticket := n, desc := d
                                     cmd := { id := b.nextId, ctx := ctx u, uid := t.name.uid, tid := t.id, core := t.place.core
                                              launch := t.name.launch, team := t.name.team, group := t.name.group, pc := t.pc
                                              seq := t.seq, bar := bar u, scope := 5, ord := t.memOrd } } ∧
        (v.team t.name.uid) = (if b.teams.any (fun p => p.1 == t.name.uid) then
          { b.team t.name.uid with tickets := (b.team t.name.uid).tickets ++ [n] } else b.team t.name.uid) ∧
        (∀ k, k ≠ t.name.uid → v.team k = b.team k) ∧ (∀ k, k ≠ b.nextId → mget {} v.colls k = mget {} b.colls k) ∧
        (∀ k, mget 0 (v.ctx (ctx u)).collSeq k =
          if k = collComm d then mget 0 (b.ctx (ctx u)).collSeq k + 1 else mget 0 (b.ctx (ctx u)).collSeq k) ∧
        v.ctx (ctx u) = { b.ctx (ctx u) with collSeq := (v.ctx (ctx u)).collSeq } ∧ (∀ k, k ≠ ctx u → v.ctx k = b.ctx k) ∧
        (bar u = 0 → v.cores = b.cores) ∧
        (bar u ≠ 0 → BarrierChange b v t.place.core (i u)
          { b.bar t.place.core (i u) with pend := (b.bar t.place.core (i u)).pend + 1, refs := (b.bar t.place.core (i u)).refs + 1 }) ∧
        v.thr.seq = t.seq + 1 ∧ v.thr.memOrd = t.memOrd + 1 ∧ result u v (BitVec.ofNat 64 n) true ∧
        v = { b with nextId := b.nextId + 1, colls := v.colls, teams := v.teams, ctxs := v.ctxs, cores := v.cores, thr := v.thr }) ∧
    GivesState 0xD4 (.coll f) f s (fun u => read u ∧ sound u ∧ 256 ≤ (used u).length)
      (fun u v => v.thr.seq = u.finishAll.thr.seq ∧ v.thr.memOrd = u.finishAll.thr.memOrd ∧ result u v 0 false ∧
        v = { u.finishAll with thr := v.thr }) ∧
    GivesTrap 0xD4 (.coll f) f s (fun u => read u ∧ collOk u.finishAll (ctx u) d = false) (fun _ => { cause := 0x5D }) ∧
    (∀ (k : Nat) (x : Coll) (a b : SMap Coll),
      GivesState 0xD5 (.collw f) f s
        (fun u => holds u ∧ u.colls = a ++ (k, x) :: b ∧ mine u (k, x) ∧ (∀ p ∈ a, ¬ mine u p) ∧ x.done = false)
        (fun u v => status u v x ∧ v = { u with thr := v.thr }) ∧
      GivesState 0xD5 (.collw f) f s
        (fun u => holds u ∧ u.colls = a ++ (k, x) :: b ∧ mine u (k, x) ∧ (∀ p ∈ a, ¬ mine u p) ∧ x.done = true)
        (fun u v => status u v x ∧ (∀ p, p ∈ v.colls ↔ p ∈ u.colls ∧ p.1 ≠ k) ∧
          v.team u.thr.name.uid = { u.team u.thr.name.uid with tickets := (u.team u.thr.name.uid).tickets.erase (ticket u) } ∧
          v = { u with thr := v.thr, colls := v.colls, teams := v.teams })) ∧
    GivesTrap 0xD5 (.collw f) f s (fun u => ticket u ∉ (u.team u.thr.name.uid).tickets) (fun _ => { cause := 0x5E })

/-- COLL_COMPLETION (10 R220, R221): while the context stands on the core, once the issuing thread's earlier accesses are performed
and every other member has contributed, the result of each element over the members, which of a broadcast is the root's element,
is written at the root, the status is recorded for the ticket's holder, and the barrier arrives. The statement is of a collective
that is not in residual mode, here in a state with no waiting thread, where the fence lets its contributions pass.
The sums of collectives (06 R119; 10 R220): an exact-accumulate sum of finite elements is the rounding of the sum of the
elements brought to multiples of 2^EXP, where nothing saturates, and does not depend on the order of the members; an integer
sum is the exact sum, saturated, with OF exactly when it saturates. -/
def Obligations.CollectiveCompletion : Prop :=
  (∀ (n : Nat) (order : List Nat) (s : State) (a b : SMap Coll) (x : Coll) (src : List Byte) (dst : Nat → Nat),
     let d := x.desc
     let e := etBytes (collEt d)
     let k := collCount d
     let me := s.hub.devnum.toNat
     let members := commOf s x.ctx x.comm
     let part (dev i : Nat) : Nat := if dev = me then ofBytes ((src.drop (e * i)).take e)
       else match contribution? s x dev with | some c => ofBytes ((c.data.drop (e * i)).take e) | none => 0
     let sum (i : Nat) : Nat × BitVec 5 := collElement d (members.map (fun dev => part dev i))
     let result (i : Nat) : Nat := if collOpn d = 3 then part (members.getD (collRoot d) 0) i else (sum i).1
     let linked : Prop := ∀ dev ∈ members, dev ≠ me → linkFailed s.hub dev = false
     let i := (x.cmd.bar.extractLsb' 0 8).toNat
     let bar := s.bar x.cmd.core i
     s.colls = a ++ (n, x) :: b → (∀ p ∈ a, p.1 ≠ n) → x.id = n →
     (linked → (earlierDone s x.cmd.tid x.cmd.ord = false ∨ ∃ dev ∈ members, dev ≠ me ∧ contribution? s x dev = none) →
       exec (.collCompletion n order) s = .next s) ∧
     (NoWait s → me ∈ members → linked → earlierDone s x.cmd.tid x.cmd.ord = true →
       (∀ dev ∈ members, dev ≠ me →
         fencePasses s.hub (portTo s.hub dev) (some x.ctx) dev (((collDst d).extractLsb' 0 55).toNat % 2 ^ 42) (k * e) = true ∧
         ∃ c, contribution? s x dev = some c ∧ collMatch d c.desc = true ∧ c.poison = false ∧ c.data.length = k * e) →
       collResidual d = false → collOpn d ≤ 3 → (collOpn d = 3 → collRoot d < members.length) → src.length = k * e →
       (∀ j, j < k * e → ((collSrc d + BitVec.ofNat 64 j).extractLsb' 0 55).toNat < 2 ^ 54) →
       (∀ j, j < k * e → engineByte s x.cmd 0 (collSrc d + BitVec.ofNat 64 j) x.id = .ok (src.getD j 0, false)) →
       (∀ j, j < k * e → engineKey s x.cmd 0 (collDst d + BitVec.ofNat 64 j) = .ok (some (dst j))) →
       EventGives (.collCompletion n order) s (x.done = false ∧ (s.core x.cmd.core).serves = some x.ctx) (fun t =>
         (x.ticket ≠ 0 → ∃ fl : BitVec 5, mget {} t.colls n = { x with done := true, code := 0, flags := fl } ∧
           ∀ q, fl.getLsbD q = decide (collOpn d ≠ 3 ∧ ∃ j, j < k ∧ (sum j).2.getLsbD q = true)) ∧
         (x.ticket = 0 → ∀ p ∈ t.colls, p.1 ≠ n) ∧
         (collIsRoot s x.ctx d = true → ∀ j, j < k * e → (∀ q, j < q → q < k * e → dst q ≠ dst j) →
           rdByte t.mem (dst j) = BitVec.ofNat 8 (result (j / e) / 2 ^ (8 * (j % e)))) ∧
         (∀ m, (collIsRoot s x.ctx d = false ∨ ∀ j, j < k * e → dst j ≠ m) → rdByte t.mem m = rdByte s.mem m) ∧
         (x.cmd.bar = 0 → t.cores = s.cores) ∧
         (x.cmd.bar ≠ 0 → BarrierChange s t x.cmd.core i
           { bar with pend := bar.pend - 1, phase := if bar.pend = 1 then (bar.phase + 1) % 2 ^ 32 else bar.phase
                      refs := bar.refs - 1 }) ∧
         t = { s with mem := t.mem, poisonMem := t.poisonMem, cores := t.cores, colls := t.colls, contribs := t.contribs
                      hub := { s.hub with ports := t.hub.ports } }))) ∧
  ((∀ (et : Nat) (e : Int) (xs ys : List Nat), xs.Perm ys → exactSum et e xs = exactSum et e ys) ∧
   (∀ (et : Nat) (e : Int) (xs : List Nat), (∀ x ∈ xs, (decEt et x).finite) →
     let ns := xs.map (fun x => (toFix e (decEt et x)).1)
     let total := ns.foldr (· + ·) 0
     total.natAbs ≤ 2 ^ 127 - 1 →
     (exactSum et e xs).1 = (toFloat et 0 0 (.fin (total < 0) total.natAbs e)).1) ∧
   (∀ (e : Int) (x : FVal), x.finite → (toFix e x).2.getLsbD 2 = false →
     ((2 * (toFix e x).1 : Int) : Rat) - 1 ≤ 2 * x.rat / 2 ^ e ∧ 2 * x.rat / 2 ^ e ≤ ((2 * (toFix e x).1 : Int) : Rat) + 1) ∧
   (∀ (xs : List Nat),
     let t := (xs.map (fun x => (BitVec.ofNat 32 x).toInt)).foldr (· + ·) 0
     (intSum xs).1 = (BitVec.ofInt 32 (if t < -2147483648 then -2147483648 else if 2147483647 < t then 2147483647 else t)).toNat ∧
     ((intSum xs).2 = fOF ↔ t < -2147483648 ∨ 2147483647 < t)))

/-- `TSHAPE` writes a valid shape and nothing else, and an invalid one is cause 0x25 (08 R143, R147); `TZERO` clears rows and `TZROW`
moves a column between an accumulator and a varying register, in the lanes of S (R148, R156). -/
def Obligations.TileRegisters : Prop :=
  ∀ (f : Fields) (s : State),
    let w (a : Thread) : Word := if f.bk = 3 then (if f.ext then f.lit.setWidth 64 else f.imm14.setWidth 64) else a.sReg f.b.toNat
    let field (a : Thread) (lo n : Nat) : Nat := ((w a).extractLsb' lo n).toNat
    let et (a : Thread) : Nat := field a 0 4
    let rows (a : Thread) : Nat := field a 4 7
    let cols (a : Thread) : Nat := field a 11 7
    let bits (a : Thread) : Nat := cols a * (if et a = 14 then 4 else 8 * etBytes (et a))
    let valid (a : Thread) : Prop :=
      et a ∈ [8, 9, 10, 11, 12, 14] ∧ 1 ≤ rows a ∧ rows a ≤ 64 ∧ 1 ≤ cols a ∧ cols a ≤ 64 ∧ bits a ≤ 256 ∧
      (et a = 14 → cols a = 32 ∨ cols a = 64) ∧ (if bits a ≤ 128 then 16 else 32) ≤ 16 * field a 22 10 ∧
      field a 18 1 = 0 ∧ field a 32 32 = 0
    let sel (a : Thread) (r : Nat) : Bool := (a.sel f).getLsbD r
    let j := f.uimm % 16
    GivesRegs 0x80 (.tshape f) f s valid (fun a x y =>
      mget 0 y.tiles.shape f.d.toNat = w a ∧ (∀ k, k ≠ f.d.toNat → mget 0 y.tiles.shape k = mget 0 x.tiles.shape k) ∧
      y = { x with tiles := { x.tiles with shape := y.tiles.shape } }) ∧
    GivesTrap 0x80 (.tshape f) f s (fun u => ¬ valid u.thr) (fun _ => { cause := 0x25 }) ∧
    (f.b = 1 → GivesRegs 0x81 (.tzero f) f s (fun _ => True) (fun a x y =>
      (∀ n r c, r < 64 → c < 16 → y.accElem n r c = if n = f.d.toNat ∧ sel a r = true then 0 else x.accElem n r c) ∧
      y = { x with tiles := { x.tiles with z := y.tiles.z }, poison := { x.poison with z := y.poison.z } })) ∧
    (f.b = 0 → GivesRegs 0x81 (.tzero f) f s (fun _ => True) (fun a x y =>
      (∀ n r c, r < 64 → c < 32 → y.tileByte n r c = if n = f.d.toNat ∧ sel a r = true then 0 else x.tileByte n r c) ∧
      y = { x with tiles := { x.tiles with t := y.tiles.t }, poison := { x.poison with t := y.poison.t } })) ∧
    (f.uimm < 16 → GivesRegs 0x88 (.tzrow f) f s
      (fun a => ∀ r, sel a r = true → a.help.getLsbD r = false → 64 * f.a.toNat + r ∉ a.poison.z)
      (fun a x y =>
        (∀ l, l < 64 → mget 0 y.files.v (a.vKey f.d.toNat l) =
          if sel a l = true then a.accElem f.a.toNat l j else mget 0 x.files.v (a.vKey f.d.toNat l)) ∧
        (∀ k, (∀ l, l < 64 → k ≠ a.vKey f.d.toNat l) → mget 0 y.files.v k = mget 0 x.files.v k) ∧
        y = { x with files := { x.files with v := y.files.v }, poison := { x.poison with v := y.poison.v } })) ∧
    (16 ≤ f.uimm → GivesRegs 0x88 (.tzrow f) f s (fun _ => True) (fun a x y =>
      (∀ n r c, r < 64 → c < 16 → y.accElem n r c =
        if n = f.d.toNat ∧ c = j ∧ sel a r = true then a.vReg f.a.toNat r else x.accElem n r c) ∧
      (∀ k, (∀ r, r < 64 → sel a r = true → a.help.getLsbD r = true → k ≠ 64 * f.d.toNat + r) → (k ∈ y.poison.z ↔ k ∈ x.poison.z)) ∧
      y = { x with tiles := { x.tiles with z := y.tiles.z }, poison := { x.poison with z := y.poison.z } }))

/-- Tile loads (08 R149-R151): where every row that is no helper's passes its checks, swizzle tags among them, the load is
pending, and when it completes, in whatever state that is, the rows of S hold the bytes at their addresses, through the
swizzle in shared memory, with zeros above a row's bytes; a helper row that would fault or, which is DEDUCED (log 43), whose swizzle tag does not fit is zero, and
nothing else changes. A row of an accumulator is checked against a handle's bounds as a whole. -/
def Obligations.TileLoads : Prop :=
  ∀ (f : Fields) (s : State),
    let o (u : State) (pitch i off : Nat) : Word := indexOf u.thr f 16 0 + BitVec.ofNat 64 (i * pitch + off)
    let at_ (u : State) (n pitch i off : Nat) : Word × Except Nat Nat := access u u.thr .load (baseOf u.thr f 0) (o u pitch i off) n n
    let addr (u : State) (n pitch i off : Nat) : Nat := ((at_ u n pitch i off).1.extractLsb' 0 55).toNat
    let tm (u : State) : Team := u.team u.thr.name.uid
    let place (u : State) (n pitch swz i off : Nat) : Option Nat := match (at_ u n pitch i off).2 with
      | .ok k => if addr u n pitch i off < 0x100000 then
          (if (mget 0 u.swz (swzKey (tm u) (addr u n pitch i off / 1024))).toNat = swz then
            some (teamKey (tm u) (phys swz (addr u n pitch i off))) else none)
        else if swz = 0 then some k else none
      | .error _ => none
    let bound (u : State) (i : Nat) : Prop := outOfHandle u u.thr (baseOf u.thr f 0) (o u 64 i 0) 64 = false
    let reached (u : State) (n pitch swz i off : Nat) : Prop :=
      (∃ k, (at_ u n pitch i off).2 = .ok k) ∧ watchHits u u.thr .load (at_ u n pitch i off).1 n = [] ∧
      (swz ≠ 0 → addr u n pitch i off < 0x100000) ∧
      (addr u n pitch i off < 0x100000 → (mget 0 u.swz (swzKey (tm u) (addr u n pitch i off / 1024))).toNat = swz)
    let mine (u : State) (i : Nat) : Prop := i < 64 ∧ (u.thr.sel f).getLsbD i = true ∧ u.thr.help.getLsbD i = false
    let W (u : State) : Word := u.thr.shape f.d.toNat
    GivesRoom 0x82 (.tload f) f s
      (fun u => shapeOk (W u) = true ∧ ∀ i, mine u i → i < shRows (W u) → reached u (shRB (W u)) (shPitch (W u)) (shSwz (W u)) i 0)
      (fun u v => ∃ p, Pending f u v p ∧ ∀ w : State,
        let y := (w.doWork p).thr
        w.doWork p = { w with thr := y } ∧
        (∀ n i j, i < 64 → j < 32 → y.tileByte n i j =
          if n = f.d.toNat ∧ (u.thr.sel f).getLsbD i = true ∧ i < shRows (W u) then
            (match place u (shRB (W u)) (shPitch (W u)) (shSwz (W u)) i 0 with
              | some k => if j < shRB (W u) then loadByte w w.thr u.thr.memOrd (k + j) else 0
              | none => 0)
          else w.thr.tileByte n i j) ∧
        y = { w.thr with tiles := { w.thr.tiles with t := y.tiles.t }, poison := { w.thr.poison with t := y.poison.t } }) ∧
    (checkLong 0x82 f = none → Issues 0x82 f s.roomForLoad → shapeOk (W (s.roomForLoad.issued 0x82 f)) = false →
      exec (.tload f) s = .next ((s.roomForLoad.waited 0x82 f).completeAll.takeTrap { cause := 0x25 } f.parcels)) ∧
    GivesRoom 0x84 (.tzload f) f s
      (fun u => ∀ i, mine u i → reached u 32 64 0 i 0 ∧ reached u 32 64 0 i 32)
      (fun u v => ∃ p, Pending f u v p ∧ ∀ w : State,
        let y := (w.doWork p).thr
        w.doWork p = { w with thr := y } ∧
        (∀ n i c, i < 64 → c < 16 → y.accElem n i c =
          if n = f.d.toNat ∧ (u.thr.sel f).getLsbD i = true then
            (match if bound u i then place u 32 64 0 i (c / 8 * 32) else none with
              | some k => BitVec.ofNat 32 (ofBytes ((List.range 4).map (fun b => loadByte w w.thr u.thr.memOrd (k + c % 8 * 4 + b))))
              | none => 0)
          else w.thr.accElem n i c) ∧
        y = { w.thr with tiles := { w.thr.tiles with z := y.tiles.z }, poison := { w.thr.poison with z := y.poison.z } })

/-- Tile stores (08 R149-R151): the rows enter the store queue, at the places the checks give, through the swizzle in shared
memory; once they are performed each byte that one row alone stores holds that row's byte, and every other byte what it held.
The tags of units that are written whole become SWZ at issue; poisoned rows are cause 0x61. -/
def Obligations.TileStores : Prop :=
  ∀ (f : Fields) (s : State),
    let at_ (u : State) (n pitch i off : Nat) : Word × Except Nat Nat :=
      access u u.thr .store (baseOf u.thr f 0) (indexOf u.thr f 16 0 + BitVec.ofNat 64 (i * pitch + off)) n n
    let addr (u : State) (n pitch i off : Nat) : Nat := ((at_ u n pitch i off).1.extractLsb' 0 55).toNat
    let tm (u : State) : Team := u.team u.thr.name.uid
    let W (u : State) : Word := u.thr.shape f.d.toNat
    let rows (u : State) (m : Nat) : List Nat := (lanesOf (u.thr.sel f &&& ~~~ u.thr.help)).filter (· < m)
    let parts (u : State) (m : Nat) (offs : List Nat) : List (Nat × Nat) := (rows u m).flatMap (fun i => offs.map (fun off => (i, off)))
    let stores (op : Nat) (i : Instr) (good : State → Prop) (acc : Bool) (n pitch swz m : State → Nat) (offs : List Nat)
        (byte : State → Nat → Nat → Byte) : Prop :=
      let inUnit (u : State) (q : Nat) : Nat := ((parts u (m u) offs).filter (fun x =>
        addr u (n u) (pitch u) x.1 x.2 < 0x100000 && addr u (n u) (pitch u) x.1 x.2 / 1024 == q)).length
      let clean (u : State) : Prop := ∀ r ∈ rows u (m u), 64 * f.d.toNat + r ∉ (if acc then u.thr.poison.z else u.thr.poison.t)
      GivesState op i f s
        (fun u => good u ∧ clean u ∧ ∀ x ∈ parts u (m u) offs,
          (∃ k, (at_ u (n u) (pitch u) x.1 x.2).2 = .ok k) ∧
          watchHits u u.thr .store (at_ u (n u) (pitch u) x.1 x.2).1 (n u) = [] ∧
          (swz u ≠ 0 → addr u (n u) (pitch u) x.1 x.2 < 0x100000) ∧
          (addr u (n u) (pitch u) x.1 x.2 < 0x100000 →
            let q := addr u (n u) (pitch u) x.1 x.2 / 1024
            (mget 0 u.swz (swzKey (tm u) q)).toNat = swz u ∨ 1024 ≤ n u * inUnit u q))
        (fun u v => ∃ es : List StoreEnt,
          (∀ e ∈ es, e.tags = []) ∧ es.map (·.ord) = (List.range es.length).map (u.thr.memOrd + ·) ∧
          (∀ k, ((∃ q, n u * inUnit u q = 1024 ∧ swzKey (tm u) q = k) → mget 0 v.swz k = BitVec.ofNat 3 (swz u)) ∧
            ((¬ ∃ q, n u * inUnit u q = 1024 ∧ swzKey (tm u) q = k) → mget 0 v.swz k = mget 0 u.swz k)) ∧
          v = { u with swz := v.swz, thr := { u.thr.advance f.parcels with
            memOrd := u.thr.memOrd + es.length, queue := u.thr.queue ++ es } } ∧
          ∀ (mem : List Host.Cell) (k : Nat),
            let after := rdByte (wrCells mem (es.flatMap (·.bytes))) k
            let covers (x : Nat × Nat) (j : Nat) : Prop := x ∈ parts u (m u) offs ∧ j < n u ∧
              ∃ b, (at_ u (n u) (pitch u) x.1 x.2).2 = .ok b ∧ k = j +
                (if addr u (n u) (pitch u) x.1 x.2 < 0x100000 then teamKey (tm u) (phys (swz u) (addr u (n u) (pitch u) x.1 x.2)) else b)
            ((∀ x j, ¬ covers x j) → after = rdByte mem k) ∧
            (∀ x j, covers x j → (∀ y i, covers y i → y = x) → after = byte u x.1 (x.2 + j))) ∧
      GivesTrap op i f s (fun u => good u ∧ ¬ clean u) (fun _ => { cause := 0x61 })
    GivesTrap 0x83 (.tstore f) f s (fun u => shapeOk (W u) = false) (fun _ => { cause := 0x25 }) ∧
    stores 0x83 (.tstore f) (fun u => shapeOk (W u) = true) false (fun u => shRB (W u)) (fun u => shPitch (W u)) (fun u => shSwz (W u))
      (fun u => shRows (W u)) [0] (fun u i j => u.thr.tileByte f.d.toNat i j) ∧
    stores 0x85 (.tzstore f) (fun _ => True) true (fun _ => 32) (fun _ => 64) (fun _ => 0) (fun _ => 64) [0, 32]
      (fun u i j => (u.thr.accElem f.d.toNat i (j / 4)).extractLsb' (8 * (j % 4)) 8)

/-- The matrix multiplies (08 R153, R154; 06 R117; 18 R367, R369): with valid shapes that fit, types that pair and no enabled flag
raised, the result is pending (an enabled flag is its trap instead, 06 R114; log 34), and when it completes each element of a selected real row and a column of the result is the sum
over the chunks, and every other element, register and byte of memory is as before; the counters gain the products. Shapes that
do not fit or types that do not pair are cause 0x26, an invalid shape 0x25.
A chunk of a matrix sum (06 R117): of finite numbers, the exact sum of the products, rounded to FP32, added to the accumulator
and rounded; further chunks follow in order. -/
def Obligations.MatrixMultiply : Prop :=
  (∀ (f : Fields) (s : State),
     let sa (u : State) : Word := u.thr.shape f.a.toNat
     let sb (u : State) : Word := u.thr.shape f.b.toNat
     let valid (u : State) : Prop := shapeOk (sa u) = true ∧ shapeOk (sb u) = true
     let eight (et : Nat) : Prop := et = 11 ∨ et = 12 ∨ et = 14
     let pair (fb : Bool) (x y : Nat) : Prop := (eight x ∧ eight y) ∨ (fb = false ∧ x = y ∧ (x = 8 ∨ x = 9 ∨ x = 10))
     let fits (fb : Bool) (u : State) : Prop := shCols (sa u) = shCols (sb u) ∧ shRows (sb u) ≤ 16 ∧ pair fb (shEt (sa u)) (shEt (sb u))
     let row (u : State) (i : Nat) : Bool := (u.thr.sel f).getLsbD i && !u.thr.help.getLsbD i && i < shRows (sa u)
     let scale (u : State) (i j c : Nat) : FVal := (fMulV (e8m0Dec ((u.thr.vReg f.c.toNat i).toNat / 2 ^ (8 * c) % 256))
       (e8m0Dec ((u.thr.vReg f.c.toNat j).toNat / 2 ^ (16 + 8 * c) % 256))).1
     let elem (fb : Bool) (u : State) (i j : Nat) : Nat × BitVec 5 :=
       mmaElem 8 (if fb then 32 else 16) 0 (if fb then some (scale u i j) else none) (rowVals u.thr f.a.toNat i (sa u)).1
         (rowVals u.thr f.b.toNat j (sb u)).1 (u.thr.accElem f.d.toNat i j).toNat 0
     let rowFlag (fb : Bool) (u : State) (i b : Nat) : Bool := row u i && (List.range (shRows (sb u))).any (fun j =>
       ((elem fb u i j).2 ||| (if (rowVals u.thr f.a.toNat i (sa u)).2 || (rowVals u.thr f.b.toNat j (sb u)).2 then 1 else 0)).getLsbD b)
     let flag (fb : Bool) (u : State) (b : Nat) : Bool := (List.range 64).any (fun i => rowFlag fb u i b)
     let clean (u : State) : Prop := ∀ i, row u i = true →
       64 * f.a.toNat + i ∉ u.thr.poison.t ∧ 64 * f.d.toNat + i ∉ u.thr.poison.z ∧
       ∀ j, j < shRows (sb u) → 64 * f.b.toNat + j ∉ u.thr.poison.t
     let count (u : State) : Nat := ((List.range 64).filter (row u)).length * shRows (sb u) * shCols (sa u)
     let multiplies (op : Nat) (i : Instr) (fb : Bool) : Prop :=
       GivesState op i f s
         (fun u => valid u ∧ fits fb u ∧ clean u ∧ ∀ b, b < 5 → flag fb u b = true → u.thr.fpmode.getLsbD (2 + b) = false)
         (fun u v => ∃ p : Pend, p.left = f.ahead.toNat ∧
           v = { u with ctxs := v.ctxs, thr := { u.thr.advance f.parcels with pending := u.thr.pending ++ [p] } } ∧
           (∃ (k : Nat), ∀ n, v.ctx n = if n = u.thr.name.ctx ∧ u.hasCtx n = true then
               { u.ctx n with counters := { (u.ctx n).counters with
                 prod := mset 0 (u.ctx n).counters.prod (shEt (sa u) * 16 + shEt (sb u))
                   (mget 0 (u.ctx n).counters.prod (shEt (sa u) * 16 + shEt (sb u)) + BitVec.ofNat 64 (count u))
                 skip := mset 0 (u.ctx n).counters.skip (shEt (sa u) * 16 + shEt (sb u))
                   (mget 0 (u.ctx n).counters.skip (shEt (sa u) * 16 + shEt (sb u)) + BitVec.ofNat 64 k) } } else u.ctx n) ∧
           ∀ w : State,
             let y := (w.doWork p).thr
             w.doWork p = { w with thr := y } ∧
             (∀ n r c, r < 64 → c < 16 → y.accElem n r c = if n = f.d.toNat ∧ row u r = true ∧ c < shRows (sb u) then
               BitVec.ofNat 32 (elem fb u r c).1 else w.thr.accElem n r c) ∧
             (∀ b, b < 5 → y.fpstat.getLsbD b = (w.thr.fpstat.getLsbD b || flag fb u b)) ∧
             y.counts.prod = w.thr.counts.prod + BitVec.ofNat 64 (count u) ∧
             y = { w.thr with tiles := { w.thr.tiles with z := y.tiles.z }, fpstat := y.fpstat
                              counts := { w.thr.counts with prod := y.counts.prod, skip := y.counts.skip } }) ∧
       (checkLong op f = none → Issues op f s →
         let u := s.issued op f
         valid u → fits fb u → clean u → (∃ b, b < 5 ∧ flag fb u b = true ∧ u.thr.fpmode.getLsbD (2 + b) = true) →
         ∃ tr, FlagTrapped u.thr (flag fb u) (some (rowFlag fb u)) tr ∧
           exec i s = .next ((s.waited op f).completeAll.takeTrap tr f.parcels)) ∧
       GivesTrap op i f s (fun u => ¬ valid u) (fun _ => { cause := 0x25 }) ∧
       GivesTrap op i f s (fun u => valid u ∧ ¬ fits fb u) (fun _ => { cause := 0x26 })
     multiplies 0x86 (.tmma f) false ∧ multiplies 0x87 (.tmmaFb f) true) ∧
  (∀ (fuel size c : Nat) (sc : Option (Nat → FVal)) (a b : List FVal) (acc : Nat) (fl : BitVec 5),
     a.length = b.length → (∀ x ∈ a, x.finite) → (∀ x ∈ b, x.finite) → (∀ g, sc = some g → (g c).finite) → a ≠ [] → 0 < size →
     let k : Rat := match sc with | some g => (g c).rat | none => 1
     let total : Rat := (((a.take size).zip (b.take size)).map (fun p => p.1.rat * p.2.rat * k)).foldr (· + ·) 0
     ∃ x : Exact, x.rat = total ∧ x.sticky = false ∧
       let r := (fmtOf 8).round 0 0 x
       let y := fAdd 8 0 acc r.1
       mmaElem (fuel + 1) size c sc a b acc fl = mmaElem fuel size (c + 1) sc (a.drop size) (b.drop size) y.1 (fl ||| r.2 ||| y.2))

/-- `QPACK` and `QUNPK` (08 R157, R158) act on the block of each row of S, and on nothing else; an enabled flag is its trap (06 R114; log 34). Q4X blocks (06 R101, R102):
integers from −7 to 7 pack to their codes with no flag, whatever the rounding mode, and codes that are no marker decode to the
integers they stand for, times the scale; a marker below position 30 makes the next two nibbles one E4M3 code. -/
def Obligations.Q4xInstructions : Prop :=
  (∀ (f : Fields) (s : State),
     let sel (a : Thread) (r : Nat) : Bool := (a.sel f).getLsbD r
     let fits (w : Word) (h : Nat) : Prop := shapeOk w = true ∧ shEt w = 14 ∧ (shCols w = 64 ∨ h = 0)
     let n := f.d.toNat % 8
     let h := f.d.toNat / 8
     let c (a : Thread) (i : Nat) : Nat := (a.vReg f.b.toNat i).toNat % 256
     let xs (a : Thread) (i : Nat) : List FVal := (List.range 32).map (fun e =>
       unscale (decEt 8 (a.accElem (f.a.toNat + e / 16) i (e % 16)).toNat) (c a i))
     let seed (a : Thread) (i : Nat) : Word := if f.rs = 4 then a.wide f.ck.toNat f.c.toNat i else 0
     let walk (a : Thread) (i : Nat) : List Nat × BitVec 5 :=
       if c a i = 255 then (List.replicate 32 0, fIV) else qpackWalk 32 (a.rounding f.rs) (fun j => srWord (seed a i) j) (xs a i) 0
     let fl (a : Thread) : Option Nat → BitVec 5 := fun l => (walk a (l.getD 0)).2
     let m := f.a.toNat % 8
     let g := f.a.toNat / 8
     let dec (a : Thread) (i : Nat) : List Nat × BitVec 5 := q4xDecode ((List.range 16).map (fun k => a.tileByte m i (16 * g + k))) (c a i)
     let gl (a : Thread) : Option Nat → BitVec 5 := fun l => (dec a (l.getD 0)).2
     GivesRegs 0x89 (.qpack f) f s
       (fun a => fits (a.shape n) h ∧ NoFlagTrap f a (fl a) ∧ ∀ i, sel a i = true → a.help.getLsbD i = false →
         64 * f.a.toNat + i ∉ a.poison.z ∧ 64 * (f.a.toNat + 1) + i ∉ a.poison.z)
       (fun a x y => FlagsGain f a x y (fl a) ∧
         (∀ t i j, i < 64 → j < 32 → y.tileByte t i j = if t = n ∧ sel a i = true ∧ j / 16 = h then
           BitVec.ofNat 8 ((walk a i).1.getD (2 * (j % 16)) 0 + 16 * (walk a i).1.getD (2 * (j % 16) + 1) 0) else x.tileByte t i j) ∧
         y = { x with tiles := { x.tiles with t := y.tiles.t }, fpstat := y.fpstat, poison := { x.poison with t := y.poison.t } }) ∧
     FlagTraps 0x89 (.qpack f) f s (fun a => fits (a.shape n) h ∧ ∀ i, sel a i = true → a.help.getLsbD i = false →
         64 * f.a.toNat + i ∉ a.poison.z ∧ 64 * (f.a.toNat + 1) + i ∉ a.poison.z) fl ∧
     FlagTraps 0x8A (.qunpk f) f s (fun a => fits (a.shape m) g ∧ ∀ i, sel a i = true → a.help.getLsbD i = false →
         64 * m + i ∉ a.poison.t) gl ∧
     GivesTrap 0x89 (.qpack f) f s (fun u => shapeOk (u.thr.shape n) = false) (fun _ => { cause := 0x25 }) ∧
     GivesTrap 0x89 (.qpack f) f s (fun u => shapeOk (u.thr.shape n) = true ∧ ¬ fits (u.thr.shape n) h) (fun _ => { cause := 0x26 }) ∧
     GivesRegs 0x8A (.qunpk f) f s
       (fun a => fits (a.shape m) g ∧ NoFlagTrap f a (gl a) ∧ ∀ i, sel a i = true → a.help.getLsbD i = false →
         64 * m + i ∉ a.poison.t)
       (fun a x y => FlagsGain f a x y (gl a) ∧
         (∀ t i j, i < 64 → j < 16 → y.accElem t i j =
           if (t = f.d.toNat ∨ t = f.d.toNat + 1) ∧ sel a i = true then
             BitVec.ofNat 32 ((dec a i).1.getD (16 * (t - f.d.toNat) + j) 0) else x.accElem t i j) ∧
         y = { x with tiles := { x.tiles with z := y.tiles.z }, fpstat := y.fpstat, poison := { x.poison with z := y.poison.z } })) ∧
  ((∀ (qs : List Int) (mode : Nat) (rnd : Nat → Nat), qs.length = 32 → mode < 5 → (∀ q ∈ qs, -7 ≤ q ∧ q ≤ 7) →
     qpackWalk 32 mode rnd (qs.map (fun q => .fin (q < 0) q.natAbs 0)) 0 = (qs.map (fun q => (q % 16).toNat), 0)) ∧
   (∀ (ns : List Nat), ns.length = 32 → (∀ n ∈ ns, n < 16 ∧ n ≠ 8) →
     (q4xVals 32 ns 0).2 = false ∧ (q4xVals 32 ns 0).1.map FVal.rat = ns.map (fun (n : Nat) => if n < 8 then (n : Rat) else (n : Rat) - 16)) ∧
   (∀ (pre post : List Nat) (lo hi : Nat), pre.length ≤ 29 → pre.length + 3 + post.length = 32 → (∀ n ∈ pre ++ post, n < 16 ∧ n ≠ 8) →
     lo < 16 → hi < 16 →
     (q4xVals 32 (pre ++ 8 :: lo :: hi :: post) 0).2 = false ∧
     (q4xVals 32 (pre ++ 8 :: lo :: hi :: post) 0).1[pre.length]? = some ((fmtOf 11).dec (hi * 16 + lo))) ∧
   (∀ (n : Nat) (x : FVal) (scale : Nat), x.finite → scale < 255 → n = (q4xScaled x scale).1 → (q4xScaled x scale).2 = 0 →
     (decEt 8 n).finite ∧ (decEt 8 n).rat = x.rat * 2 ^ ((scale : Int) - 127)) ∧
   (∀ (e : Int) (scale : Nat), scale < 255 → q4xScaled (.fin true 0 e) scale = (0x80000000, 0) ∧ q4xScaled (.fin false 0 e) scale = (0, 0)) ∧
   (∀ x : FVal, q4xScaled x 255 = ((fmtOf 8).nanBits, 0)))

/-- `XSECT` and `NZSCAN` (08 R159, R160). -/
def Obligations.IndexInstructions : Prop :=
  ∀ (f : Fields) (s : State),
    let real (a : Thread) (l : Nat) : Prop := l < 64 ∧ (a.sel f).getLsbD l = true ∧ a.help.getLsbD l = false
    let cand (a : Thread) (l j : Nat) : Prop := j < 64 ∧ a.m0.getLsbD j = true ∧ a.help.getLsbD j = false ∧ j / 16 = l / 16 ∧
      a.vReg f.b.toNat j = a.vReg f.a.toNat l
    let n := 8 * etBytes f.et.toNat
    let nonzero (a : Thread) (l : Nat) : Bool :=
      if etIsInt f.et.toNat then (a.vReg f.a.toNat l).toNat % 2 ^ n != 0 else (a.vReg f.a.toNat l).toNat % 2 ^ (n - 1) != 0
    let T (a : Thread) : List Nat := (List.range 64).filter (fun l => (a.sel f).getLsbD l && !a.help.getLsbD l)
    let P (a : Thread) : List Nat := (T a).filter (nonzero a)
    let none_ : LaneWord := 0xFFFFFFFF
    GivesRegs 0x90 (.xsect f) f s (fun _ => True) (fun a x y => ∃ (val : Nat → LaneWord) (found : Nat → Bool),
      LanesAndMask f a x y val found ∧ ∀ l, l < 64 → (a.sel f).getLsbD l = true →
        ((∃ j, real a l ∧ cand a l j ∧ (∀ i, cand a l i → j ≤ i) ∧ val l = BitVec.ofNat 32 (j - 16 * (l / 16)) ∧ found l = true) ∨
         ((¬ real a l ∨ ∀ j, ¬ cand a l j) ∧ val l = none_ ∧ found l = false))) ∧
    GivesRegs 0x91 (.nzscan f) f s (fun _ => True) (fun a x y => ∃ (val : Nat → LaneWord) (found : Nat → Bool),
      LanesAndMask f a x y val found ∧
      (∀ (k l : Nat), (T a)[k]? = some l → match (P a)[k]? with
        | some j => val l = BitVec.ofNat 32 j ∧ found l = true
        | none => val l = none_ ∧ found l = false) ∧
      ∀ l, l < 64 → (a.sel f).getLsbD l = true → a.help.getLsbD l = true → val l = none_ ∧ found l = false)

/-- Every short opcode (03 R50, R51), alone and as the leader of a pair with any short as its follower (R60): alone its result
lands in its destination; in a pair both halves read the registers of before the pair, then the leader's result lands and the
follower's. Nothing else changes. Where an affine stride does not fit, cause 0x16, and neither half of a pair has written; HALF
says that the follower alone raised it. An enabled flag is its trap likewise, alone or in either half (06 R114; log 34). -/
def Obligations.ShortsAndPairs : Prop :=
  ∀ x ∈ [(0x00, Instr.nopShort), (0x01, .iaddShort), (0x02, .isubShort), (0x03, .imulShort), (0x04, .iminShort), (0x05, .imaxShort),
      (0x06, .andShort), (0x07, .orShort), (0x08, .xorShort), (0x09, .shlShort), (0x0A, .shrShort), (0x0B, .sarShort),
      (0x0C, .rolShort), (0x0D, .iaddsShort), (0x0E, .isubsShort), (0x0F, .faddShort), (0x10, .fsubShort), (0x11, .fmulShort),
      (0x12, .fminShort), (0x13, .fmaxShort), (0x14, .aaddShort), (0x15, .asubShort), (0x16, .amulShort), (0x17, .ashlShort),
      (0x18, .amovShort), (0x19, .inegShort), (0x1A, .notShort), (0x1B, .popcShort), (0x1C, .clzShort)],
  ∀ (f : ShortFields) (s : State),
    let sop := x.1
    let q := shortParts f.fol
    let a := (s.shortWaited sop f).thr
    let overflow (op : Nat) (g : ShortFields) : Prop := 0x14 ≤ op ∧ op ≤ 0x18 ∧ ¬ ShortRuns op g a
    let flagged (op : Nat) (g : ShortFields) (tr : TrapInfo) : Prop :=
      ResultTrapped (shortFields op g) a (fun l => (shortValue op g a l).2) tr
    let flags (op : Nat) (g : ShortFields) : Prop := ¬ (0x14 ≤ op ∧ op ≤ 0x18) ∧ ¬ ShortRuns op g a
    (f.lead = false → checkShort sop f = none → ShortClear sop f 1 a → ShortRuns sop f a →
      ∃ t, exec (x.2 f) s = .next t ∧ ShortDone sop f s t (ShortEffect sop f a)) ∧
    (f.lead = false → checkShort sop f = none → ShortClear sop f 1 a → overflow sop f →
      exec (x.2 f) s = .next ((s.shortWaited sop f).completeAll.takeTrap { cause := 0x16 } 1)) ∧
    (f.lead = true → checkPair (sop, f) q = none → ShortClear sop f 1 a → ShortClear q.1 q.2 2 a → ShortRuns sop f a →
      ShortRuns q.1 q.2 a →
      ∃ t, exec (x.2 f) s = .next t ∧ ShortDone sop f s t (fun b c => ∃ d, ShortEffect sop f a b d ∧ ShortEffect q.1 q.2 a d c)) ∧
    (f.lead = true → checkPair (sop, f) q = none → ShortClear sop f 1 a → ShortClear q.1 q.2 2 a → ShortRuns sop f a →
      overflow q.1 q.2 →
      exec (x.2 f) s = .next ((s.shortWaited sop f).completeAll.takeTrap { cause := 0x16, half := true } 2)) ∧
    (f.lead = true → ShortClear sop f 1 a → overflow sop f →
      exec (x.2 f) s = .next ((s.shortWaited sop f).completeAll.takeTrap { cause := 0x16 } 2)) ∧
    (f.lead = false → checkShort sop f = none → ShortClear sop f 1 a → flags sop f →
      ∃ tr, flagged sop f tr ∧ exec (x.2 f) s = .next ((s.shortWaited sop f).completeAll.takeTrap tr 1)) ∧
    (f.lead = true → ShortClear sop f 1 a → flags sop f →
      ∃ tr, flagged sop f tr ∧ exec (x.2 f) s = .next ((s.shortWaited sop f).completeAll.takeTrap tr 2)) ∧
    (f.lead = true → checkPair (sop, f) q = none → ShortClear sop f 1 a → ShortClear q.1 q.2 2 a → ShortRuns sop f a →
      flags q.1 q.2 →
      ∃ tr, flagged q.1 q.2 tr ∧ exec (x.2 f) s = .next ((s.shortWaited sop f).completeAll.takeTrap { tr with half := true } 2))

/-- What every command has in common (19 R373, R375): the completion is the next entry of the ring, with TAG, STATUS, REASON, the
results and GTS, and nothing else changes by it; a refusal of the fence advances its port's counter (16 R303); a command that
names no context where one is needed, or that sets a Reserved operand, is refused with REASON 0x10. -/
def Obligations.CompletionsAndRefusals : Prop :=
  (∀ (u : State) (tag : BitVec 32) (status reason : Nat) (r0 r1 : Word),
    let h := (u.putCpl tag status reason r0 r1).hub
    let x := mget 0 h.cpl u.hub.cplTail
    u.putCpl tag status reason r0 r1 = { u with hub := { u.hub with cpl := h.cpl, cplTail := (u.hub.cplTail + 1) % 256 } } ∧
    (∀ k, k ≠ u.hub.cplTail → mget 0 h.cpl k = mget 0 u.hub.cpl k) ∧
    x.extractLsb' 0 32 = tag ∧ x.extractLsb' 32 8 = BitVec.ofNat 8 status ∧ x.extractLsb' 40 8 = BitVec.ofNat 8 reason ∧
    x.extractLsb' 64 64 = r0 ∧ x.extractLsb' 128 64 = r1 ∧ x.extractLsb' 192 64 = u.hub.gts) ∧
  (∀ (u : State) (port : Nat), let r := (u.countRefusal port).hub.refusals
    u.countRefusal port = { u with hub := { u.hub with refusals := r } } ∧ KeySet 0 u.hub.refusals r port (mget 0 u.hub.refusals port + 1)) ∧
  (∀ (e : CmdEntry) (s : State),
    (∀ x ∈ ([(.createCtx e, [(0, 2), (2, 4), (6, 4), (10, 20), (30, 8), (38, 4)]), (.setBudget e, [(0, 2), (2, 2)]),
        (.queryDevice e, [(0, 2), (8, 8), (16, 4)]), (.querySolderSlots e, [(0, 2), (8, 8), (16, 4)]),
        (.queryCoresched e, [(0, 2), (8, 8), (16, 4)]), (.queryFenceRefusals e, [(0, 2), (8, 8), (16, 4)]),
        (.queryLinkPorts e, [(0, 2), (8, 8), (16, 4)]), (.installPatch e, [(0, 8), (8, 4)])] : List (Instr × List (Nat × Nat))),
      ¬ entryClear e x.2 → RefusedWith x.1 e s 0x10) ∧
    (∀ x ∈ ([(.destroyCtx e, []), (.stopCtx e, []), (.mapPages e, [(0, 8), (8, 4), (12, 1), (13, 1)]),
        (.unmapPages e, [(0, 8), (8, 4)]), (.loadImage e, [(0, 8), (8, 8)]),
        (.graphSubmit e, [(0, 1), (8, 8), (16, 2), (24, 8), (32, 2)]), (.queryFaultRing e, [(0, 2), (8, 8), (16, 4)]),
        (.queryCounters e, [(0, 2), (8, 8), (16, 4)]), (.queryObservation e, [(0, 2), (8, 8), (16, 4)]),
        (.queryContext e, [(0, 2), (8, 8), (16, 4)]), (.attest e, [(0, 8), (8, 8)]), (.setHandle e, [(0, 2), (8, 32)]),
        (.setTag e, [(0, 8), (8, 4), (12, 1)]), (.observe e, [(0, 8), (8, 8), (16, 8)]), (.setComm e, [(0, 1), (8, 8), (16, 2)]),
        (.hostWindow e, [(0, 1), (8, 8), (16, 8)]), (.debugWriteSlots e, [(0, 1), (8, 8)]),
        (.debugHalt e, [(0, 1), (8, 8), (16, 1), (18, 2)]), (.debugResume e, [(0, 1), (8, 8), (16, 1), (18, 2)]),
        (.debugStep e, [(0, 1), (8, 8), (16, 1), (18, 2)]), (.debugFocus e, [(0, 1), (8, 8), (16, 1), (18, 2)]),
        (.debugEnd e, [(0, 1), (8, 8), (16, 1), (18, 2)])] : List (Instr × List (Nat × Nat))),
      s.hasCtx e.ctx.toNat = false ∨ ¬ entryClear e x.2 → RefusedWith x.1 e s 0x10) ∧
    (s.hasCtx e.ctx.toNat = false → RefusedWith (.launch e) e s 0x10))

/-- The commands that set something (19 R375; 10 R219; 14 R267; 16 R300-R302, R306; 18 R359): each writes what it names and
nothing else; the first condition that fails gives the reason. The Reserved bits of the observation word are ignored (00 R3). That
`OBSERVE` starts the record count anew (logs 60, 62) and the reason of `SET_TAG` for a granule that the context does not own (log 47) are
DEDUCED. -/
def Obligations.SettingCommands : Prop :=
  ∀ (e : CmdEntry) (s : State),
    let n (off k : Nat) : Nat := entryNum e off k
    let c := e.ctx.toNat
    let w (i : Nat) : Word := BitVec.ofNat 64 (n (8 + 8 * i) 8)
    let bound : Prop := (∃ p ∈ s.launches, p.2.ctx = c ∧ p.2.finished = false ∧ n 0 2 ∈ p.2.binds) ∨
      ∃ p ∈ s.nodes, p.2.ctx = c ∧ p.2.kind = some 2 ∧ n 0 2 ∈ p.2.binds
    let members := indexList (rdBytes s.mem (hostKey (n 8 8)) (2 * n 16 2))
    let word : Word := BitVec.ofNat 64 (n 0 8) &&& 0x1FF
    let nlog := (word.extractLsb' 4 5).toNat
    (entryClear e [(0, 2), (2, 2)] →
      AnswersChecked (.setBudget e) e s [(n 2 2 ≤ 256 ∧ (n 0 2 < 160 ∨ n 0 2 = 0xFFFF), 0x10)] (fun u _ _ =>
        (∀ k, u.core k = if k < 160 ∧ (k = n 0 2 ∨ n 0 2 = 0xFFFF) then { s.core k with budget := n 2 2, budgetSet := n 2 2 }
          else s.core k) ∧ u = { s with cores := u.cores })) ∧
    (s.hasCtx c = true → entryClear e [(0, 2), (8, 32)] →
      AnswersChecked (.setHandle e) e s [(n 0 2 < 4096 ∧ handleOk (w 0) (w 1) (w 2) (w 3) = true, 0x10), (¬ bound, 0x14)] (fun u _ _ =>
        CtxChange s u c { s.ctx c with handles := (u.ctx c).handles } ∧
        ∀ k, mget 0 (u.ctx c).handles k = if k / 4 = n 0 2 then w (k % 4) else mget 0 (s.ctx c).handles k)) ∧
    (s.hasCtx c = true → entryClear e [(0, 8), (8, 4), (12, 1)] →
      AnswersChecked (.setTag e) e s [(n 0 8 % 32 = 0 ∧ n 12 1 ≤ 15, 0x10),
          (∀ i, i < n 8 4 → ∃ g, granuleKey s c (n 0 8 + 32 * i) = some g, 0x10)] (fun u _ _ =>
        u = { s with tags := u.tags } ∧
        ∀ g, ((∃ i, i < n 8 4 ∧ granuleKey s c (n 0 8 + 32 * i) = some g) → mget 0 u.tags g = BitVec.ofNat 4 (n 12 1)) ∧
          ((∀ i, i < n 8 4 → granuleKey s c (n 0 8 + 32 * i) ≠ some g) → mget 0 u.tags g = mget 0 s.tags g))) ∧
    (s.hasCtx c = true → entryClear e [(0, 1), (8, 8), (16, 2)] →
      AnswersChecked (.setComm e) e s [(hostOk s (n 8 8) (2 * n 16 2) = true, 0x30),
          (1 ≤ n 16 2 ∧ n 16 2 ≤ 4096 ∧ ∀ d ∈ members, d ≤ 4095, 0x10)] (fun u _ _ =>
        CtxChange s u c { s.ctx c with comms := (u.ctx c).comms } ∧
        ∀ k, mget [] (u.ctx c).comms k = if k = n 0 1 then members else mget [] (s.ctx c).comms k)) ∧
    (s.hasCtx c = true → entryClear e [(0, 1), (8, 8), (16, 8)] →
      AnswersChecked (.hostWindow e) e s [(n 0 1 ≤ 15 ∧ (s.ctx c).word.getLsbD 15 = false ∧ 0x4000000000 ≤ n 8 8 ∧
          n 8 8 + n 16 8 ≤ 2 ^ 54, 0x10)] (fun u _ _ =>
        u = { s with hub := { s.hub with windows := u.hub.windows } } ∧
        ∀ k, mget (0, 0, 0) u.hub.windows k = if k = n 0 1 then (c, n 8 8, n 16 8) else mget (0, 0, 0) s.hub.windows k)) ∧
    (s.hasCtx c = true → entryClear e [(0, 8), (8, 8), (16, 8)] →
      AnswersChecked (.observe e) e s [((word.getLsbD 3 = true → 8 ≤ nlog ∧ nlog ≤ 20) ∧ n 16 8 ≠ 0 ∧
          n 16 8 % 48 = 0 ∧ n 16 8 / 48 ≤ 2 ^ 24 ∧ pagesOwned s c (n 8 8) (n 16 8) = true, 0x10)] (fun u _ _ =>
        CtxChange s u c { s.ctx c with obs := { (s.ctx c).obs with
          word := word, buf := BitVec.ofNat 64 (n 8 8), cap := n 16 8 / 48, count := 0, recent := [] } }))

/-- The commands that make, change and run contexts (19 R375-R378, R396; 16 R289-R297; 17 R350): their reasons in order, and what
they leave: a context with a number none has and the frames it asked for; pages mapped to zeroed frames that the context owns,
with zeroed metadata where the region is compressed, or unmapped and freed; a context that is stopped or destroyed once issue to its
groups has stopped and what runs has ended; an image's bytes in frames of its own; a launch in the queue with its argument block on each of its dies. The reasons of `MAP`
and `UNMAP` that no rule names (log 47) and the way in which `STOP` and `DESTROY_CTX` wait in the ring (log 51) are DEDUCED; that a tagged
argument block is refused with 0x0A is a DESIGN CHOICE (log 48). `CREATE_CTX` in strict-partition mode, and of a confidential context, is not
stated here. -/
def Obligations.ContextCommands : Prop :=
  ∀ (e : CmdEntry) (s : State),
    let n (off k : Nat) : Nat := entryNum e off k
    let c := e.ctx.toNat
    let cores := (List.range 160).filter (fun i => (n 10 20).testBit i)
    let owner (u : State) (f : Nat) : Nat := (mget {} u.owners f).who
    let p := n 0 8 / 65536
    let keys := (List.range (n 8 4)).map (p + ·)
    let valid (k : Nat) : Bool := (mget 0 (s.ctx c).leaf k).getLsbD 0
    let under (k2 : Nat) : List (Nat × Word) := (s.ctx c).leaf.filter (fun x => x.1 / 2 ^ 13 == k2)
    let mappable : Prop := n 13 1 ≤ 3 ∧ 0x4000000000 ≤ n 0 8 ∧ n 0 8 + 65536 * n 8 4 ≤ 2 ^ 54 ∧ (∀ k ∈ keys, valid k = false) ∧
      (∀ k ∈ keys, let o := mget 0 (s.ctx c).l2 (k / 2 ^ 13)
        o.getLsbD 0 = true → (o.extractLsb' 1 3).toNat ≠ n 13 1 → ∀ x ∈ under (k / 2 ^ 13), x.2.getLsbD 0 = false) ∧
      (n 13 1 ≠ 0 → (n 12 1).testBit 4 = false ∧ ∀ k ∈ keys, ∀ x ∈ under (k / 2 ^ 13), x.2.getLsbD 4 = false)
    let image := rdBytes s.mem (hostKey (n 0 8)) (n 8 8)
    let begun := s.beginStop [c]
    -- the 512 MiB regions that get a metadata area
    let regions := if n 13 1 = 0 then [] else ((keys.map (· / 2 ^ 13)).eraseDups).filter (fun k => !cmpIs (mget 0 (s.ctx c).l2 k) (n 13 1))
    (s.hub.mode = false → (n 0 2).testBit 15 = false → s.ctxs.length < 64 →
      entryClear e [(0, 2), (2, 4), (6, 4), (10, 20), (30, 8), (38, 4)] →
      AnswersChecked (.createCtx e) e s [(n 0 2 % 4096 = 0 ∧ (n 2 4 = 0 ∨ 1024 ≤ n 2 4) ∧ n 38 4 ≤ 65535, 0x10),
          (takeFrames s cores (n 6 4 + n 38 4) (s.tick * 2 ^ 32) [] ≠ none, 0x12)] (fun u r0 _ =>
        ∃ (m : Nat) (fs : List Nat), m < 64 ∧ s.hasCtx m = false ∧ r0 = BitVec.ofNat 64 m ∧
          takeFrames s cores (n 6 4 + n 38 4) (s.tick * 2 ^ 32) [] = some fs ∧
          u.hasCtx m = true ∧ (∀ k, k ≠ m → u.hasCtx k = s.hasCtx k ∧ u.ctx k = s.ctx k) ∧
          (∀ f, f ∈ (u.ctx m).poolFrames ↔ f ∈ fs.take (n 6 4)) ∧ (∀ f, f ∈ (u.ctx m).swapFrames ↔ f ∈ fs.drop (n 6 4)) ∧
          u.ctx m = { word := BitVec.ofNat 64 (n 0 2 + m), swapWait := n 2 4, cores := cores
                      poolFrames := (u.ctx m).poolFrames, swapFrames := (u.ctx m).swapFrames } ∧
          (∀ f ∈ fs.take (n 6 4), owner u f = m + 2) ∧ (∀ f ∈ fs.drop (n 6 4), owner u f = 1) ∧
          (∀ f ∈ fs, ∀ j, j < 65536 → rdByte u.mem (65536 * f + j) = 0))) ∧
    (s.hasCtx c = true → entryClear e [] →
      ((s.ctx c).stopping = true → begun = s) ∧
      ((∃ t ∈ s.threads, t.name.ctx = c ∧ t.routine.isSome = true ∧ t.held ≠ []) → begun = s) ∧
      ((s.ctx c).stopping = false → (∀ t ∈ s.threads, t.name.ctx = c → t.held = []) →
        CtxChange s begun c { s.ctx c with stopping := true }) ∧
      (stopDone begun c = false → TakenAgain (.destroyCtx e) s begun ∧ TakenAgain (.stopCtx e) s begun) ∧
      (stopDone begun c = true →
        Answers (.destroyCtx e) e s (fun u _ _ => u.hasCtx c = false ∧ (∀ x ∈ u.teams, x.2.ctx ≠ c) ∧
          (∀ x ∈ u.hub.windows, x.2.1 ≠ c) ∧ (∀ j, j < 160 * 2 ^ 20 → rdByte u.mem (sharedKey c 0 j) = 0) ∧
          ∀ k, (u.core k).serves ≠ some c ∧ (u.core k).switching ≠ some c) ∧
        Answers (.stopCtx e) e s (fun u _ _ => ∀ k i, (u.core k).serves = some c → (u.bar k i).refs = 0 ∧ (u.bar k i).held = false))) ∧
    (s.hasCtx c = true → entryClear e [(0, 8), (8, 4), (12, 1), (13, 1)] →
      AnswersChecked (.mapPages e) e s [(n 0 8 % 65536 = 0 ∧ n 8 4 ≠ 0 ∧ n 12 1 &&& 0xC1 = 0, 0x10), (mappable, 0x13),
          (((n 12 1).testBit 5 = true ∨ takeFrames s (s.ctx c).cores (n 8 4) (s.tick * 2 ^ 32) [] ≠ none) ∧
            takeMetas s regions.length (s.tick * 2 ^ 32 + n 8 4) [] ≠ none, 0x12)] (fun u r0 _ =>
        (∀ k, (∀ x ∈ keys, k ≠ x) → mget 0 (u.ctx c).leaf k = mget 0 (s.ctx c).leaf k) ∧
        (∀ k ∈ keys, let d := mget 0 (u.ctx c).l2 (k / 2 ^ 13)
          d.getLsbD 0 = true ∧ (d.extractLsb' 1 3).toNat = n 13 1) ∧
        (∃ ms, takeMetas s regions.length (s.tick * 2 ^ 32 + n 8 4) [] = some ms ∧
          (∀ (i r m : Nat), regions[i]? = some r → ms[i]? = some m →
            (mget 0 (u.ctx c).l2 r).extractLsb' 40 17 = BitVec.ofNat 17 m ∧ ∀ j, j < 2 ^ 21 → rdByte u.mem (2 ^ 21 * m + j) = 0) ∧
          ((n 12 1).testBit 5 = true → r0 = 0 ∧ u = { s with mem := u.mem, poisonMem := u.poisonMem, ctxs := u.ctxs } ∧
            (∀ k, k / 2 ^ 21 ∉ ms → rdByte u.mem k = rdByte s.mem k) ∧
            ∀ k ∈ keys, mget 0 (u.ctx c).leaf k = BitVec.ofNat 64 (n 12 1))) ∧
        ((n 12 1).testBit 5 = false → ∃ fs, takeFrames s (s.ctx c).cores (n 8 4) (s.tick * 2 ^ 32) [] = some fs ∧
          fs.length = n 8 4 ∧ r0 = BitVec.ofNat 64 (fs.headD 0) ∧
          (∀ (i f : Nat), fs[i]? = some f → owner u f = c + 2 ∧ (∀ j, j < 65536 → rdByte u.mem (65536 * f + j) = 0) ∧
            mget 0 (u.ctx c).leaf (p + i) = BitVec.ofNat 64 (f * 65536 + n 12 1 + 1)) ∧
          u = { s with mem := u.mem, tags := u.tags, poisonMem := u.poisonMem, owners := u.owners, ctxs := u.ctxs }))) ∧
    (s.hasCtx c = true → entryClear e [(0, 8), (8, 4)] →
      AnswersChecked (.unmapPages e) e s [(n 0 8 % 65536 = 0, 0x10)] (fun u _ _ =>
        (∀ k, mget 0 (u.ctx c).leaf k = if p ≤ k ∧ k < p + n 8 4 then 0 else mget 0 (s.ctx c).leaf k) ∧
        (∀ x ∈ (s.ctx c).leaf, p ≤ x.1 → x.1 < p + n 8 4 → x.2.getLsbD 0 = true →
          let f := (x.2.extractLsb' 16 22).toNat
          owner u f = 0 ∧ ∀ j, j < 65536 → rdByte u.mem (65536 * f + j) = 0) ∧
        u = { s with mem := u.mem, tags := u.tags, poisonMem := u.poisonMem, owners := u.owners, ctxs := u.ctxs })) ∧
    (s.hasCtx c = true → entryClear e [(0, 8), (8, 8)] → hostOk s (n 0 8) (n 8 8) = true →
      let m := (image.length + 65535) / 65536
      let t := (16 * (imageSections image).length + 65535) / 65536
      (∀ r, imageCheck s c image = some r → RefusedWith (.loadImage e) e s r) ∧
      (imageCheck s c image = none → takeFrames s (s.ctx c).cores (m + t) (s.tick * 2 ^ 32) [] = none →
        RefusedWith (.loadImage e) e s 0x12) ∧
      (∀ fs, imageCheck s c image = none → takeFrames s (s.ctx c).cores (m + t) (s.tick * 2 ^ 32) [] = some fs →
        Answers (.loadImage e) e s (fun u r0 _ => ∃ im : Image,
          (u.ctx c).images = (s.ctx c).images ++ [im] ∧ r0 = BitVec.ofNat 64 im.number ∧ im.base % 65536 = 0 ∧ im.frames = fs ∧
          im.kernels = (imageKernels image).map kernelOf ∧ (∀ x ∈ (s.ctx c).images, x.number ≠ im.number) ∧
          (∀ f ∈ fs, owner u f = c + 2) ∧
          ∀ (j : Nat) (b : Byte), image[j]? = some b → rdByte u.mem (65536 * fs.getD (j / 65536) 0 + j % 65536) = b))) ∧
    (s.hasCtx c = true → ∀ (im : Image) (k : Kernel),
      (s.ctx c).images.find? (fun x => x.number == n 0 4) = some im → im.kernels[n 4 4]? = some k →
      let dies := (List.range 4).filter (fun d => (n 13 1).testBit d)
      let q := n 40 8
      let block := rdBytes s.mem (hostKey (n 16 8)) k.args
      let binds := indexList (rdBytes s.mem (hostKey (n 32 8)) (2 * k.handles))
      AnswersChecked (.launch e) e s
        [(k.kind = 0, 0x0A), (needsMet s c im.minor im.needs = true, 0x07),
         (n 8 4 ≠ 0 ∧ n 12 1 ≤ 3 ∧ n 13 1 ≠ 0 ∧ n 13 1 ≤ 15 ∧ n 14 1 ≤ 127 ∧
           entryClear e [(0, 4), (4, 4), (8, 4), (12, 1), (13, 1), (14, 1), (16, 8), (24, 2), (32, 8), (40, 8)], 0x10),
         (n 24 2 = k.args ∧ q % 64 = 0 ∧ (k.args ≠ 0 → ∀ d ∈ dies, blockOwned s c d q k.args = true) ∧
           blockTaken s c (n 13 1) q k.args = false ∧
           (k.args ≠ 0 → ∀ d ∈ dies, blockTagged s d q k.args = false), 0x0A),
         (hostOk s (n 16 8) k.args = true, 0x30), (hostOk s (n 32 8) (2 * k.handles) = true, 0x30),
         (∀ i ∈ binds, i < 4096 ∧ (mget 0 (s.ctx c).handles (4 * i + 3)).getLsbD 0 = true, 0x09),
         (n 8 4 % max 1 k.span = 0, 0x08), (spanFits s c (n 13 1) k = true, 0x06)]
        (fun u r0 _ => ∃ num, r0 = BitVec.ofNat 64 num ∧
          u.launch s.nextId = { ctx := c, number := num, image := im.number, kernel := k, entryPc := BitVec.ofNat 55 (im.base + k.entry)
                                teams := n 8 4, prio := n 12 1, dies := n 13 1, fpmode := BitVec.ofNat 7 (n 14 1), argAddr := q
                                binds := binds, arrival := s.nextId, tag := e.tag, notify := e.flags.getLsbD 0 } ∧
          (∀ x ∈ s.launches, x.2.ctx = c → x.2.number ≠ num) ∧ (∀ x, x ≠ s.nextId → u.launch x = s.launch x) ∧
          (∀ d ∈ dies, ∀ j, j < k.args → rdByte u.mem (scratchKey d (q - 0x10000000 + j)) = block.getD j 0 ∧
            (mget {} u.owners (scratchUnit d ((q - 0x10000000 + j) / 65536 * 65536))).ro = true) ∧
          u = { s with mem := u.mem, poisonMem := u.poisonMem, owners := u.owners, launches := u.launches, nextId := s.nextId + 1 })) ∧
    (∀ (ds : List (List Byte × List Nat)) (keys : List Nat) (u1 u2 : State),
      let nodes := tableOf (rdBytes s.mem (hostKey (n 8 8)) (128 * n 16 2)) 0 (n 16 2) 128
      let edges := (tableOf (rdBytes s.mem (hostKey (n 24 8)) (4 * n 32 2)) 0 (n 32 2) 4).map (fun x => (fieldOf x 0 2, fieldOf x 2 2))
      s.hasCtx c = true → entryClear e [(0, 1), (8, 8), (16, 2), (24, 8), (32, 2)] →
      n 0 1 ≤ 3 → n 16 2 ≠ 0 → hostOk s (n 8 8) (128 * n 16 2) = true → hostOk s (n 24 8) (4 * n 32 2) = true →
      ds.map (·.1) = nodes → (∀ d ∈ ds, submitBinds s d.1 = .ok d.2 ∧ submitOk s c (n 0 1) d.1 d.2 = true) →
      s.fillNodes c (n 0 1) ds [] = some (u1, keys) → u1.linkNodes keys edges = some u2 →
      Answers (.graphSubmit e) e s (fun u r0 _ => u = keys.foldl State.armNode u2 ∧ keys.length = n 16 2 ∧
        ∀ k, keys.head? = some k → r0 = BitVec.ofNat 64 (k % 4096)))

/-- The commands that report (19 R375; 16 R307; 17 R353): a query's buffer holds its report, cut to the buffer's size, behind the
fence, and nothing else changes; what stands where in a buffer is the model's (DESIGN CHOICE, log 28). A dump waits for its
contexts to be quiet; its header says how it ended and how many bytes are valid, and whether it is sealed (17 R352-R354). That a dump
which has to wait is taken from the ring again (log 51) and that a buffer shorter than a header is REASON 0x10 (log 62) are DEDUCED. -/
def Obligations.ReportCommands : Prop :=
  ∀ (e : CmdEntry) (s : State),
    let n (off k : Nat) : Nat := entryNum e off k
    let c := e.ctx.toNat
    let reports (i : Instr) (free : Bool) (bytes : List Byte) : Prop :=
      let bs := bytes.take (n 16 4)
      (free = true ∨ s.hasCtx c = true) → entryClear e [(0, 2), (8, 8), (16, 4)] →
      AnswersChecked i e s [(hostOk s (n 8 8) bs.length = true, 0x30)]
        (fun u r0 _ => r0 = BitVec.ofNat 64 bs.length ∧ Wrote s u (hostKey (n 8 8)) bs)
    let ctxs := if n 0 1 = 2 then s.ctxs.map (·.1) else [c]
    let dumpable : Prop := (n 0 1 = 2 ∨ s.hasCtx c = true) ∧ n 0 1 ≤ 2 ∧ n 1 1 ≤ 1 ∧ 128 ≤ n 24 8 ∧
      entryClear e [(0, 1), (1, 1), (2, 8), (10, 2), (16, 8), (24, 8)] ∧
      (n 0 1 = 0 → ∃ t ∈ s.threads, t.name.hail = false ∧ t.status ≠ .retiring ∧ t.name.ctx = c ∧ t.name.launch = n 2 4 ∧
        t.name.team = n 6 4 ∧ t.name.group = n 10 2)
    reports (.queryDevice e) true (wordBytes [if s.hub.mode then 1 else 0, s.hub.devnum.setWidth 64,
      BitVec.ofNat 64 (65536 * Config.reserve), 0x00010002, Config.firmwareVersion]) ∧
    reports (.queryFaultRing e) false (ringBytes (s.ctx c)) ∧
    reports (.queryCounters e) false (counterBytes (s.ctx c)) ∧
    reports (.querySolderSlots e) true (solderBytes s.hub) ∧
    reports (.queryObservation e) false (observeBytes (s.ctx c)) ∧
    reports (.queryCoresched e) true (wordBytes ((List.range 160).map (coresched s))) ∧
    reports (.queryFenceRefusals e) true (wordBytes ((List.range 13).map (mget 0 s.hub.refusals))) ∧
    reports (.queryLinkPorts e) true (portBytes s.hub) ∧
    reports (.queryContext e) false (contextBytes s c) ∧
    (s.hasCtx c = true → entryClear e [(0, 8), (8, 8)] →
      let report := attestReport s c (rdBytes s.mem (hostKey (n 0 8)) 64)
      AnswersChecked (.attest e) e s [(hostOk s (n 0 8) 64 = true, 0x30), (hostOk s (n 8 8) report.length = true, 0x30)]
        (fun u _ _ => Wrote s u (hostKey (n 8 8)) report)) ∧
    (¬ dumpable → RefusedWith (.dump e) e s 0x10) ∧
    (dumpable → (∃ x ∈ ctxs, stopDone (s.beginStop ctxs) x = false) → TakenAgain (.dump e) s (s.beginStop ctxs)) ∧
    (dumpable → (∀ x ∈ ctxs, stopDone (s.beginStop ctxs) x = true) → Answers (.dump e) e s (fun u r0 _ =>
      r0.toNat ≤ n 24 8 ∧
      (n 1 1 = 0 → r0 ≠ 0 → 128 ≤ r0.toNat ∧ ∃ status required g nonce shut, 1 ≤ status ∧ status ≤ 3 ∧
        rdBytes u.mem (hostKey (n 16 8)) 64 = dumpHeader (n 0 1) status required r0.toNat g g (if n 0 1 = 2 then 0xFF else c) nonce shut ∧
        (shut = true ↔ n 0 1 ≠ 2 ∧ (s.ctx c).word.getLsbD 15 = true) ∧ (status = 1 → r0.toNat = required))))

/-- The patch image and the debugger (16 R312, R316; 18 R363-R366): an image passes the checks in order, and its entries wait for
the update point; the debug sub-operations act on the group they name, a confidential context and a group that is not halted
refusing them. The slot buffer of eight breakpoints and then four pairs is a DESIGN CHOICE (log 52); REASON 0x10 of the refusals (log 52) and
what covers a slot that step 6 keeps (log 65) are DEDUCED. -/
def Obligations.PatchAndDebug : Prop :=
  ∀ (e : CmdEntry) (s : State),
    let n (off k : Nat) : Nat := entryNum e off k
    let c := e.ctx.toNat
    let bs := rdBytes s.mem (hostKey (n 0 8)) (n 8 4)
    let g (off k : Nat) : Nat := ofBytes ((bs.drop off).take k)
    let key := (bs.drop (bs.length - 7219)).take 2592
    let entries := tableOf bs 0x40 (g 6 2) 40
    let slots := entries.map (fun x => ofBytes ((x.drop 36).take 1))
    let plain : Prop := s.hasCtx c = true ∧ (s.ctx c).word.getLsbD 15 = false
    let operands : Prop := entryClear e [(0, 1), (8, 8), (16, 1), (18, 2)]
    let named (t : Thread) : Prop := t.name.hail = false ∧ t.status ≠ .retiring ∧ t.name.ctx = c ∧ t.name.launch = n 8 4 ∧
      t.name.team = n 12 4 ∧ t.name.group = n 18 2
    -- the group that the command names stands at the front, and no other thread has its identity
    let group (t : Thread) : Prop := s.thr = t ∧ t.status ≠ .absent ∧ named t ∧ ∀ u ∈ s.parked, u.id ≠ t.id
    let changes (i : Instr) (t : Thread) : Prop := Answers i e s (fun u _ _ => u = { s with thr := t })
    (entryClear e [(0, 8), (8, 4)] → ∃ u,
      (∀ k, rdByte u.mem k = let code := (bs.drop (g 0x0C 4)).take (g 0x10 4)
        if patchKey s.hub.patchTop ≤ k ∧ k < patchKey s.hub.patchTop + code.length then code.getD (k - patchKey s.hub.patchTop) 0
        else rdByte s.mem k) ∧
      u.hub = { s.hub with staged := entries.map (fun x => patchEntry x s.hub.patchTop (g 0x10 4)), stagedTag := e.tag
                           rollback := g 0x14 4, patchTop := s.hub.patchTop + (g 0x10 4 + 7) / 8 * 8 } ∧
      u = { s with mem := u.mem, poisonMem := u.poisonMem, hub := u.hub } ∧
      (let checks : List (Prop × Nat) :=
        [(hostOk s (n 0 8) (n 8 4) = true, 0x30), (patchHeaderOk bs = true, 0x21),
         (∃ i, i < 4 ∧ Config.fusedKeyHash i = BitVec.ofNat 512 (ofBytes (sha3 key)) ∧ Config.keyRevoked i = false, 0x22),
         (Config.mlDsaVerify key (sha3 (bs.take (bs.length - 4627))) (bs.drop (bs.length - 4627)) = true, 0x23),
         (s.hub.rollback ≤ g 0x14 4, 0x24), ((∀ x ∈ entries, patchEntryOk x (g 0x10 4) = true) ∧ slots.Nodup, 0x25),
         (∀ i ∈ slots, slotHeld s i ((List.range 32).filter (fun m => !slots.contains m)) = false, 0x26)]
       ((∀ x ∈ checks, x.1) → exec (.installPatch e) s = .next u) ∧
       ∀ (m : Nat) (x : Prop) (r : Nat), checks[m]? = some (x, r) → ¬ x → (∀ d ∈ checks.take m, d.1) →
         RefusedWith (.installPatch e) e s r)) ∧
    (s.hasCtx c = true → (s.ctx c).word.getLsbD 15 = true →
      RefusedWith (.debugWriteSlots e) e s 0x10 ∧ RefusedWith (.debugHalt e) e s 0x10 ∧ RefusedWith (.debugResume e) e s 0x10 ∧
      RefusedWith (.debugStep e) e s 0x10 ∧ RefusedWith (.debugFocus e) e s 0x10 ∧ RefusedWith (.debugEnd e) e s 0x10) ∧
    (plain → entryClear e [(0, 1), (8, 8)] →
      let w (i : Nat) : Word := BitVec.ofNat 64 (ofBytes (rdBytes s.mem (hostKey (n 8 8) + 8 * i) 8))
      AnswersChecked (.debugWriteSlots e) e s [(hostOk s (n 8 8) 128 = true, 0x30)] (fun u _ _ =>
        let o := (u.ctx c).obs
        CtxChange s u c { s.ctx c with obs := { (s.ctx c).obs with bp := o.bp, wctl := o.wctl, wlimit := o.wlimit } } ∧
        (∀ k, k < 8 → mget 0 o.bp k = w k &&& 0x807FFFFFFFFFFFFF) ∧
        ∀ k, k < 4 → mget 0 o.wctl k = w (8 + 2 * k) &&& 0xE07FFFFFFFFFFFFF ∧ mget 0 o.wlimit k = w (9 + 2 * k) &&& 0x007FFFFFFFFFFFFF)) ∧
    (plain → operands → (∀ t ∈ s.threads, ¬ named t) →
      (n 12 4 ≠ 0xFFFFFFFF → RefusedWith (.debugHalt e) e s 0x10) ∧ RefusedWith (.debugResume e) e s 0x10 ∧
      RefusedWith (.debugStep e) e s 0x10 ∧ RefusedWith (.debugFocus e) e s 0x10 ∧ RefusedWith (.debugEnd e) e s 0x10) ∧
    (plain → operands → n 12 4 = 0xFFFFFFFF → Answers (.debugHalt e) e s (fun u _ _ =>
      let asked (t : Thread) : Prop := t.name.hail = false ∧ t.name.ctx = c ∧ t.name.launch = n 8 4 ∧ t.status ≠ .retiring ∧
        (s.team t.name.uid).state = .resident ∧ t.status ≠ .halted ∧ t.status ≠ .absent
      (asked s.thr → u.thr = { s.thr with haltReq := true }) ∧ (¬ asked s.thr → u.thr = s.thr) ∧
      u.parked.length = s.parked.length ∧ u = { s with thr := u.thr, parked := u.parked } ∧
      ∀ (k : Nat) (t : Thread), s.parked[k]? = some t → t.status ≠ .absent →
        (asked t → u.parked[k]? = some { t with haltReq := true }) ∧ (¬ asked t → u.parked[k]? = some t))) ∧
    (∀ t, plain → operands → group t →
      (n 12 4 ≠ 0xFFFFFFFF → t.status ≠ .halted → changes (.debugHalt e) { t with haltReq := true }) ∧
      (t.status ≠ .halted → RefusedWith (.debugResume e) e s 0x10 ∧ RefusedWith (.debugStep e) e s 0x10 ∧
        RefusedWith (.debugFocus e) e s 0x10 ∧ RefusedWith (.debugEnd e) e s 0x10) ∧
      (t.status = .halted →
        changes (.debugResume e) { t with status := .ready, step := false, stepDone := false, skipBp := true } ∧
        changes (.debugStep e) { t with status := .ready, step := true, stepDone := false, skipBp := true } ∧
        (let l := n 16 1
         let focus : Entry := .focus { lane := l, pend := t.m0 &&& ~~~ ((1 : Word) <<< l), fpc := t.pc }
         (t.active.getLsbD l = true → (∀ x, Entry.focus x ∉ t.stack) → ({ t with stack := focus :: t.stack } : Thread).spillFits = true →
           changes (.debugFocus e) { t with stack := focus :: t.stack, m0 := (1 : Word) <<< l }) ∧
         (t.active.getLsbD l = false ∨ (∃ x, Entry.focus x ∈ t.stack) → RefusedWith (.debugFocus e) e s 0x10)) ∧
        (t.pending = [] → Answers (.debugEnd e) e s (fun u _ _ => u.thr = t.retire ∧ u.mem = s.mem ∧ u.parked = s.parked))))

/-- What the host writes to BAR0 (19 R372, R379, R382, R384; 16 R303): each write changes what its rule says, and nothing else; a
write that its rule turns away changes nothing. -/
def Obligations.HubWrites : Prop :=
  ∀ (s : State),
    let h := s.hub
    let started (t : State) : Prop := (∀ p, mget {} t.hub.ports p = if p < 12 then { mget {} h.ports p with state := 1 } else mget {} h.ports p)
    let limit (v : Word) : Nat := (v.extractLsb' 0 12).toNat
    let pwr (v : Word) : Hub := { h with
      pwrLimit := if h.pwrLock = true ∨ limit v < 600 ∨ 2400 < limit v then h.pwrLimit else limit v
      pwrLock := h.pwrLock || v.getLsbD 12 }
    let owned (n : Nat) : Prop := (n + 256 - h.cqHead) % 256 < (h.cqTail + 256 - h.cqHead) % 256
    (∀ v, exec (.devstatMode v) s = .next { s with hub := { h with mode := if h.state = 1 then v else h.mode } }) ∧
    (∀ v, EventGives (.devstatGo v) s (v = true ∧ h.state = 1) (fun t =>
      started t ∧ t = { s with hub := { h with state := 2, ports := t.hub.ports } })) ∧
    (∀ v, exec (.pwrctlWrite v) s = .next { s with hub := pwr v }) ∧
    (∀ v, exec (.devnumWrite v) s = .next { s with hub := { h with devnum := v } }) ∧
    (∀ port win reg v, EventGives (.fenceWindowWrite port win reg v) s (port ≤ 12 ∧ win ≤ 15 ∧ reg ≤ 3) (fun t =>
      let locked := (fenceReg h port win 0).getLsbD 30
      t = { s with hub := { h with fsel := port + 16 * win, fence := t.hub.fence } } ∧
      (locked = true → t.hub.fence = h.fence) ∧
      (locked = false → ∀ p w r, p ≤ 12 → w ≤ 15 → r ≤ 3 → fenceReg t.hub p w r =
        if p = port ∧ w = win ∧ r = reg then
          (if reg ≠ 0 then v else if port = 12 then v &&& 0xE0000000 else v &&& 0xE0FFFFFF)
        else fenceReg h p w r))) ∧
    (∀ off v, off < 0x4000 → EventGives (.registerWrite off v) s (off % 8 = 0 ∧ ¬ owned (off / 64)) (fun t =>
      KeySet 0 h.cq t.hub.cq (off / 8) v ∧ t = { s with hub := { h with cq := t.hub.cq } })) ∧
    (∀ v, exec (.registerWrite 0x6000 v) s = .next { s with hub := { h with cqTail := v.toNat % 256 } }) ∧
    (∀ v, (∀ x ∈ s.launches, x.2.owed = false) →
      exec (.registerWrite 0x6018 v) s = .next { s with hub := { h with cplHead := v.toNat % 256 } }) ∧
    (∀ v, ∃ t, exec (.registerWrite 0x6020 v) s = .next t ∧
      t = { s with hub := { h with mode := t.hub.mode, state := t.hub.state, ports := t.hub.ports } } ∧
      t.hub.mode = (if h.state = 1 then v.getLsbD 6 else h.mode) ∧
      (v.getLsbD 5 = true ∧ h.state = 1 → t.hub.state = 2 ∧ started t) ∧
      (¬ (v.getLsbD 5 = true ∧ h.state = 1) → t.hub.state = h.state ∧ t.hub.ports = h.ports)) ∧
    (∀ v, exec (.registerWrite 0x6100 v) s = .next { s with hub := pwr v }) ∧
    (∀ off v, 0x4000 ≤ off → off ≠ 0x6000 → off ≠ 0x6018 → off ≠ 0x6020 → off ≠ 0x6100 → exec (.registerWrite off v) s = .next s)

/-- What comes over the links and from the host (19 R371, R379, R380, R383 step 6; 01 R24, R25): training sets the ports and steps
GTS forward, an access of a host window reads or writes the 64 bytes that the context's tables map there and is refused whole
where any of its checks fails, and a message of another device is a sector that is
written whole or, where a check fails, not at all, or a contribution. A failed port ends the commands that use it. That a message waits
until GTS has passed its stamp is the model's way to have the later GTS of 01 R25 (DESIGN CHOICE, log 15). -/
def Obligations.LinksAndHost : Prop :=
  ∀ (s : State),
    let h := s.hub
    (∀ (g : Word) (up : BitVec 12), EventGives (.linkTraining g up) s (h.state = 2) (fun t =>
      t = { s with hub := { h with state := 3, gts := t.hub.gts, ports := t.hub.ports } } ∧
      t.hub.gts.toNat = max h.gts.toNat g.toNat ∧
      ∀ p, mget {} t.hub.ports p = if 12 ≤ p then mget {} h.ports p
        else if up.getLsbD p = true then { mget {} h.ports p with state := 2, peer := Config.peer p }
        else { mget {} h.ports p with state := 0 })) ∧
    (∀ (win off : Nat) (key : Nat → Nat),
      let c := (mget (0, 0, 0) h.windows win).1
      let va := (mget (0, 0, 0) h.windows win).2.1
      let n := (mget (0, 0, 0) h.windows win).2.2
      let admitted : Prop := h.state = 3 ∧ off % 64 = 0 ∧ off + 64 ≤ n ∧ s.hasCtx c = true ∧ (s.ctx c).word.getLsbD 15 = false
      let reached (write : Bool) : Prop := ∀ i, i < 64 → ∃ e,
        translate s c (va + off + i) = .ok (key i, e) ∧ pageCheck s [] e (key i) 1 write none = none
      (¬ admitted → ∀ wr, exec (.cxlMemAccess win off wr) s = .next s) ∧
      (0x4000000000 ≤ va → va + n ≤ 2 ^ 54 → admitted →
        (∀ wr i cause, i < 64 → translate s c (va + off + i) = .error cause → exec (.cxlMemAccess win off wr) s = .next s) ∧
        (reached false → ∃ t, exec (.cxlMemAccess win off none) s = .next t ∧
          t = { s with hub := { h with cxlData := t.hub.cxlData } } ∧
          ∀ i, i < 64 → t.hub.cxlData.extractLsb' (8 * i) 8 = rdByte s.mem (key i)) ∧
        (∀ v : BitVec 512, reached true → NoValueWait s → ∃ t, exec (.cxlMemAccess win off (some v)) s = .next t ∧
          t = { s with mem := t.mem, poisonMem := t.poisonMem } ∧
          (∀ i, i < 64 → (∀ j, i < j → j < 64 → key j ≠ key i) → rdByte t.mem (key i) = v.extractLsb' (8 * i) 8) ∧
          ∀ k, (∀ i, i < 64 → key i ≠ k) → rdByte t.mem k = rdByte s.mem k))) ∧
    (∀ r, h.state ≠ 3 → exec (.remoteTransaction r) s = .next s) ∧
    (∀ r, h.gts.toNat ≤ (sentAt r).toNat → exec (.remoteTransaction r) s = .next s) ∧
    (∀ (stamp : Word) c comm n dev desc data poison, h.state = 3 → stamp.toNat < h.gts.toNat →
      ∃ t, exec (.remoteTransaction (.contribution stamp c comm n dev desc data poison)) s = .next t ∧
        t = { s with hub := { h with ports := t.hub.ports }, contribs := t.contribs } ∧
        ((∃ x ∈ s.contribs, x.ctx = c ∧ x.comm = comm ∧ x.seqNo = n ∧ x.dev = dev) → t.contribs = s.contribs) ∧
        ((¬ ∃ x ∈ s.contribs, x.ctx = c ∧ x.comm = comm ∧ x.seqNo = n ∧ x.dev = dev) →
          t.contribs = s.contribs ++
            [{ ctx := c, comm := comm, seqNo := n, dev := dev, desc := desc, data := data, poison := poison }])) ∧
    (∀ (stamp : Word) (c va : Nat) (tag : BitVec 4) (bytes : List (Nat × Byte)) (key : Nat → Nat), h.state = 3 →
      stamp.toNat < h.gts.toNat → 0x4000000000 ≤ va → (∀ b ∈ bytes, va + b.1 < 2 ^ 54) →
      ∃ t, exec (.remoteTransaction (.write stamp c va tag bytes)) s = .next t ∧
        (s.hasCtx c = true → NoValueWait s →
          (∀ b ∈ bytes, ∃ e, translate s c (va + b.1) = .ok (key b.1, e) ∧ pageCheck s [] e (key b.1) 1 true (some tag) = none) →
          t = { s with hub := { h with ports := t.hub.ports }, mem := t.mem, poisonMem := t.poisonMem } ∧
          (∀ b ∈ bytes, (∀ d ∈ bytes, key d.1 = key b.1 → d = b) → rdByte t.mem (key b.1) = b.2) ∧
          ∀ k, (∀ b ∈ bytes, key b.1 ≠ k) → rdByte t.mem k = rdByte s.mem k) ∧
        (∀ b ∈ bytes, ∀ k e cause, translate s c (va + b.1) = .error cause ∨
            (translate s c (va + b.1) = .ok (k, e) ∧ pageCheck s [] e k 1 true (some tag) = some cause) →
          t = { s with hub := { h with ports := t.hub.ports } })) ∧
    (∀ port, EventGives (.linkFailure port) s (h.state = 3 ∧ port ≤ 11) (fun t =>
      (mget {} t.hub.ports port).state = 3 ∧
      ((∀ x ∈ s.colls, x.2.done = true) → (∀ x ∈ s.cmds, x.2.remote = false) →
        KeySet {} h.ports t.hub.ports port { mget {} h.ports port with state := 3 } ∧
        t = { s with hub := { h with ports := t.hub.ports } }) ∧
      ((∀ x ∈ s.colls, x.2.done = true) → (∀ x ∈ s.cmds, x.2.id = x.1) → ∀ n d, s.hasCmd n = true →
        (s.cmd n).started = true → (s.cmd n).failed = false → (s.cmd n).done = false → (s.cmd n).sectorsDone = false →
        (s.cmd n).device = some d → portTo h d = port → (t.cmd n).failed = true)))

/-- Limits and resets (19 R381, R383; 16 R312; 14 R268; 17 R344, R346): each condition, and what changes when it holds.
That all of memory reads zero after a reset is a DESIGN CHOICE (log 4; R383 zeroes the tag carve-out alone), and that the clock does not fall
below 0 MHz is DEDUCED (log 64). -/
def Obligations.LimitsAndReset : Prop :=
  ∀ (s : State),
    let h := s.hub
    let hot (d : Nat) : Nat := (mget 0 h.temp d).toNat
    let slow (d : Nat) : Nat := mget 0 h.slowed d
    let isReset (trip : Bool) (t : State) : Prop :=
      t = { State.reset with
        mem := t.mem, turn := s.turn, tick := s.tick, clock := s.clock, nextId := s.nextId
        hub := { trip := trip, rollback := h.rollback, pwrNow := h.pwrNow, temp := h.temp, hot := h.hot } } ∧
      ∀ k, rdByte t.mem k = if hostKey 0 ≤ k ∧ k < hostKey (2 ^ 64) then rdByte s.mem k else 0
    let changed (core : Nat) (k : Nat) : Prop := if h.mode = true then k < 160 else k = core
    let exceeds (core : Nat) : Prop := if h.mode = true then h.hot ≠ [] else core ∈ h.hot
    let due (core : Nat) : Prop := ∀ g, (s.core core).budgetAt = some g → 100000 ≤ h.gts.toNat - g.toNat
    let budgets (core : Nat) (b : Core → Nat) (t : State) : Prop := t = { s with cores := t.cores } ∧
      ∀ k, (changed core k → t.core k = { s.core k with budget := b (s.core k), budgetAt := some h.gts }) ∧
        (¬ changed core k → t.core k = s.core k)
    EventGives .powerThrottle s (h.pwrLimit < h.pwrNow.toNat) (fun t =>
      t = { s with hub := { h with slowed := t.hub.slowed } } ∧
      ∀ d, mget 0 t.hub.slowed d = if d < 4 then min (slow d + 50) 1900 else slow d) ∧
    (∀ d, EventGives (.arithmeticClockRise d) s (h.pwrNow.toNat ≤ h.pwrLimit ∧ hot d ≤ 840) (fun t =>
      t = { s with hub := { h with slowed := t.hub.slowed } } ∧ KeySet 0 h.slowed t.hub.slowed d (slow d - 50))) ∧
    (∀ d, EventGives (.dieOvertemp d) s (d < 5 ∧ 840 < hot d) (fun t =>
      t = { s with hub := { h with slowed := t.hub.slowed } } ∧ KeySet 0 h.slowed t.hub.slowed d (max (slow d) 1425))) ∧
    EventGives .thermalTrip s (∃ d, d < 5 ∧ 920 < hot d) (isReset true) ∧
    EventGives .deviceReset s True (isReset false) ∧
    EventGives .slotUpdatePoint s
      (h.staged ≠ [] ∧ (h.cplTail + 1) % 256 ≠ h.cplHead ∧ ∀ t ∈ s.threads, t.routine = none)
      (fun t => ∃ u : State, t = u.putCpl h.stagedTag 0 0 0 0 ∧ u = { s with hub := { h with solder := u.hub.solder, staged := [] } } ∧
        ((h.staged.map (·.1)).Nodup → ∀ x ∈ h.staged, mget {} u.hub.solder x.1 = x.2) ∧
        ∀ n, (∀ x ∈ h.staged, x.1 ≠ n) → mget {} u.hub.solder n = mget {} h.solder n) ∧
    (∀ core, EventGives (.budgetLower core) s (exceeds core ∧ due core) (budgets core (fun c => c.budget - 16))) ∧
    (∀ core, EventGives (.budgetRaise core) s (¬ exceeds core ∧ due core ∧ (s.core core).budget < (s.core core).budgetSet)
      (budgets core (fun c => if c.budget < c.budgetSet then min (c.budget + 16) c.budgetSet else c.budget))) ∧
    (∀ c, s.hasCtx c = true → ∃ t, exec (.softError (.corrected c)) s = .next t ∧
      CtxChange s t c { s.ctx c with counters := { (s.ctx c).counters with corrected := (s.ctx c).counters.corrected + 1 } }) ∧
    (∀ k, ∃ t, exec (.softError (.sector k)) s = .next t ∧ t = { s with poisonMem := t.poisonMem } ∧
      ∀ j, j ∈ t.poisonMem ↔ j = k ∨ j ∈ s.poisonMem) ∧
    (∀ slot lane, s.thr.status ≠ .absent → (∀ x ∈ s.parked, x.id ≠ s.thr.id) →
      let strikes (e : SoftError) (item : Nat) (list : Poison → List Nat) (p : Poison → Poison) : Prop :=
        ∃ t, exec (.softError e) s = .next t ∧ t = { s with thr := { s.thr with poison := t.thr.poison } } ∧
          (∀ j, j ∈ list t.thr.poison ↔ j = item ∨ j ∈ list s.thr.poison) ∧ p t.thr.poison = p s.thr.poison
      strikes (.laneWord s.thr.id slot lane) (64 * slot + lane) (·.v) (fun p => { p with v := [] }) ∧
      strikes (.sReg s.thr.id slot) slot (·.s) (fun p => { p with s := [] }) ∧
      strikes (.aReg s.thr.id slot) slot (·.a) (fun p => { p with a := [] }) ∧
      strikes (.tileRow s.thr.id slot lane) (64 * slot + lane) (·.t) (fun p => { p with t := [] }) ∧
      strikes (.accRow s.thr.id slot lane) (64 * slot + lane) (·.z) (fun p => { p with z := [] })) ∧
    (∀ core n lane, ∃ t, exec (.softError (.returnBuffer core n lane)) s = .next t ∧ t = { s with cores := t.cores } ∧
      (∀ k, k ≠ core → t.core k = s.core k) ∧ t.core core = { s.core core with buffer := (t.core core).buffer } ∧
      (t.core core).buffer.length = (s.core core).buffer.length ∧
      ∀ (i : Nat) (b : Burst), (s.core core).buffer[i]? = some b → ∃ b', (t.core core).buffer[i]? = some b' ∧
        b' = { b with poison := b'.poison } ∧ ∀ j, j ∈ b'.poison ↔ (i = n ∧ j = lane ∧ 4 * lane < b.data.length) ∨ j ∈ b.poison) ∧
    (∀ tid, (s.focus tid).thr.name.hail = false → (s.focus tid).thr.pending = [] →
      ThreadEvent (.softError (.control tid)) tid s (fun u => u.thr.status ≠ .retiring)
        (fun u t => t.thr = u.thr.retire ∧ t.parked = u.parked ∧ t.mem = u.mem ∧
          let n := u.thr.name.ctx
          (solderPick u n true 0x63 = none → u.hasCtx n = true → ∃ r ∈ (t.ctx n).ring, r.extractLsb' 0 8 = (0x63 : BitVec 8)))) ∧
    (∀ c, DistinctThreads s → (∀ x ∈ s.threads, x.name.ctx = c → x.pending = []) →
      ∃ t, exec (.softError (.table c)) s = .next t ∧ t.mem = s.mem ∧
      ∀ x ∈ t.threads, x.name.hail = false → x.name.ctx = c → x.status = .retiring) ∧
    (∀ n, s.hasCmd n = true → (s.cmd n).id = n → ∃ t, exec (.softError (.engine n)) s = .next t ∧
      (t.cmd n).failed = true ∧ t.mem = s.mem)

/-- Results, stores and traps that come to a thread between its slots (03 R57; 09 R172, R179, R193; 10 R209; 16 R311; 17 R323,
R340; 18 R361, R365): the condition of each, and what it does to the thread. When a sample is due, one clock count serving every die, is a
DESIGN CHOICE (log 60); its stall reason is left open here. -/
def Obligations.ThreadEvents : Prop :=
  ∀ (tid : Nat) (s : State),
    let u := s.focus tid
    -- the oldest pending instruction that is not done is `p`, between `pre` and `post`
    let next (u : State) (pre : List Pend) (p : Pend) (post : List Pend) : Prop :=
      u.thr.pending = pre ++ p :: post ∧ (∀ q ∈ pre, q.work = .done) ∧ p.work ≠ .done
    let served (u : State) : Prop := (u.core u.thr.place.core).serves = some u.thr.name.ctx
    let may (u : State) : Prop := u.thr.routine = none ∧ served u ∧ (u.core u.thr.place.core).switching = none ∧
      (u.thr.name.hail = true ∨ ((u.ctx u.thr.name.ctx).stopping = false ∧ (u.team u.thr.name.uid).state = .resident)) ∧
      (u.thr.status = .ready ∨ ∃ w, u.thr.status = .waiting w ∧ (∀ i p, w ≠ .bar i p) ∧ ∀ i p, w ≠ .sbar i p)
    (∀ key size cc sg v, u.thr.status = .waiting (.val key size cc sg v) → s.thr = u.thr → u.thr.id = tid →
      (∀ x ∈ s.parked, x.id ≠ tid) → (s.team s.thr.name.uid).state = .resident →
      EventGives (.waitvReread tid) s (waitvHolds s s.thr key size cc sg v = true) (fun t =>
        t = { s with thr := { s.thr with status := .ready, sched := { s.thr.sched with waitSince := 0 }, pc := s.thr.pc + 8 } })) ∧
    (∀ pre p post, NoWait u → next u pre p post →
      let left (w : PendWork) : State := { u with thr := { u.thr with pending := pre ++ { p with work := w } :: post } }
      let returned (t : State) : Prop := t = (left .done).doWork p
      -- a sector of a load arrives: what it holds is written, and the lanes of other sectors stay out (09 R179)
      let comes (work : List LaneAcc → PendWork) (accs : List LaneAcc) (t : State) : Prop := ∃ sec : Nat,
        let (a, b) := accs.partition (fun x => x.key.all (fun k => k / 32 == sec))
        (b = [] → returned t) ∧ (b ≠ [] → t = (left (work b)).doWork { p with work := work a })
      ThreadEvent (.loadDataReturn tid) tid s (fun u => served u ∧ p.loads = true) (fun _ t =>
        (∀ d fc et accs, p.work = .load d fc et accs → comes (.load d fc et) accs t) ∧
        (∀ d fc accs, p.work = .ltag d fc accs → comes (.ltag d fc) accs t) ∧
        (∀ opn d fc et accs data cmp, p.work = .atom opn d fc et accs data cmp → returned t) ∧
        (∀ acc n secs clear rows bad, p.work = .tload acc n secs clear rows bad →
          (secs.length ≤ 1 → returned t) ∧
          (∀ sec next more, secs = sec :: next :: more →
            t = { u with thr := { t.thr with pending := (left (.tload acc n (next :: more) clear rows
              (bad ++ poisonedRows u p.ord acc [sec]))).thr.pending } } ∧
            t.thr = { u.thr with tiles := t.thr.tiles, poison := t.thr.poison, pending := t.thr.pending } ∧
            (acc = false → (sec.fills.map (·.2)).Nodup →
              ∀ x ∈ sec.fills, mget 0 t.thr.tiles.t x.2 = loadByte u u.thr p.ord (sec.key + x.1))))) ∧
      ThreadEvent (.resultWriteback tid) tid s (fun u => served u ∧ p.loads = false) (fun _ t => returned t)) ∧
    (∀ e rest, NoWait u → u.thr.queue = e :: rest →
      ThreadEvent (.storePerform tid) tid s (fun u => served u ∧ ∀ p ∈ u.thr.pending, p.loads = true → e.ord < p.ord)
        (fun u t => (∀ k, rdByte t.mem k = rdByte (wrCells u.mem e.bytes) k) ∧
          (∀ g, (∀ x ∈ e.tags, x.1 ≠ g) → mget 0 t.tags g = mget 0 u.tags g) ∧
          t = { u with mem := t.mem, tags := t.tags, poisonMem := t.poisonMem, thr := { u.thr with queue := rest } })) ∧
    (∀ tr rest, u.thr.held = tr :: rest → tr.cause ≠ 0x3A →
      ThreadEvent (.asyncTrapDelivery tid) tid s may (fun u t =>
        t = ({ u with thr := { u.thr with held := rest } } : State).completeAll.takeTrap tr
          (if u.thr.status = .ready then 0 else hereLength u))) ∧
    (u.thr.held = [] →
      ThreadEvent (.asyncTrapDelivery tid) tid s (fun u => may u ∧ (u.thr.stepDone = true ∨ u.thr.haltReq = true)) (fun u t =>
        t = u.completeAll.takeTrap { cause := if u.thr.stepDone then 0x7A else 0x7B } (hereLength u))) ∧
    ThreadEvent (.handlerInstructionLimit tid) tid s (fun u => u.thr.name.hail = true ∧ 512 ≤ u.thr.hailCount ∧
        decodesNext u = true)
      (fun u t => t = u.completeAll.takeTrap { cause := 0x54 } (hereLength u)) ∧
    ThreadEvent (.emulationLimit tid) tid s (fun u => (∃ r, u.thr.routine = some r ∧ 4096 ≤ r.count) ∧ decodesNext u = true)
      (fun u t => t = u.completeAll.takeTrap { cause := 0x3E } (hereLength u)) ∧
    ThreadEvent (.supervisorWatchdog tid) tid s (fun u => ∃ v, u.thr.service = some v ∧ 65536 ≤ v.count)
      (fun u t => t.thr.status = .retiring ∧ t.thr.m0 = 0 ∧ t.parked = u.parked ∧ t.mem = u.mem) ∧
    (∀ core part, EventGives (.starvationGuard core part) s (∃ x ∈ readyThreads s core part, x.sched.starve = 64) (fun t =>
      t.mem = s.mem ∧ t.thr.sched.starve = 0 ∧ ∃ x ∈ readyThreads s core part, t.thr.id = x.id ∧
        ((∃ y ∈ readyThreads s core part, y.sched.starve = 64 ∧ Config.stalls s.tick y.id = false) → x.sched.starve = 64))) ∧
    (DistinctThreads s → (∀ x ∈ s.launches, x.2.owed = false) → ∀ g : Thread, s.thread? tid = some g →
      EventGives (.groupSlotFree tid) s ((s.core g.place.core).serves = some g.name.ctx ∧ g.name.hail = false ∧
          g.status = .retiring ∧ g.queue = []) (fun t =>
        (∀ x ∈ t.threads, x.id ≠ tid) ∧ t.mem = s.mem ∧
        (2 ≤ (s.team g.name.uid).live → (t.team g.name.uid).live = (s.team g.name.uid).live - 1) ∧
        ((s.team g.name.uid).live ≤ 1 → (t.team g.name.uid).state = .retired))) ∧
    (∀ core part ctx, (s.core core).serves = some ctx → s.hasCtx ctx = true → mget 7 (s.core core).sampled part < 8 →
      let w := (s.ctx ctx).obs.word
      let period := 2 ^ (w.extractLsb' 4 5).toNat
      let due : Prop := w.getLsbD 3 = true ∧ mget 0 (s.core core).sampleAt part ≤ s.clock ∧ (s.clock - (s.core core).since) % period = 0
      let mine (x : Thread) : Prop := x ∈ residentGroups s core ∧ x.place.part = part ∧ x.place.slot < 8
      EventGives (.sample core part) s (due ∧ ∃ x, mine x) (fun t =>
        (∃ k, k < 32 ∧ ∀ j, mget 0 (t.ctx ctx).counters.stall j = mget 0 (s.ctx ctx).counters.stall j + if j = k then 1 else 0) ∧
        t.threads = s.threads ∧ mget 0 (t.core core).sampleAt part = s.clock + 1 ∧
        ∃ x, mine x ∧ mget 7 (t.core core).sampled part = x.place.slot ∧
          ∀ y, mine y → (x.place.slot + 15 - mget 7 (s.core core).sampled part) % 8 ≤
            (y.place.slot + 15 - mget 7 (s.core core).sampled part) % 8))

/-- Teams and contexts between their slots (14 R257-R261, R272-R276, R278, R395; 17 R350, R351, R397; 20 R387, R388): placement,
swap-out and re-admission, and the switch of a core between contexts. Private stacks leave a core's slice with their groups and come
back to it: the region that keeps them meanwhile is a DESIGN CHOICE, and the stack's place in the slice, by partition and slot, DEDUCED (log 49).
DEDUCED too is what CHARGED counts (log 59), and a DESIGN CHOICE the age of groups (log 71). -/
def Obligations.TeamEvents : Prop :=
  ∀ (s : State),
    let standing (core ctx : Nat) : Prop := (s.core core).serves = some ctx ∧ (s.core core).switching = none
    let coreBecomes (t : State) (core : Nat) (c : Core) : Prop := t.core core = c ∧ ∀ k, k ≠ core → t.core k = s.core k
    let plain (tm : Team) : Prop := tm.ctx < 64 ∧ tm.core < 160 ∧ tm.uid < 2 ^ 44 ∧ tm.kernel.shared ≤ 1048576 ∧ ∀ u ∈ tm.units, u < 1024
    let bytes (tm : Team) : Nat := 1024 * tm.kernel.sharedUnits
    let groups (uid : Nat) : List Thread := s.threads.filter (fun t => t.name.uid == uid && !t.name.hail)
    -- the one group `g` of some has a private stack in memory, byte `j` of it at `stack`, and away from the core at `kept`
    let stack (g : Thread) (p : Place) (j : Nat) : Nat := stackKey s g.name.ctx p (32768 + j)
    let kept (g : Thread) (j : Nat) : Nat := privKey g.id (32768 + j)
    let deep (ctx : Nat) : Prop := (s.ctx ctx).word.getLsbD 12 = true
    let sane (g : Thread) : Prop := g.place.core < 160 ∧ g.place.part < 8 ∧ g.place.slot < 8 ∧ g.id < 2 ^ 32
    (∀ die, nextUnit s die = none → exec (.placeTeam die) s = .next s ∧ exec (.placeSpan die) s = .next s) ∧
    (∀ die ctx key s', nextUnit s die = some (ctx, key, s') →
      let l := s.launch key
      let k := l.kernel
      let takes (c : Nat) : Prop := c / 40 = die ∧ takesNew s l.ctx c = true ∧ (admits s c k k.groups true).isSome = true
      (k.span ≤ 1 → exec (.placeSpan die) s = .next s ∧ ∃ t core ps, exec (.placeTeam die) s = .next t ∧
        takes core ∧ (∀ c, takes c → core ≤ c) ∧ admits s core k k.groups true = some ps ∧
        mget 63 t.lastPlaced die = ctx ∧ t.mem = s.mem ∧
        (t.team s.nextId).units.length = k.sharedUnits ∧ (∀ u ∈ (t.team s.nextId).units, u ∈ freeUnits s core) ∧
        t.team s.nextId = { uid := s.nextId, ctx := l.ctx, launch := key, index := l.next, core := core, kernel := k, cost := k.cost
                            live := k.groups, units := (t.team s.nextId).units, binds := l.binds, argAddr := l.argAddr } ∧
        t.launch key = { l with next := l.next + 1, started := l.started ||| 2 ^ die } ∧
        ∀ (g : Nat) (p : Nat × Nat), ps[g]? = some p →
          newGroup l (s.nextId + 1 + g) s.nextId l.next g { core := core, part := p.1, slot := p.2 } s.tick ∈ t.parked) ∧
      (2 ≤ k.span → exec (.placeTeam die) s = .next s ∧ ∃ t, exec (.placeSpan die) s = .next t ∧
        mget 63 t.lastPlaced die = ctx ∧ t.mem = s.mem ∧
        t.launch key = { l with next := l.next + k.span, started := l.started ||| 2 ^ die })) ∧
    (∀ team, s.teams.any (fun p => p.1 == team) = true →
      let tm := s.team team
      let c := s.ctx tm.ctx
      let gs := (groups team).filter (fun t => t.status != .retiring)
      EventGives (.swapOut team) s
        (tm.state = .resident ∧ standing tm.core tm.ctx ∧ c.swapWait ≠ 0 ∧ tm.kernel.span ≤ 1 ∧ gs ≠ [] ∧
          (∀ g ∈ gs, g.held = [] ∧ c.swapWait + g.sched.waitSince ≤ s.clock ∧
            ((∃ i p, g.status = .waiting (.tx i p)) ∨ ∃ k n cc sg v, g.status = .waiting (.val k n cc sg v)) ∧ wakes s g = false) ∧
          recordFrames c.spillSize tm.kernel ≤ c.swapFrames.length)
        (fun t => t.team team = { tm with state := .swapping } ∧ (∀ k, k ≠ team → t.team k = s.team k) ∧
          t = { s with teams := t.teams })) ∧
    (∀ team, let tm := s.team team
      let n := recordFrames (s.ctx tm.ctx).spillSize tm.kernel
      plain tm → s.memoryWf → s.hasCtx tm.ctx = true → EventGives (.swapOutComplete team) s
        (tm.state = .swapping ∧ (s.core tm.core).serves = some tm.ctx ∧
          (∀ g ∈ groups team, g.queue = [] ∧ (∀ p ∈ g.pending, p.work = .done) ∧ g.status ≠ .retiring) ∧
          ∀ x ∈ s.threads, x.name.uid = team → x.name.hail = false)
        (fun t => t.team team = { tm with
            state := if tm.wakeDue = true ∨ ∃ g ∈ groups team, wakes s g = true then .woken else .swapped
            units := [], frames := (s.ctx tm.ctx).swapFrames.take n, wakeDue := false } ∧
          CtxChange { s with ctxs := s.ctxs } { s with ctxs := t.ctxs } tm.ctx
            { s.ctx tm.ctx with swapFrames := (s.ctx tm.ctx).swapFrames.drop n } ∧
          ((∀ g ∈ groups team, sane g) → ∀ o, o < bytes tm → rdByte t.mem (recordKey tm.uid o) = rdByte s.mem (teamKey tm o)) ∧
          (∀ k, (k < recordKey tm.uid 0 ∨ recordKey tm.uid (bytes tm) ≤ k) →
            (∀ g ∈ groups team, deep g.name.ctx → ∀ j, j < 32768 → k ≠ stack g g.place j ∧ k ≠ kept g j) →
            rdByte t.mem k = rdByte s.mem k) ∧
          ∀ g, groups team = [g] → g.name.group < 32 → sane g → deep g.name.ctx → ∀ j, j < 32768 →
              rdByte t.mem (kept g j) = rdByte s.mem (stack g g.place j) ∧ rdByte t.mem (stack g g.place j) = 0)) ∧
    (∀ team ps, let tm := s.team team
      plain tm → s.memoryWf → tm.uid = team → s.hasCtx tm.ctx = true → DistinctThreads s →
      (admits s tm.core tm.kernel tm.live false = some ps) →
      EventGives (.readmission team) s (tm.state = .woken ∧ standing tm.core tm.ctx) (fun t =>
        let back := t.team team
        back = { tm with state := .resident, units := back.units, frames := [] } ∧ back.units.length = tm.kernel.sharedUnits ∧
        (∀ u ∈ back.units, u ∈ freeUnits s tm.core) ∧ (t.ctx tm.ctx).swapFrames = (s.ctx tm.ctx).swapFrames ++ tm.frames ∧
        (∀ o, o < bytes tm → rdByte t.mem (teamKey back o) = rdByte s.mem (recordKey team o) ∧ rdByte t.mem (recordKey team o) = 0) ∧
        (((groups team).map (·.name.group)).Nodup → (∀ g ∈ groups team, g.name.group < 32) → ∀ g ∈ groups team, ∀ p : Nat × Nat,
          ps[((groups team).filter (fun h => h.name.group < g.name.group)).length]? = some p →
          ∃ x ∈ t.threads, x.id = g.id ∧ x.pc = g.pc ∧ x.files = g.files ∧
            x.place = { core := tm.core, part := p.1, slot := p.2 } ∧ x.sched = { age := s.tick } ∧
            (groups team = [g] → g.id < 2 ^ 32 → deep g.name.ctx → p.1 < 8 → p.2 < 8 → ∀ j, j < 32768 →
              rdByte t.mem (stack g x.place j) = rdByte s.mem (kept g j))))) ∧
    (∀ team, (s.team team).state = .woken →
      admits s (s.team team).core (s.team team).kernel (s.team team).live false = none → exec (.readmission team) s = .next s) ∧
    (∀ core, let co := s.core core
      let assigned (n : Nat) : Prop := n < 64 ∧ some n ≠ co.serves ∧ s.hasCtx n = true ∧ core ∈ (s.ctx n).cores ∧ hasWork s core n = true
      let after := co.serves.getD 63
      after < 64 →
      EventGives (.contextTimeslice core) s
        (s.hub.mode = false ∧ co.switching = none ∧ (∃ n, assigned n) ∧
          ∀ cur, co.serves = some cur → (hasWork s core cur = false ∨ 1000000 ≤ s.hub.gts.toNat - co.sinceGts.toNat) ∧
            ¬ ∃ x ∈ s.threads, x.place.core = core ∧ x.name.ctx = cur ∧ x.routine.isSome = true ∧ x.held ≠ [])
        (fun t => (t.core core).switching.isSome = true ∧
          ((∀ x ∈ s.threads, x.place.core = core → some x.name.ctx = co.serves → x.held = []) →
            t = { s with cores := t.cores } ∧ ∃ n, assigned n ∧ coreBecomes t core { co with switching := some n } ∧
              ∀ m, assigned m → (n + 63 - after) % 64 ≤ (m + 63 - after) % 64))) ∧
    (∀ core cur, let co := s.core core
      co.serves = some cur → s.hasCtx cur = true → DistinctThreads s →
      let mine (x : Thread) : Prop := x.place.core = core ∧ x.name.ctx = cur
      let seats (x : Thread) : Prop := mine x ∧ (s.team x.name.uid).state = .resident
      let slice := stackKey s cur { core := core } 0
      let quiet : Prop := (∀ x ∈ s.threads, mine x → x.name.hail = false ∧ x.routine = none ∧ x.queue = [] ∧
          ∀ p ∈ x.pending, p.work = .done) ∧ co.buffer = [] ∧
        (∀ x ∈ s.cmds, x.2.core = core → x.2.ctx = cur → x.2.asked = []) ∧
        ∀ x ∈ s.teams, x.2.core = core → x.2.ctx = cur → x.2.state ≠ .swapping
      EventGives (.contextSwitch core) s ((∃ n, co.switching = some n) ∧ quiet) (fun t =>
        coreBecomes t core { co with bars := [], serves := none, sampleAt := [] } ∧
        t.ctx cur = { s.ctx cur with savedBars := (t.ctx cur).savedBars, budgets := (t.ctx cur).budgets } ∧
        KeySet (0, 0) (s.ctx cur).budgets (t.ctx cur).budgets core (co.budget, co.budgetSet) ∧
        (∀ k, slice ≤ k → k < slice + 64 * (s.ctx cur).spillSize → rdByte t.mem k = 0) ∧
        (∀ k, (k < slice ∨ slice + 64 * (s.ctx cur).spillSize ≤ k) →
          (∀ x ∈ s.threads, seats x → deep cur → x.place.part < 8 ∧ x.place.slot < 8 ∧ ∀ j, j < 32768 → k ≠ kept x j) →
          rdByte t.mem k = rdByte s.mem k) ∧
        (∀ x, seated s core cur = [x] → sane x → deep cur →
          ∀ j, j < 32768 → rdByte t.mem (kept x j) = rdByte s.mem (stack x x.place j)) ∧
        ((co.bars.map (·.1)).Nodup → ∀ b ∈ co.bars, mget {} (t.ctx cur).savedBars (core * 256 + b.1) = b.2) ∧
        ∀ (k : Nat) (x : Thread), s.parked[k]? = some x → ∃ y, t.parked[k]? = some y ∧ y.pc = x.pc ∧ y.files = x.files ∧
          (¬ seats x → y = x) ∧
          (seats x → (∀ i p, x.status = .waiting (.bar i p) ∨ x.status = .waiting (.sbar i p) → y = x) ∧
            (∀ w, x.status = .waiting w → (∀ i p, w ≠ .bar i p ∧ w ≠ .sbar i p) → y.status = .ready)))) ∧
    (∀ core, let co := s.core core
      co.serves = none → EventGives (.contextRestore core) s (∃ n, co.switching = some n) (fun t =>
        ∃ n, co.switching = some n ∧
          t = { s with cores := t.cores, ctxs := t.ctxs, mem := t.mem, poisonMem := t.poisonMem } ∧
          (let saved := ((s.ctx n).budgets.find? (fun b => b.1 == core)).map (·.2)
           coreBecomes t core { co with
            switching := none, serves := some n, since := s.clock, sinceGts := s.hub.gts, bars := (t.core core).bars, sampleAt := []
            budget := saved.elim co.budget (·.1), budgetSet := saved.elim co.budgetSet (·.2) }) ∧
          (deep n ∨ t.mem = s.mem) ∧
          (∀ x, seated s core n = [x] → sane x → deep n →
            ∀ j, j < 32768 → rdByte t.mem (stack x x.place j) = rdByte s.mem (kept x j)) ∧
          (∀ i, i < 256 → t.bar core i = mget {} (s.ctx n).savedBars (core * 256 + i)) ∧
          (s.hasCtx n = true → ∀ i, i < 256 → mget {} (t.ctx n).savedBars (core * 256 + i) = {})))

/-- The engines at work (09 R181, R185, R189-R192, R197; 10 R211, R218; 14 R271; 17 R341, R342): when each step of a command is
made, what it moves, and how the command ends. A sector of poisoned source bytes is poisoned, and one written whole without them is clean
(17 R345); the last sector of a KiB unit of shared memory that a copy writes whole sets the unit's tag to SWZ (09 R186; that it is the last one is
DEDUCED, log 27). -/
def Obligations.EngineEvents : Prop :=
  ∀ (n : Nat) (s : State),
    let c := s.cmd n
    let runs : Prop := (s.ctx c.ctx).stopping = false ∧
      (if c.node.isSome then s.hasCtx c.ctx = true
       else (s.core c.core).serves = some c.ctx ∧ (s.core c.core).switching = none)
    let active : Prop := s.hasCmd n = true ∧ c.started = true ∧ c.failed = false ∧ c.done = false ∧ c.suspended = none ∧ runs
    let cmdBecomes (t : State) (x : Cmd) : Prop := t.cmd n = x ∧ t.hasCmd n = true ∧ ∀ k, k ≠ n → t.cmd k = s.cmd k ∧ t.hasCmd k = s.hasCmd k
    let key (write : Bool) (p : Word) : Except Nat Nat := engineReach s c.ctx c.core c.uid write c.swz p 1
    c.id = n → NoWait s →
    EventGives (.engineCommandStart n) s
      (s.hasCmd n = true ∧ c.started = false ∧ c.failed = false ∧ runs ∧
        ∀ g, s.thread? c.tid = some g → (∀ e ∈ g.queue, c.ord ≤ e.ord) ∧ ∀ p ∈ g.pending, p.loads = true → c.ord ≤ p.ord)
      (fun t => ((∀ k, c.node = some k → (s.node k).kind = some 1) →
          t = { s with cmds := t.cmds } ∧ ∃ b, cmdBecomes t { c with started := true, sectorsDone := b }) ∧
        ∀ k, c.node = some k → (s.node k).kind ≠ some 1 → t = ({ s with cmds := mdel s.cmds n } : State).runNode k) ∧
    (∀ (sec : Nat) (ms : List Move) (d r : Nat → Nat), c.remote = false → c.sectors[c.mark]? = some (sec, ms) →
      (∀ (i : Nat) (m : Move), ms[i]? = some m → (m.dst.extractLsb' 0 55).toNat < 2 ^ 54 ∧ key true m.dst = .ok (d i) ∧
        ∀ p, m.src = some p → (p.extractLsb' 0 55).toNat < 2 ^ 54 ∧ key false p = .ok (r i)) →
      EventGives (.copySectorPerform n) s (active ∧ c.sectorsDone = false) (fun t =>
        cmdBecomes t { c with mark := c.mark + 1, sectorsDone := c.mark + 1 == c.sectors.length } ∧
        t = { s with mem := t.mem, poisonMem := t.poisonMem, swz := t.swz, cmds := t.cmds } ∧
        (∀ (i : Nat) (m : Move), ms[i]? = some m → (∀ j, j < ms.length → d j = d i → j = i) →
          rdByte t.mem (d i) = (match m.src with | some _ => rdByte s.mem (r i) | none => m.val)) ∧
        (∀ k, (∀ i, i < ms.length → d i ≠ k) → rdByte t.mem k = rdByte s.mem k) ∧
        (let bad : Prop := ∃ (i : Nat) (m : Move), ms[i]? = some m ∧ if m.src.isSome then r i / 32 ∈ s.poisonMem else m.bad = true
         (bad → (∀ i, i < ms.length → d i / 32 ∈ t.poisonMem) ∧
           ∀ q, (∀ i, i < ms.length → d i / 32 ≠ q) → (q ∈ t.poisonMem ↔ q ∈ s.poisonMem)) ∧
         (¬ bad → ∀ q, q ∈ t.poisonMem ↔ q ∈ s.poisonMem ∧ ¬ ∀ j, j < 32 → ∃ i, i < ms.length ∧ d i = 32 * q + j)) ∧
        ((∀ dst src w e, c.work ≠ .copy dst src w e) → t.swz = s.swz) ∧
        ∀ dst src w e, c.work = .copy dst src w e →
          let mine := c.sectors.filter (fun x => x.1 / 32 == sec / 32)
          let whole : Prop := 32 * sec < 0x100000 ∧ (mine.flatMap (·.2)).length = 1024 ∧ ∀ x ∈ mine, x.1 ≤ sec
          ∀ k, (whole → k = swzKey (s.team c.uid) (sec / 32) → mget 0 t.swz k = BitVec.ofNat 3 (laySwz w)) ∧
            (¬ whole ∨ k ≠ swzKey (s.team c.uid) (sec / 32) → mget 0 t.swz k = mget 0 s.swz k))) ∧
    (c.remote = false → ∀ a cause, nextFailure s c = some (a, cause) → cause ≠ 0x3A →
      EventGives (.engineFault n) s (active ∧ c.sectorsDone = false) (fun t =>
        (t.cmd n).failed = true ∧ t.mem = s.mem ∧
        ((s.ctx c.ctx).ring.length < 1024 → s.hasCtx c.ctx = true → (t.ctx c.ctx).ring.length = (s.ctx c.ctx).ring.length + 1 ∧
          ∃ x ∈ (t.ctx c.ctx).ring, x.extractLsb' 0 8 = (0x50 : BitVec 8)) ∧
        ∀ g ∈ s.parked, g.id = c.tid → g.status ≠ .retiring → DistinctThreads s →
          ∃ y ∈ t.parked, y = { g with held := g.held ++ [c.fault50 cause c.watermark] })) ∧
    (c.remote = false → nextFailure s c = none → exec (.engineFault n) s = .next s) ∧
    (∀ (bs : List (Word × Nat × Nat × Nat)) (arg : Word) (h : Pc) (p : Word) (len k seg : Nat) (keys : List Nat),
      c.work = .hread bs arg h → bs[c.mark]? = some (p, len, k, seg) → keys.length = len →
      (∀ (i q : Nat), keys[i]? = some q → engineReach s c.ctx c.core c.uid false 0 (p + BitVec.ofNat 64 i) 1 = .ok q) →
      EventGives (.hailBurstRequest n) s (active ∧ placesTaken s c.core c.ctx < 64) (fun t =>
        t = { s with cmds := t.cmds } ∧ cmdBecomes t { c with mark := c.mark + 1, asked := c.asked ++ [(c.mark, keys)] })) ∧
    (∀ (bs : List (Word × Nat × Nat × Nat)) (arg : Word) (h : Pc) (burst : Nat) (p : Word) (len k seg : Nat) (keys : List Nat),
      c.work = .hread bs arg h → bs[burst]? = some (p, len, k, seg) → c.asked.find? (fun a => a.1 == burst) = some (burst, keys) →
      EventGives (.hailBurstReturn n burst) s (s.hasCmd n = true ∧ (s.core c.core).serves = some c.ctx) (fun t =>
        t = { s with cmds := t.cmds, cores := t.cores } ∧ cmdBecomes t { c with asked := c.asked.filter (fun a => a.1 != burst) } ∧
        (∀ j, j ≠ c.core → t.core j = s.core j) ∧ ∃ b : Burst,
          t.core c.core = { s.core c.core with buffer := (s.core c.core).buffer ++ [b] } ∧
          b.cmd = n ∧ b.index = k ∧ b.seg = seg ∧ b.addr = p ∧ b.data = keys.map (rdByte s.mem))) ∧
    (∀ (core : Nat) (b : Burst) (pre rest : List Burst) (part slot : Nat) (bs : List (Word × Nat × Nat × Nat)) (arg : Word) (h : Pc)
        (k : Kernel), (s.core core).buffer = pre ++ b :: rest → (∀ x ∈ pre, (s.team (s.cmd x.cmd).uid).state = .swapping) → b.cmd = n →
      (s.team c.uid).state ≠ .swapping →
      freeHailSlot s core = some (part, slot) → c.work = .hread bs arg h → handlerAt (s.ctx c.ctx) h.toNat h.toNat = some k →
      ∃ t, exec (.hailThreadBirth core) s = .next t ∧ t.mem = s.mem ∧ t.thr = s.thr ∧ cmdBecomes t { c with running := c.running + 1 } ∧
        (t.core core).buffer = pre ++ rest ∧ ∃ g ∈ t.parked, g.id = s.nextId ∧ g.name.hail = true ∧ g.name.cmd = n ∧ g.name.owner = c.tid ∧
          g.status = .ready ∧ g.place = { core := c.core, part := part, slot := slot } ∧ g.pc = h ∧ g.width = 64 ∧
          (∀ l, l < 64 → g.m0.getLsbD l = decide (4 * l < b.data.length)) ∧
          g.sReg 0 = BitVec.ofNat 64 (b.index % 65536 + b.seg % 65536 * 2 ^ 16 + b.data.length % 512 * 2 ^ 32) ∧
          g.sReg 1 = b.addr ∧ g.sReg 2 = arg ∧
          ∀ l, l < 64 → g.vReg 0 l = BitVec.ofNat 32 (ofBytes ((b.data.drop (4 * l)).take 4))) ∧
    (EventGives (.engineCompletionArrival n) s (active ∧ c.complete s = true) (fun t =>
      t.mem = s.mem ∧
      (c.node.isSome = true → t = { s with cmds := t.cmds } ∧ cmdBecomes t { c with done := true }) ∧
      (c.node.isSome = false → t.hasCmd n = false ∧
        (c.bar = 0 ∨ c.spoiled = true → t.cores = s.cores) ∧
        (c.bar ≠ 0 → c.spoiled = false → let i := (c.bar.extractLsb' 0 8).toNat
          let b := s.bar c.core i
          BarrierChange s t c.core i
            { b with pend := b.pend - 1, phase := if b.pend = 1 then (b.phase + 1) % 2 ^ 32 else b.phase, refs := b.refs - 1 })))) ∧
    (∀ page, c.suspended = some page → s.hasCmd n = true → c.failed = false → s.hasCtx c.ctx = true →
      let e := mget 0 (s.ctx c.ctx).leaf page
      let pool := (s.ctx c.ctx).poolFrames
      let served : Prop := ∃ g, s.thread? c.tid = some g ∧ ((∃ v, g.service = some v ∧ v.cmd = some n) ∨
        ((∃ tr ∈ g.held, tr.cause = 0x3A ∧ tr.cmd = some n) ∧ takesService s c.tid = true))
      (served → exec (.hubFirstTouchService n) s = .next s) ∧
      (¬ served → ∃ t, exec (.hubFirstTouchService n) s = .next t ∧
        (e.getLsbD 0 = true → (t.cmd n).suspended = none ∧ (t.cmd n).failed = false ∧ t.ctxs = s.ctxs) ∧
        (e.getLsbD 0 = false → e.getLsbD 5 = false → (t.cmd n).failed = true ∧ t.mem = s.mem) ∧
        (e.getLsbD 0 = false → e.getLsbD 5 = true → pool = [] → (t.cmd n).failed = true ∧ t.mem = s.mem) ∧
        ∀ f ∈ pool, e.getLsbD 0 = false → e.getLsbD 5 = true → (∀ g ∈ pool, f ≤ g) →
          mget 0 (t.ctx c.ctx).leaf page = (e &&& 0x1E) ||| (BitVec.ofNat 64 f <<< 16) ||| 1 ∧
          (t.ctx c.ctx).poolFrames = pool.erase f ∧ (t.cmd n).suspended = none ∧ (mget {} t.owners f).who = c.ctx + 2 ∧
          (∀ j, j < 65536 → rdByte t.mem (65536 * f + j) = 0) ∧
          ∀ k, (k < 65536 * f ∨ 65536 * f + 65536 ≤ k) → rdByte t.mem k = rdByte s.mem k)) ∧
    (∀ die slot, let k := die * 4096 + slot
      (∀ x ∈ s.cmds, x.2.node ≠ some k ∨ x.2.done = false) → exec (.graphNodeFinish die slot) s = .next s) ∧
    (∀ die slot, let k := die * 4096 + slot
      s.hasCmd n = true → c.node = some k → c.done = true → (∀ x ∈ s.cmds, x.1 ≠ n → x.2.node ≠ some k) →
      (s.node k).succ.Nodup → k ∉ (s.node k).succ →
      (∀ j ∈ (s.node k).succ, (s.node j).armed = false ∨ 2 ≤ (s.node j).cnt) →
      ∃ t, exec (.graphNodeFinish die slot) s = .next t ∧ t = { s with cmds := t.cmds, nodes := t.nodes } ∧ t.hasCmd n = false ∧
        (t.node k).kind = none ∧ (t.node k).gen = (if ((s.node k).gen + 1) % 2 ^ 32 = 0 then 1 else ((s.node k).gen + 1) % 2 ^ 32) ∧
        (∀ j ∈ (s.node k).succ, t.node j = { s.node j with cnt := (s.node j).cnt - 1 }) ∧
        ∀ j, j ≠ k → j ∉ (s.node k).succ → t.node j = s.node j)

/-- Instructions complete (07 R131, R140; 09 R181-R194, R394; 10 R205-R219): from a state in which the instruction issues, of a
thread that is ready, under conditions on that state and on the operands alone, `exec` answers a next state in which the
thread is past its instruction with no trap taken: conversions, scans and reductions with no flag's trap enabled; atomics whose lanes
reach their locations; `BAR` and `SBAR`, which arrive; the operations on transaction barriers; `PUBL` of a pair whose copies are
performed; engine commands and hail reads that pass their checks; and the graph unit and collectives, with a descriptor that passes
its checks and a place in the unit. `HRET` ends its thread. COLL_COMPLETION, with every member's contribution and areas that the
engine reaches, in residual mode and outside it, ends the collective with CODE 0. -/
def Obligations.InstructionsComplete : Prop :=
  (∀ (f : Fields) (s : State) (bs lb : List Byte),
    let u (op : Nat) : State := s.issued op f
    let v (op : Nat) : State := s.roomForLoad.issued op f
    let goes (op : Nat) : Prop := checkLong op f = none ∧ Issues op f s ∧ (u op).thr.status = .ready ∧ DistinctThreads (u op)
    let loads (op : Nat) : Prop := checkLong op f = none ∧ Issues op f s.roomForLoad ∧ (v op).thr.status = .ready ∧
      DistinctThreads (v op)
    let past (x t : State) : Prop := t.thr.pc = x.thr.pc + BitVec.ofNat 55 (4 * f.parcels) ∧ t.thr.trap = x.thr.trap ∧
      t.thr.stack = x.thr.stack
    let user (x : State) : Prop := x.thr.name.hail = false
    let untrapped (x : State) : Prop := x.thr.fpmode.extractLsb' 2 5 = 0
    -- atomics: every lane that counts reaches its location, and meets no watch point
    let reaches (x : State) : Prop := ∀ l ∈ addressed (f.fc == 2) f x.thr, countsIn x.thr l = true →
      let e := etBytes f.et.toNat
      let a := access x x.thr .atomic (baseOf x.thr f (l.getD 0)) ((if f.bk = 3 then 0 else x.thr.wide f.bk.toNat f.b.toNat (l.getD 0)) +
        (f.lit.extractLsb' 0 24).signExtend 64) e e
      (∃ key, a.2 = .ok key) ∧ watchHits x x.thr .atomic a.1 e = []
    -- transaction barriers: the reference and the count
    let ra (x : State) : Word := x.thr.sReg f.a.toNat
    let rb (x : State) : Word := x.thr.sReg f.b.toNat
    let count (x : State) : Nat := if f.bk = 3 then f.uimm else (rb x).toNat
    let counted (x : State) : Prop := 1 ≤ count x ∧ count x ≤ 16777215
    let bar (x : State) : TxBar := x.bar x.thr.place.core ((ra x).extractLsb' 0 8).toNat
    let valid (x : State) : Prop :=
      (ra x).extractLsb' 8 8 = 0 ∧ (ra x).extractLsb' 24 8 = 0 ∧ ((ra x).extractLsb' 16 8).toNat = x.thr.place.core ∧
      ((ra x).extractLsb' 32 32).toNat = (bar x).gen ∧ (bar x).refs ≠ 0 ∧ (bar x).owner = x.thr.name.uid ∧ (bar x).held = true
    -- publishing: a pair that may be written, and its copies
    let pair (x : State) (e : Nat) : Prop := (x.team x.thr.name.uid).binds[f.a.toNat]? = some e ∧
      (mget 0 (x.ctx (x.team x.thr.name.uid).ctx).handles (4 * e + 3)).getLsbD 0 = true ∧
      (entryWord x e 3).getLsbD 2 = true ∧ (entryWord x e 3).getLsbD 3 = true
    let copies (x : State) (e : Nat) (c : Cmd) : Prop :=
      c.tid = x.thr.id ∧ c.sectorsDone = false ∧ c.failed = false ∧ ∃ d a w, c.work = .copy d a w (some e)
    -- the graph unit: the descriptor, and the nodes
    let g (off n : Nat) : Nat := ofBytes ((bs.drop off).take n)
    let event : Word := if g 0 1 = 0 then BitVec.ofNat 64 (g 0x18 8) else 0
    let here (x : State) : Nat := x.finishAll.thr.place.core / 40
    let free (x : State) (n : Nat) : Prop := (x.finishAll.node (here x * 4096 + n)).kind = none ∧
      (x.finishAll.hub.mode = true → Config.nodeOwner (here x) n = x.finishAll.thr.name.ctx)
    let nodeReads (x : State) : Prop := slotRead x.finishAll (x.finishAll.thr.sReg f.a.toNat) 8 16 = .ok bs ∧
      slotRead x.finishAll (BitVec.ofNat 64 (g 0x28 8)) 2 (if nodeShape bs = true ∧ g 0 1 = 2 then g 0x23 1 else 0) = .ok lb
    let nodeSound (x : State) : Prop := nodeShape bs = true ∧ (g 0 1 = 1 → nodeCopyOk x.finishAll x.finishAll.thr false bs = true) ∧
      (g 0 1 = 2 → nodeLaunchOk x.finishAll x.finishAll.thr.name.ctx (here x) bs (indexList lb) = true) ∧
      ∀ c ∈ barrierChecks x.finishAll event 0, c.1
    let die (r : Word) : Nat := (r.extractLsb' 12 3).toNat
    let node (x : State) (r : Word) : Node := x.node (die r * 4096 + (r.extractLsb' 0 12).toNat)
    let sound (r : Word) : Prop := r.extractLsb' 15 17 = 0 ∧ die r ≤ 3
    let live (x : State) (r : Word) : Prop := (node x r).kind ≠ none ∧ (node x r).gen = (r.extractLsb' 32 32).toNat ∧
      (node x r).ctx = x.thr.name.ctx
    -- collectives
    let ctx (x : State) : Nat := x.finishAll.thr.name.ctx
    let collReads (x : State) : Prop := slotRead x.finishAll (x.finishAll.thr.sReg f.a.toNat) 8 8 = .ok bs
    let collSound (x : State) : Prop := collOk x.finishAll (ctx x) bs = true ∧
      (∀ y ∈ collSpans x.finishAll (ctx x) bs, y.collective = none) ∧
      ∀ c ∈ barrierChecks x.finishAll (x.finishAll.thr.sReg f.b.toNat) 0, c.1
    let ticket (x : State) : Nat := (ra x).toNat
    (goes 0x60 → untrapped (u 0x60) → ∃ t, exec (.cvt f) s = .next t ∧ past (u 0x60) t) ∧
    (goes 0x6F → untrapped (u 0x6F) → ∃ t, exec (.vscan f) s = .next t ∧ past (u 0x6F) t) ∧
    (goes 0x70 → untrapped (u 0x70) → ∃ t, exec (.vred f) s = .next t ∧ past (u 0x70) t) ∧
    (loads 0xC0 → reaches (v 0xC0) → ∃ t, exec (.atom f) s = .next t ∧ past (v 0xC0) t) ∧
    (loads 0xC1 → reaches (v 0xC1) → ∃ t, exec (.atomh f) s = .next t ∧ past (v 0xC1) t) ∧
    (goes 0xC3 → user (u 0xC3) → ∃ t, exec (.bar f) s = .next t ∧ past (u 0xC3) t) ∧
    (goes 0xC4 → user (u 0xC4) → 1 < ((u 0xC4).team (u 0xC4).thr.name.uid).kernel.span →
      ∃ t, exec (.sbar f) s = .next t ∧ past (u 0xC4) t) ∧
    (goes 0xC6 → (∃ i, i < 256 ∧ ((u 0xC6).bar (u 0xC6).thr.place.core i).refs = 0) →
      ∃ t, exec (.txalloc f) s = .next t ∧ past (u 0xC6) t ∧ t.thr.cond f.c.toNat = true) ∧
    (goes 0xC7 → counted (u 0xC7) → valid (u 0xC7) → (bar (u 0xC7)).pend + count (u 0xC7) ≤ 16777215 →
      ∃ t, exec (.txexpect f) s = .next t ∧ past (u 0xC7) t) ∧
    (goes 0xC8 → counted (u 0xC8) → valid (u 0xC8) → count (u 0xC8) ≤ (bar (u 0xC8)).pend →
      ∃ t, exec (.txarrive f) s = .next t ∧ past (u 0xC8) t) ∧
    (goes 0xC9 → user (u 0xC9) → valid (u 0xC9) → (bar (u 0xC9)).pend = 0 → ∃ t, exec (.txwait f) s = .next t ∧ past (u 0xC9) t) ∧
    (goes 0xCA → valid (u 0xCA) → ∃ t, exec (.txfree f) s = .next t ∧ past (u 0xCA) t) ∧
    (goes 0xCB → (∃ e, pair (u 0xCB) e ∧ ∀ n c, (n, c) ∈ (u 0xCB).cmds → ¬ copies (u 0xCB) e c) → (u 0xCB).thr.queue = [] →
      (∀ p ∈ (u 0xCB).thr.pending, p.loads = false) → ∃ t, exec (.publ f) s = .next t ∧ past (u 0xCB) t) ∧
    (goes 0xA8 → (∀ c ∈ bcopyChecks f (u 0xA8), c.1) → ∃ t, exec (.bcopy f) s = .next t ∧ past (u 0xA8) t) ∧
    (goes 0xA9 → (∀ c ∈ bcopyRChecks f (u 0xA9), c.1) → ∃ t, exec (.bcopyR f) s = .next t ∧ past (u 0xA9) t) ∧
    (goes 0xAA → (∀ c ∈ bcopySChecks f (u 0xAA), c.1) → ∃ t, exec (.bcopyS f) s = .next t ∧ past (u 0xAA) t) ∧
    (goes 0xAB → (∀ c ∈ bstoreChecks f (u 0xAB), c.1) → ∃ t, exec (.bstore f) s = .next t ∧ past (u 0xAB) t) ∧
    (goes 0xAC → (∀ c ∈ hreadChecks f (u 0xAC), c.1) → ∃ t, exec (.hread f) s = .next t ∧ past (u 0xAC) t) ∧
    (goes 0xAD → (∀ c ∈ hreadVChecks f (u 0xAD), c.1) → ∃ t, exec (.hreadV f) s = .next t ∧ past (u 0xAD) t) ∧
    (goes 0xAE → (u 0xAE).thr.name.hail = true → ∃ t, exec (.hret f) s = .next t ∧ t.thr.status = .absent) ∧
    (goes 0xD0 → user (u 0xD0) → nodeReads (u 0xD0) → nodeSound (u 0xD0) → (∃ n, n < 4096 ∧ free (u 0xD0) n) →
      ∃ t, exec (.gnode f) s = .next t ∧ past (u 0xD0) t ∧ t.thr.cond f.c.toNat = true) ∧
    (goes 0xD1 → user (u 0xD1) → sound (ra (u 0xD1)) → sound (rb (u 0xD1)) → live (u 0xD1) (rb (u 0xD1)) →
      die (ra (u 0xD1)) = die (rb (u 0xD1)) → (node (u 0xD1) (rb (u 0xD1))).armed = false → ra (u 0xD1) ≠ rb (u 0xD1) →
      (live (u 0xD1) (ra (u 0xD1)) → (node (u 0xD1) (ra (u 0xD1))).succ.length < 16) →
      ∃ t, exec (.gedge f) s = .next t ∧ past (u 0xD1) t ∧ t.thr.cond f.c.toNat = true) ∧
    (goes 0xD2 → user (u 0xD2) → sound (ra (u 0xD2)) → live (u 0xD2) (ra (u 0xD2)) → (node (u 0xD2) (ra (u 0xD2))).armed = false →
      ∃ t, exec (.garm f) s = .next t ∧ past (u 0xD2) t) ∧
    (goes 0xD4 → user (u 0xD4) → collReads (u 0xD4) → collSound (u 0xD4) →
      (ticketsUsed (u 0xD4).finishAll (ctx (u 0xD4))).length < 256 →
      ∃ t, exec (.coll f) s = .next t ∧ past (u 0xD4) t ∧ t.thr.cond f.c.toNat = true) ∧
    (goes 0xD5 → ticket (u 0xD5) ∈ ((u 0xD5).team (u 0xD5).thr.name.uid).tickets → ticket (u 0xD5) ≠ 0 →
      (∃ p ∈ (u 0xD5).colls, p.2.ctx = (u 0xD5).thr.name.ctx ∧ p.2.ticket = ticket (u 0xD5)) →
      ∃ t, exec (.collw f) s = .next t ∧ past (u 0xD5) t)) ∧
  ∀ (n : Nat) (order : List Nat) (s : State) (a b : SMap Coll) (x : Coll) (src rho : List Byte),
    let d := x.desc
    let area := collCount d * etBytes (collEt d)
    let at_ (p : Word) (j : Nat) : Word := p + BitVec.ofNat 64 j
    let near (p : Word) (k : Nat) : Prop := ∀ j, j < k → ((at_ p j).extractLsb' 0 55).toNat < 2 ^ 54
    let reads (p : Word) (bytes : List Byte) : Prop := near p bytes.length ∧
      ∀ j, j < bytes.length → engineByte s x.cmd 0 (at_ p j) x.id = .ok (bytes.getD j 0, false)
    let writes (p : Word) (k : Nat) : Prop := near p k ∧ ∀ j, j < k → ∃ key, engineKey s x.cmd 0 (at_ p j) = .ok key
    s.colls = a ++ (n, x) :: b → (∀ p ∈ a, p.1 ≠ n) → x.id = n → x.done = false →
    (s.core x.cmd.core).serves = some x.ctx → earlierDone s x.cmd.tid x.cmd.ord = true →
    (∀ dev ∈ commOf s x.ctx x.comm, dev ≠ s.hub.devnum.toNat → linkFailed s.hub dev = false ∧
      fencePasses s.hub (portTo s.hub dev) (some x.ctx) dev (((collDst d).extractLsb' 0 55).toNat % 2 ^ 42) area = true ∧
      ∃ c, contribution? s x dev = some c ∧ collMatch d c.desc = true ∧ c.poison = false) →
    src.length = area → reads (collSrc d) src →
    (collResidual d = true → rho.length = 4 * collCount d ∧ reads (collResid d) rho ∧ writes (collResid d) (4 * collCount d)) →
    (collIsRoot s x.ctx d = true → writes (collDst d) area) →
    ∃ t, exec (.collCompletion n order) s = .next t ∧
      (x.ticket ≠ 0 → (mget {} t.colls n).done = true ∧ (mget {} t.colls n).code = 0) ∧
      (x.ticket = 0 → ∀ p ∈ t.colls, p.1 ≠ n)

/-- The energy weights (14 R263). -/
def Obligations.EnergyWeights : Prop :=
  weight 0 = 2 ∧ weight 1 = 3 ∧ weight 2 = 4 ∧ weight 3 = 6 ∧ weight 4 = 8 ∧ weight 5 = 11 ∧ weight 6 = 15 ∧ weight 7 = 20

/-- The outcomes of the ordering tests (11 R235-R239, R241-R244; 12 R246; 13 R251): each list of outcomes with what the rules say of
each, over every execution of the test's events; of the atomics also the final value of the word, and beside the publish tests of R242 one in
which a release fence stands before a publish point of a narrower scope (R231, case 1). -/
def Obligations.LitmusTests : Prop :=
  let judged (ps : List Ordering.Party) (init : List (Nat × Nat)) (rows : List (List Nat × Bool)) : Prop :=
    ∀ r ∈ rows, Ordering.allowed ps r.1 init = r.2
  -- message passing, and mixed scopes
  (∀ c ∈ [0, 1], judged (Ordering.messagePassing c false 1 false 1) [] [([0, 0], true), ([0, 1], true), ([1, 1], true), ([1, 0], c == 1)]) ∧
  judged (Ordering.messagePassing 1 true 3 true 3) [] [([1, 0], false), ([1, 1], true)] ∧
  judged (Ordering.messagePassing 1 true 1 true 4) [] [([1, 0], true)] ∧
  judged (Ordering.messagePassing 0 true 1 true 4) [] [([1, 0], false)] ∧
  judged (Ordering.messagePassing 1 true 4 true 4) [] [([1, 0], false)] ∧
  -- store buffering
  judged (Ordering.storeBuffering 0 none) [] [([0, 0], true)] ∧ judged (Ordering.storeBuffering 0 (some 2)) [] [([0, 0], false)] ∧
  judged (Ordering.storeBuffering 1 (some 4)) [] [([0, 0], false)] ∧ judged (Ordering.storeBuffering 1 (some 1)) [] [([0, 0], true)] ∧
  -- cumulativity, and independent reads of independent writes
  judged Ordering.cumulativity [] [([1, 1, 0], false), ([1, 0, 0], true), ([0, 1, 0], true), ([1, 1, 1], true)] ∧
  judged (Ordering.independentReads true true false) [] [([1, 0, 1, 0], true)] ∧
  judged (Ordering.independentReads true true true) [] [([1, 0, 1, 0], false)] ∧
  judged (Ordering.independentReads false false false) [] [([1, 0, 1, 0], false)] ∧
  -- the trailing sector of a copy, and of a tile store
  judged (Ordering.trailingSector Ordering.flagCopy 3 true false) [] [([1, 0], false)] ∧
  judged (Ordering.trailingSector Ordering.flagCopy 1 true false) [] [([1, 0], true)] ∧
  judged (Ordering.trailingSector Ordering.flagCopy 3 true true) [] [([0, 1], true)] ∧
  judged (Ordering.trailingSector (Ordering.flagTile true) 3 true false) [] [([1, 0], false)] ∧
  judged (Ordering.trailingSector (Ordering.flagTile false) 3 true false) [] [([1, 0], true)] ∧
  -- publishing a shadow copy, a plain copy, and a plain copy behind a fence; in each outcome a BANK stands before its word
  judged (Ordering.publish true false 0 0) Ordering.publishInit [([0, 2, 0, 2], true)] ∧
  judged (Ordering.publish true false 1 1) Ordering.publishInit [([1, 1, 1, 1], true), ([1, 0, 1, 1], false), ([1, 1, 1, 0], false)] ∧
  judged (Ordering.publish true false 0 1) Ordering.publishInit [([0, 2, 1, 1], true)] ∧
  judged (Ordering.publish true false 1 0) Ordering.publishInit [([1, 1, 0, 2], false)] ∧
  judged (Ordering.publish false false 1 1) Ordering.publishInit [([1, 0, 1, 1], true), ([1, 1, 1, 0], true)] ∧
  judged (Ordering.publish false true 1 1) Ordering.publishInit [([1, 0, 1, 1], false), ([1, 1, 1, 0], false)] ∧
  -- the fence before a publish point at team scope, and no fence
  judged (Ordering.publish false true 1 1 1) Ordering.publishInit [([1, 0, 1, 1], false), ([1, 1, 1, 1], true)] ∧
  judged (Ordering.publish false false 1 1 1) Ordering.publishInit [([1, 0, 1, 1], true)] ∧
  -- handlers under `TXWAIT`, and under `WAITV`, whose own read comes first
  judged (Ordering.handlers true) Ordering.handlersInit [([1, 2], true), ([0, 2], false), ([1, 0], false), ([0, 0], false)] ∧
  judged (Ordering.handlers false) Ordering.handlersInit [([1, 1, 2], true), ([1, 1, 0], true), ([1, 0, 2], false), ([1, 0, 0], false)] ∧
  -- atomics, the hand-off of a column, and the gather of a sparse layer
  (∀ v ∈ List.range 3, ∀ w ∈ List.range 3, ∀ n ∈ List.range 4,
    Ordering.atomicsAllow v w n = (n == 2 && ((v == 0 && w == 1) || (v == 1 && w == 0)))) ∧
  (∀ c ∈ [0, 1], judged (Ordering.handOff c 3 3) [] [([1, 2], true), ([1, 0], false)] ∧
    judged (Ordering.handOff c 1 3) [] [([1, 0], true)] ∧ judged (Ordering.handOff c 3 1) [] [([1, 0], true)]) ∧
  judged (Ordering.gather 2 true) [] [([2 * 65536 + 1], true), ([2 * 65536], false)]

/-- The worked examples of the manual, walked for team 3 (08 R162; 09 R199, R200; 10 R223): the statements' words decode, and the
states at the points of each walk are those of its table. -/
def Obligations.WorkedExamples : Prop :=
  let v (s : State) (n : Nat) : List Nat := (Examples.lanes s n).map BitVec.toNat
  let bytes (s : State) (k n : Nat) : List Nat := (rdBytes s.mem k n).map BitVec.toNat
  let quiet (s : State) : Prop := s.thr.trap.cause = 0 ∧ s.thr.fpstat = 0
  (∀ w ∈ [Examples.tshape0, Examples.tshape1, Examples.class162, Examples.class199, Examples.tload0, Examples.tload1, Examples.tmmaFb,
      Examples.tzrow, Examples.ffma, Examples.fmax, Examples.cvt, Examples.hread 14, Examples.ldBias, Examples.amul, Examples.stBias,
      Examples.hret, Examples.bstore, Examples.txwait, Examples.jtab, Examples.bcopyS, Examples.publ],
    (decodeTableWord w.1 w.2).isSome = true) ∧
  -- R162: the tiles, the block scales, the sums, and the epilogue
  (let tile (i : Nat) : List Nat := (List.range 6).map (fun j => (mget 0 Examples.tiles162.thr.tiles.t (32 * i + j)).toNat)
   tile 0 = [0xE3, 0x01, 0, 0, 0, 0] ∧ tile 1 = [0xA8, 0x25, 0, 0, 0, 0] ∧ tile 2 = [0x09, 0x70, 0, 0, 0, 0] ∧
   tile 64 = [0x40, 0x30, 0xB8, 0x44, 0, 0]) ∧
  v Examples.scales162 15 = [0x7F007F, 0x7F007E, 0x7F0081, 0x7F007F] ∧
  v Examples.sums162 12 = [0x40800000, 0x41B80000, 0x41E00000, 0] ∧ v (Examples.word Examples.fmax (Examples.word Examples.ffma Examples.sums162)) 12 =
    [0x3F800000, 0x40B80000, 0x40E00000, 0] ∧
  v Examples.end162 14 = [0x3C00, 0x45C0, 0x4700, 0] ∧
  -- R199 and R200: the barrier, the launch site, the thread's start, its stores, its arrival, and the epilogue
  Examples.start199.thr.cond 1 = true ∧ Examples.start199.thr.sReg 15 = 0x100000000 ∧
  (Examples.read199.cmd Examples.cmd199).seq = 0 ∧ Examples.read199.bar 0 0 = { gen := 1, owner := 1, pend := 1, refs := 2, held := true } ∧
  (let b := Examples.born199
   b.thr.name.hail = true ∧ b.thr.m0 = 0xFFFFFFFF ∧ b.thr.sReg 0 = 0x8000000000 ∧ b.thr.sReg 1 = 0x4001010180 ∧ b.thr.sReg 2 = 0 ∧
   v b 0 = [0xBF000000, 0x3E800000, 0xC1000000, 0x3FC00000] ∧ b.thr.vReg 0 63 = 0) ∧
  Examples.handled199.bar 0 0 = { gen := 1, owner := 1, pend := 0, phase := 1, refs := 1, held := true } ∧
  bytes Examples.handled199 (sharedKey 0 0 0) 16 = [0, 0, 0, 0xBF, 0, 0, 0x80, 0x3E, 0, 0, 0, 0xC1, 0, 0, 0xC0, 0x3F] ∧
  v Examples.bias199 13 = [0xBF000000, 0x3E800000, 0xC1000000, 0x3FC00000] ∧
  v Examples.fused199 12 = [0x3F000000, 0x40C00000, 0xBF800000, 0x3FC00000] ∧
  v Examples.end199 14 = [0x3800, 0x4600, 0, 0x3E00] ∧ quiet Examples.end199 ∧
  -- R223: the store of the slice, the wait, the layout word, the jump, the copy into the shadow bank, and the publish point
  (Examples.stored223.cmd (Examples.cmd223 Examples.stored223)).seq = 1 ∧
  Examples.waited223.bar 0 0 = { gen := 1, owner := 1, pend := 0, phase := 2, refs := 1, held := true } ∧
  bytes Examples.waited223 (sharedKey 0 0 128) 8 = [0x00, 0x38, 0x00, 0x46, 0, 0, 0x00, 0x3E] ∧
  Examples.jumped223.thr.sReg 25 = 0x0001000100010004 ∧
  bytes Examples.copied223 (0x20000 + 3 * 128 + 64) 8 = [0x00, 0x38, 0x00, 0x46, 0, 0, 0x00, 0x3E] ∧
  ((mget 0 (Examples.copied223.ctx 0).handles 15).getLsbD 4 = false ∧ (mget 0 (Examples.published223.ctx 0).handles 15).getLsbD 4 = true) ∧
  quiet Examples.published223

/-- Load buffering (11 R240): in no execution, whatever the placement and the orders, do both parties read what the other writes
after its own read; the three other outcomes are allowed, on one core and on two, of relaxed and of ordered accesses. -/
def Obligations.LoadBuffering : Prop :=
  (∀ (x : Ordering.Execution) (p q a b c d : Nat),
    a < x.events.length → b < x.events.length → c < x.events.length → d < x.events.length →
    (x.ev a).kind = .read → p ∈ (x.ev a).locs → (x.ev b).kind = .write → q ∈ (x.ev b).locs →
    (x.ev c).kind = .read → q ∈ (x.ev c).locs → (x.ev d).kind = .write → p ∈ (x.ev d).locs →
    (a, b) ∈ x.po → (c, d) ∈ x.po → (p, d, a) ∈ x.rf → (q, b, c) ∈ x.rf → x.consistent = false) ∧
  ∀ c ∈ [0, 1], ∀ k ∈ [(false, 1), (true, 3)],
    [[0, 0], [0, 1], [1, 0], [1, 1]].map (Ordering.allowed (Ordering.loadBuffering c k.1 k.2)) = [true, true, true, false]

/-- A step runs the decoded instruction (03 R46-R48, R64; 14 R269; 16 R298, R309; 19 R374, R375): where the partition that moves
chooses a thread with nothing before its slot, and the bytes at its program counter can be fetched, match no slot of Solder and
decode, the step is `exec` of that instruction; where they decode to none it is the trap that the decoder names; a command
processor runs the command at CQ_HEAD, and the part its own steps. What passes with every step is said of `State.after`. -/
def Obligations.StepRunsDecoded : Prop :=
  (∀ (s u : State) (core part : Nat) (bs : List Byte),
    let pc := u.thr.pc.toNat
    let v : State := if u.thr.firstFetch then u.modThr Thread.fetched else u
    s.turn = .issue core part → s.choose core part = some u →
    u.thr.active ≠ 0 → u.thr.held = [] → u.thr.haltReq = false → u.thr.stepDone = false → u.thr.service = none → u.thr.routine = none → breakHit u = none →
    (∀ x, solderPick u u.thr.name.ctx false x = none) →
    0x4000000000 ≤ pc → pc + bs.length ≤ 2 ^ 55 → 4 ≤ bs.length →
    (∀ k, 4 * k < bs.length → ∃ pa e, translate u u.thr.name.ctx (pc + 4 * k) = .ok (pa, e) ∧ e.getLsbD 2 = false ∧
      pa / 32 ∉ u.poisonMem ∧ rdBytes u.mem pa 4 = (bs.drop (4 * k)).take 4) →
    (∀ i, decode bs = .ok (i, []) → ((∀ sop f, shortOf i = some (sop, f) → f.lead = true → pc % 8 = 0) →
      step s = afterOutcome (exec i v))) ∧
    (∀ e, decode bs = .error e → e ≠ .truncated → bs.length = 4 * parcelCount (BitVec.ofNat 32 (ofBytes (bs.take 4))) →
      ((BitVec.ofNat 32 (ofBytes (bs.take 4))).extractLsb' 0 2 = (1 : BitVec 2) → pc % 8 = 0) →
      step s = .next (v.completeAll.takeTrap { cause := e.cause.1, half := e.cause.2 } (bs.length / 4)).after)) ∧
  (∀ (s : State) (i : Instr), s.turn = .zephyr → zephyrReady s = true → decodeCommand (headEntry s.hub) = .ok i →
    step s = afterOutcome (exec i { s with hub := { s.hub with cqHead := (s.hub.cqHead + 1) % 256 } })) ∧
  (∀ (s : State) (e : DecodeError), s.turn = .zephyr → zephyrReady s = true → decodeCommand (headEntry s.hub) = .error e →
    step s = .next (({ s with hub := { s.hub with cqHead := (s.hub.cqHead + 1) % 256 } } : State).putCpl
      ((headEntry s.hub).extractLsb' 32 32) 1 0x10 0 0).after) ∧
  (∀ (s : State), s.turn = .zephyr → zephyrReady s = false → step s = .next s.after) ∧
  (∀ (s : State) (i : Instr), s.turn = .event i → isStep i = true → (∀ c p, i ≠ .starvationGuard c p) →
    step s = afterOutcome (exec i s)) ∧
  (∀ s : State, s.turn = .idle → step s = .next s.after) ∧
  (∀ t : State, t.after = { t with
    tick := t.tick + 1, clock := t.after.clock, turn := Config.agenda (t.tick + 1)
    hub := { t.hub with gts := t.after.hub.gts, state := t.after.hub.state, pwrNow := t.after.hub.pwrNow, temp := t.after.hub.temp
                        hot := t.after.hub.hot } })

/-- The state after reset (01 R24; 16 R292, R303, R308; 19 R372, R380, R382-R384): the registers at their reset values, nothing
owned, matched or admitted, and memory in its canonical form. That RAM reads zero is the model's choice (DESIGN CHOICE, log 4), and so is that a
register without a reset value is zero (logs 2, 5). -/
def Obligations.ResetState : Prop :=
  let s := State.reset
  let h := s.hub
  s.memoryWf ∧ (∀ k, rdByte s.mem k = 0) ∧ (∀ u, (mget {} s.owners u).who = 0) ∧ (∀ c, s.hasCtx c = false) ∧
  s.threads = [] ∧ s.launches = [] ∧ s.teams = [] ∧ (∀ c, (s.core c).serves = none ∧ (s.core c).budget = 256) ∧
  h.state = 0 ∧ h.mode = false ∧ h.gts = 0 ∧ h.devnum = 0 ∧ h.pwrLimit = 2400 ∧ h.pwrLock = false ∧
  h.cqHead = h.cqTail ∧ h.cplHead = h.cplTail ∧
  (∀ p w, (fenceReg h p w 0).getLsbD 31 = false) ∧ (∀ p c d lo n, fencePasses h p c d lo n = false) ∧
  (∀ n, (mget {} h.solder n).en = false) ∧ (∀ c k x, solderPick s c k x = none) ∧ (∀ p, (mget {} h.ports p).state = 0) ∧
  ∃ t, step s = .next t ∧ (t.hub.state = 1 ∨ t.hub.state = 7) ∧ t.mem = s.mem

/-- Memory keeps its canonical form in every step, from every state that has it. -/
def Obligations.StepKeepsMemoryWf : Prop :=
  ∀ s t : State, s.memoryWf → step s = .next t → t.memoryWf
end

