-- ==== Sys2Proof/Laws/Map.lean ====
section
/-! SUPPORT. Laws of sparse maps and of memory: reading after writing, and the canonical form that every write keeps. -/

namespace Sys2Proof.Machine

variable {α : Type}

@[simp] theorem mget_nil (d : α) (k : Nat) : mget d ([] : SMap α) k = d := rfl

theorem mget_cons (d : α) (j : Nat) (x : α) (m : SMap α) (k : Nat) :
    mget d ((j, x) :: m) k = if j = k then x else mget d m k := rfl

/-- A key that a map does not list reads as the default. -/
theorem mget_of_not_listed (d : α) (m : SMap α) (k : Nat) (h : ∀ p ∈ m, p.1 ≠ k) : mget d m k = d := by
  induction m with
  | nil => rfl
  | cons p m ih =>
    obtain ⟨j, x⟩ := p
    have hj : j ≠ k := h (j, x) (by simp)
    simp only [mget, hj, if_false]
    exact ih (fun q hq => h q (by simp [hq]))

theorem mget_filter (d : α) (m : SMap α) (p : Nat → Bool) (k : Nat) :
    mget d (m.filter (fun x => p x.1)) k = if p k then mget d m k else d := by
  induction m with
  | nil => simp
  | cons q m ih =>
    obtain ⟨j, x⟩ := q
    by_cases hj : j = k
    · subst hj
      by_cases hp : p j = true
      · simp [hp, mget]
      · simp only [List.filter_cons, hp, mget]
        simpa [hp] using ih
    · by_cases hp : p j = true
      · simp only [List.filter_cons, hp, if_true, mget, hj, if_false]; exact ih
      · simp only [List.filter_cons, hp, mget, hj, if_false]; exact ih

/-- Reading after taking a key away. -/
theorem mget_mdel (d : α) (m : SMap α) (k j : Nat) : mget d (mdel m k) j = if j = k then d else mget d m j := by
  have h := mget_filter d m (fun x => x != k) j
  by_cases hj : j = k <;> simp_all [mdel]

theorem mget_mclear (d : α) (m : SMap α) (lo n k : Nat) :
    mget d (mclear m lo n) k = if lo ≤ k ∧ k < lo + n then d else mget d m k := by
  have h := mget_filter d m (fun x => x < lo || lo + n ≤ x) k
  unfold mclear
  rw [h]
  by_cases h1 : lo ≤ k <;> by_cases h2 : k < lo + n <;> simp [h1, h2] <;> omega

/-- Reading after inserting a key that the map does not list. -/
theorem mget_mins (d : α) (m : SMap α) (k : Nat) (x : α) (j : Nat) (h : ∀ p ∈ m, p.1 ≠ k) :
    mget d (mins m k x) j = if j = k then x else mget d m j := by
  induction m with
  | nil =>
    by_cases hj : j = k
    · simp [mins, mget, hj]
    · simp [mins, mget, hj]; intro e; exact absurd e.symm hj
  | cons p m ih =>
    obtain ⟨i, y⟩ := p
    have hi : i ≠ k := h (i, y) (by simp)
    have ih := ih (fun q hq => h q (by simp [hq]))
    by_cases hlt : k < i
    · simp only [mins, hlt, if_true, mget]
      by_cases hj : k = j
      · simp [hj]
      · simp [hj, Ne.symm hj]
    · simp only [mins, hlt, if_false, mget]
      by_cases hij : i = j
      · subst hij; simp [hi]
      · simp only [hij, if_false]; exact ih

theorem mdel_ne (m : SMap α) (k : Nat) : ∀ p ∈ mdel m k, p.1 ≠ k := by
  intro p hp
  simpa [mdel] using (List.mem_filter.mp hp).2

/-- Reading after writing one key of a map (the two cases in one). -/
theorem mget_mset [DecidableEq α] (d : α) (m : SMap α) (k : Nat) (x : α) (j : Nat) :
    mget d (mset d m k x) j = if j = k then x else mget d m j := by
  unfold mset
  by_cases hx : x = d
  · simp only [hx, if_true, mget_mdel]
  · simp only [hx, if_false]
    rw [mget_mins d _ k x j (mdel_ne m k), mget_mdel]
    by_cases hj : j = k <;> simp [hj]

@[simp] theorem mget_mset_self [DecidableEq α] (d : α) (m : SMap α) (k : Nat) (x : α) : mget d (mset d m k x) k = x := by
  simp [mget_mset]

theorem mget_mset_ne [DecidableEq α] (d : α) (m : SMap α) (k : Nat) (x : α) (j : Nat) (h : j ≠ k) :
    mget d (mset d m k x) j = mget d m j := by simp [mget_mset, h]

/-- Reading after putting an entry that stays listed whatever it holds. -/
theorem mget_put (d : α) (m : SMap α) (k : Nat) (x : α) (j : Nat) :
    mget d (mins (mdel m k) k x) j = if j = k then x else mget d m j := by
  rw [mget_mins d _ k x j (mdel_ne m k), mget_mdel]
  by_cases hj : j = k <;> simp [hj]

theorem any_mins (m : SMap α) (k : Nat) (x : α) (p : Nat → Bool) :
    (mins m k x).any (fun q => p q.1) = (p k || m.any (fun q => p q.1)) := by
  induction m with
  | nil => simp [mins]
  | cons q m ih =>
    obtain ⟨i, y⟩ := q
    by_cases h : k < i
    · simp [mins, h]
    · simp only [mins, h, if_false, List.any_cons, ih]
      cases p i <;> cases p k <;> simp

/-- The listed keys after putting an entry. -/
theorem any_put (m : SMap α) (k : Nat) (x : α) (j : Nat) :
    (mins (mdel m k) k x).any (fun q => q.1 == j) = (k == j || m.any (fun q => q.1 == j)) := by
  rw [any_mins _ _ _ (fun i => i == j)]
  by_cases h : k = j
  · simp [h]
  · have e : (mdel m k).any (fun q => q.1 == j) = m.any (fun q => q.1 == j) := by
      rw [Bool.eq_iff_iff]
      simp only [List.any_eq_true, mdel, List.mem_filter, beq_iff_eq, bne_iff_ne]
      constructor
      · rintro ⟨q, ⟨hq, -⟩, e⟩; exact ⟨q, hq, e⟩
      · rintro ⟨q, hq, e⟩; exact ⟨q, ⟨hq, fun e' => h (e'.symm.trans e)⟩, e⟩
    rw [e]

/-! ### The canonical form -/

/-- What the canonical form says of the head and the rest. -/
theorem mwf_cons [DecidableEq α] (d : α) (k : Nat) (x : α) (m : SMap α) :
    mwf d ((k, x) :: m) = true ↔ x ≠ d ∧ (∀ p ∈ m, k < p.1) ∧ mwf d m = true := by
  induction m generalizing k x with
  | nil => simp [mwf]
  | cons p m ih =>
    obtain ⟨j, y⟩ := p
    have ih' := ih j y
    constructor
    · intro h
      simp only [mwf, Bool.and_eq_true, bne_iff_ne, decide_eq_true_eq] at h
      obtain ⟨⟨hx, hkj⟩, hr⟩ := h
      have hr' := ih'.mp (by simpa only [mwf, Bool.and_eq_true, bne_iff_ne, decide_eq_true_eq] using hr)
      refine ⟨hx, ?_, by simpa only [mwf, Bool.and_eq_true, bne_iff_ne, decide_eq_true_eq] using hr⟩
      intro q hq
      rcases List.mem_cons.mp hq with rfl | hq
      · exact hkj
      · exact Nat.lt_trans hkj (hr'.2.1 q hq)
    · rintro ⟨hx, hk, hr⟩
      have : k < j := hk (j, y) (by simp)
      simp only [mwf, Bool.and_eq_true, bne_iff_ne, decide_eq_true_eq] at hr ⊢
      exact ⟨⟨hx, this⟩, hr⟩

theorem mwf_filter [DecidableEq α] (d : α) (m : SMap α) (p : Nat × α → Bool) (h : mwf d m = true) :
    mwf d (m.filter p) = true := by
  induction m with
  | nil => rfl
  | cons q m ih =>
    obtain ⟨k, x⟩ := q
    obtain ⟨hx, hk, hm⟩ := (mwf_cons d k x m).mp h
    by_cases hp : p (k, x) = true
    · rw [List.filter_cons_of_pos hp]
      exact (mwf_cons d k x _).mpr ⟨hx, fun q hq => hk q (List.mem_filter.mp hq).1, ih hm⟩
    · rw [List.filter_cons_of_neg hp]; exact ih hm

theorem mem_mins (m : SMap α) (k : Nat) (x : α) (p : Nat × α) : p ∈ mins m k x ↔ p = (k, x) ∨ p ∈ m := by
  induction m with
  | nil => simp [mins]
  | cons q m ih =>
    obtain ⟨j, y⟩ := q
    by_cases h : k < j
    · simp [mins, h]
    · simp only [mins, h, if_false, List.mem_cons, ih]
      constructor
      · rintro (h | h | h) <;> simp [h]
      · rintro (h | h | h) <;> simp [h]

theorem mwf_mins [DecidableEq α] (d : α) (m : SMap α) (k : Nat) (x : α) (h : mwf d m = true) (hx : x ≠ d)
    (hk : ∀ p ∈ m, p.1 ≠ k) : mwf d (mins m k x) = true := by
  induction m with
  | nil => simp [mins, mwf, hx]
  | cons q m ih =>
    obtain ⟨j, y⟩ := q
    obtain ⟨hy, hj, hm⟩ := (mwf_cons d j y m).mp h
    have hjk : j ≠ k := hk (j, y) (by simp)
    by_cases hlt : k < j
    · simp only [mins, hlt, if_true]
      refine (mwf_cons d k x _).mpr ⟨hx, ?_, h⟩
      intro p hp
      rcases List.mem_cons.mp hp with rfl | hp
      · exact hlt
      · exact Nat.lt_trans hlt (hj p hp)
    · simp only [mins, hlt, if_false]
      refine (mwf_cons d j y _).mpr ⟨hy, ?_, ih hm (fun p hp => hk p (by simp [hp]))⟩
      intro p hp
      rcases (mem_mins m k x p).mp hp with rfl | hp
      · show j < k; omega
      · exact hj p hp

theorem mwf_mdel [DecidableEq α] (d : α) (m : SMap α) (k : Nat) (h : mwf d m = true) : mwf d (mdel m k) = true :=
  mwf_filter d m _ h

theorem mwf_mclear [DecidableEq α] (d : α) (m : SMap α) (lo n : Nat) (h : mwf d m = true) : mwf d (mclear m lo n) = true :=
  mwf_filter d m _ h

/-- A write keeps the canonical form. -/
theorem mwf_mset [DecidableEq α] (d : α) (m : SMap α) (k : Nat) (x : α) (h : mwf d m = true) : mwf d (mset d m k x) = true := by
  unfold mset
  by_cases hx : x = d
  · simp only [hx, if_true]; exact mwf_mdel d m k h
  · simp only [hx, if_false]; exact mwf_mins d _ k x (mwf_mdel d m k h) hx (mdel_ne m k)

/-! ### Memory -/

theorem rdByte_wrByte (m : List Host.Cell) (k : Nat) (b : Byte) (j : Nat) :
    rdByte (wrByte m k b) j = if j = k then b else rdByte m j := mget_mset 0 m k b j

/-- A write of cells leaves every other byte. -/
theorem rdByte_wrCells_of_not_mem (cs : List Host.Cell) (m : List Host.Cell) (k : Nat) (h : ∀ c ∈ cs, c.1 ≠ k) :
    rdByte (wrCells m cs) k = rdByte m k := by
  induction cs generalizing m with
  | nil => rfl
  | cons c cs ih =>
    show rdByte (wrCells (wrByte m c.1 c.2) cs) k = _
    rw [ih _ (fun c' hc' => h c' (by simp [hc'])), rdByte_wrByte, if_neg]
    exact fun e => h c (by simp) e.symm

theorem wrCells_append (m : List Host.Cell) (a b : List Host.Cell) : wrCells m (a ++ b) = wrCells (wrCells m a) b := by
  simp [wrCells, List.foldl_append]

/-- The last cell of a key gives the byte it holds. -/
theorem rdByte_wrCells_last (m : List Host.Cell) (a b : List Host.Cell) (k : Nat) (x : Byte) (h : ∀ c ∈ b, c.1 ≠ k) :
    rdByte (wrCells m (a ++ (k, x) :: b)) k = x := by
  rw [wrCells_append]
  show rdByte (wrCells (wrByte (wrCells m a) k x) b) k = x
  rw [rdByte_wrCells_of_not_mem b _ k h, rdByte_wrByte, if_pos rfl]

theorem wf_wrByte (m : List Host.Cell) (k : Nat) (b : Byte) (h : Memory.wf m = true) : Memory.wf (wrByte m k b) = true :=
  mwf_mset 0 m k b h

theorem wf_wrCells (cs : List Host.Cell) (m : List Host.Cell) (h : Memory.wf m = true) : Memory.wf (wrCells m cs) = true := by
  induction cs generalizing m with
  | nil => exact h
  | cons c cs ih => exact ih _ (wf_wrByte m c.1 c.2 h)

theorem wf_filter (m : List Host.Cell) (p : Host.Cell → Bool) (h : Memory.wf m = true) : Memory.wf (m.filter p) = true :=
  mwf_filter 0 m p h

theorem wf_mclear (m : List Host.Cell) (lo n : Nat) (h : Memory.wf m = true) : Memory.wf (mclear m lo n) = true :=
  mwf_mclear 0 m lo n h

end Sys2Proof.Machine
end

