-- ==== Sys2Proof/Laws/Slot.lean ====
section
/-! SUPPORT. Laws of a slot: what its end changes, when its checks pass, and how a long instruction ends. -/

namespace Sys2Proof.Machine

/-! ### The end of a slot -/

theorem hasCtx_setCtx (s : State) (n : Nat) (c : Ctx) (k : Nat) : (s.setCtx n c).hasCtx k = (n == k || s.hasCtx k) :=
  any_put s.ctxs n c k

theorem ctx_setCtx (s : State) (n : Nat) (c : Ctx) (k : Nat) : (s.setCtx n c).ctx k = if k = n then c else s.ctx k :=
  mget_put ({} : Ctx) s.ctxs n c k

theorem hasCtx_modCtx (s : State) (n : Nat) (g : Ctx → Ctx) (k : Nat) : (s.modCtx n g).hasCtx k = s.hasCtx k := by
  unfold State.modCtx
  by_cases h : s.hasCtx n = true
  · simp only [h, if_true, hasCtx_setCtx]
    by_cases hk : n = k
    · subst hk; simp [h]
    · simp [hk]
  · simp [h]

theorem ctx_modCtx (s : State) (n : Nat) (g : Ctx → Ctx) (k : Nat) :
    (s.modCtx n g).ctx k = if k = n ∧ s.hasCtx n = true then g (s.ctx n) else s.ctx k := by
  unfold State.modCtx
  by_cases h : s.hasCtx n = true
  · by_cases hk : k = n <;> simp [h, ctx_setCtx, hk]
  · simp [h]

/-- A change of one context changes nothing else. -/
theorem modCtx_eq (s : State) (n : Nat) (g : Ctx → Ctx) : s.modCtx n g = { s with ctxs := (s.modCtx n g).ctxs } := by
  unfold State.modCtx State.setCtx
  split <;> rfl

theorem mapThreads_eq (s : State) (g : Thread → Thread) :
    s.mapThreads g = { s with thr := (s.mapThreads g).thr, parked := (s.mapThreads g).parked } := rfl

@[simp] theorem bare_countSlot (one : Word) (n : Nat) (t : Thread) : (t.countSlot one n).bare = t.bare := by
  simp [Thread.countSlot, Thread.bare, Option.map_map, Function.comp_def]

/-- What a partition's note of an issue leaves. -/
theorem noteIssue_eq (s : State) (t : Thread) (pc : Pc) : s.noteIssue t pc = { s with picks := (s.noteIssue t pc).picks } := rfl
@[simp] theorem noteIssue_ctx (s : State) (t : Thread) (pc : Pc) (k : Nat) : (s.noteIssue t pc).ctx k = s.ctx k := rfl
@[simp] theorem noteIssue_hasCtx (s : State) (t : Thread) (pc : Pc) (k : Nat) : (s.noteIssue t pc).hasCtx k = s.hasCtx k := rfl

/-- The end of a slot is only what it counts. -/
theorem closeSlot_slotEnd (v : State) (u : Thread) (n : Nat) : SlotEnd v (v.closeSlot u n) := by
  unfold State.closeSlot
  simp only []
  generalize u.slotPc = pc
  rw [noteIssue_eq]
  generalize (State.noteIssue _ u pc).picks = ps
  generalize u.id = tid
  generalize u.name.ctx = ctx
  generalize (if v.insideRoutine tid = true then (0 : Word) else 1) = one
  have hb : ∀ t : Thread, (if (t.id == tid) = true then t.countSlot one n else t).bare = t.bare := by
    intro t
    split <;> simp
  refine ⟨?_, ?_, ?_, ?_⟩
  · rw [modCtx_eq]
    simp only [State.onThread, State.mapThreads]
    split
    · rfl
    · exact hb v.thr
  · rw [modCtx_eq]
    simp only [State.onThread, State.mapThreads, List.map_map]
    exact List.map_congr_left (fun t _ => hb t)
  · intro k
    refine ⟨hasCtx_modCtx _ _ _ k, ?_⟩
    show (State.ctx (State.modCtx _ _ _) k).bare = _
    rw [ctx_modCtx]
    by_cases h : k = ctx ∧ (v.onThread tid (Thread.countSlot one n)).hasCtx ctx = true
    · rw [if_pos h, h.1]; rfl
    · rw [if_neg h]; rfl
  · rw [modCtx_eq]
    rfl

/-! ### The checks at issue -/

theorem foldl_or_eq_zero (rs : List RegName) (g : RegName → Word) (m : Word) :
    rs.foldl (fun m r => m ||| g r) m = 0 ↔ m = 0 ∧ ∀ r ∈ rs, g r = 0 := by
  induction rs generalizing m with
  | nil => simp
  | cons r rs ih =>
    simp only [List.foldl_cons, ih, List.mem_cons, forall_eq_or_imp]
    constructor
    · rintro ⟨h, h'⟩
      have := BitVec.or_eq_zero_iff.mp h
      exact ⟨this.1, this.2, h'⟩
    · rintro ⟨h1, h2, h3⟩
      exact ⟨by rw [h1, h2]; rfl, h3⟩

/-- No poison is consumed exactly when the check at issue finds none. -/
theorem noPoison_iff (t : Thread) (u : Uses) (sel remote : Word) :
    NoPoison t u sel remote ↔ ¬ (consumesPoison t u sel remote = true) := by
  have h : ∀ (rs : List RegName) (m : Word), rs.foldl (fun m r => m ||| poisonLanes t sel r) m &&& ~~~ t.help =
      rs.foldl (fun m r => m ||| (poisonLanes t sel r &&& ~~~ t.help)) (m &&& ~~~ t.help) := by
    intro rs
    induction rs with
    | nil => intro m; rfl
    | cons r rs ih =>
      intro m
      simp only [List.foldl_cons, ih]
      congr 1
      rw [BitVec.and_comm, BitVec.and_or_distrib_left, BitVec.and_comm _ m, BitVec.and_comm _ (poisonLanes t sel r)]
  unfold NoPoison consumesPoison readPoison
  rw [h]
  simp only [Bool.or_eq_true, bne_iff_ne, ne_eq, not_or, Decidable.not_not, List.any_eq_true, not_exists, not_and,
    Bool.not_eq_true]
  rw [foldl_or_eq_zero u.reads (fun r => poisonLanes t sel r &&& ~~~ t.help)]
  constructor
  · rintro ⟨h1, h2⟩
    exact ⟨fun n hn => (h2 n hn).1, h1, fun n hn => (h2 n hn).2⟩
  · rintro ⟨h1, h2, h3⟩
    exact ⟨h2, fun n hn => ⟨h1 n hn, h3 n hn⟩⟩

/-- The checks made at issue find nothing exactly when nothing stands against the instruction. -/
theorem issueCheck_eq_none (t : Thread) (u : Uses) (k : Nat) (sel remote : Word) (exempt noRead : Bool) :
    issueCheck t u k sel remote exempt noRead = none ↔ Clear t u k sel remote exempt noRead := by
  have e1 : (t.name.hail = true → t.hailCount + k ≤ 512) ↔ ¬ (t.hailOver k = true) := by
    simp only [Thread.hailOver, Bool.and_eq_true, decide_eq_true_eq, not_and, Nat.not_lt]
  have e2 : (∀ r ∈ t.routine, r.count + k ≤ 4096) ↔ ¬ (t.routineOver k = true) := by
    cases h : t.routine <;> simp [Thread.routineOver, h]
  have e3 : (∀ p ∈ t.pending, (∀ n ∈ u.reads, RegName.checked n = true → n ∉ p.writes) ∧
      (∀ n ∈ u.writes, RegName.checked n = true → n ∉ p.reads ∧ n ∉ p.writes)) ↔ ¬ (t.pending.any (violates u) = true) := by
    simp only [violates, List.any_eq_true, Bool.or_eq_true, Bool.and_eq_true, List.contains_iff_mem]
    constructor
    · rintro h ⟨p, hp, (⟨r, hr, hc, hw⟩ | ⟨r, hr, hc, hw⟩)⟩
      · exact (h p hp).1 r hr hc hw
      · have := (h p hp).2 r hr hc
        rcases hw with hw | hw
        · exact this.1 hw
        · exact this.2 hw
    · intro h p hp
      exact ⟨fun r hr hc hw => h ⟨p, hp, .inl ⟨r, hr, hc, hw⟩⟩, fun r hr hc =>
        ⟨fun hw => h ⟨p, hp, .inr ⟨r, hr, hc, .inl hw⟩⟩, fun hw => h ⟨p, hp, .inr ⟨r, hr, hc, .inr hw⟩⟩⟩⟩
  have e4 : (∀ n ∈ u.reads ++ u.writes, outsideWindow t n = false ∧ undeclared t n = false) ↔
      ¬ ((u.reads ++ u.writes).any (outsideWindow t) = true) ∧ ¬ ((u.reads ++ u.writes).any (undeclared t) = true) := by
    simp only [List.any_eq_true, not_exists, not_and, Bool.not_eq_true]
    exact ⟨fun h => ⟨fun n hn => (h n hn).1, fun n hn => (h n hn).2⟩, fun h n hn => ⟨h.1 n hn, h.2 n hn⟩⟩
  have e5 : (noRead = false → NoPoison t u sel remote) ↔ ¬ ((!noRead && consumesPoison t u sel remote) = true) := by
    rw [noPoison_iff]
    cases noRead <;> simp
  have e6 : (exempt = false → ∀ n ∈ u.writes, breaksFence t n = false) ↔
      ¬ ((!exempt && u.writes.any (breaksFence t)) = true) := by
    simp only [Bool.and_eq_true, Bool.not_eq_true', List.any_eq_true, not_and, not_exists, Bool.not_eq_true]
  unfold issueCheck Clear
  rw [e1, e2, e3, e4, e5, e6]
  repeat' split
  all_goals simp_all

/-! ### Long and extended instructions -/

theorem issues_iff (op : Nat) (f : Fields) (s : State) :
    issueCheck (s.waited op f).thr (s.usesIn op f) 1 (lanesActed op f (s.waited op f).thr)
      (remotePoison op f (s.waited op f).thr) (op == 0x0F || op == 0x09 || op == 0x0A || op == 0x0B) (op == 0x08 || op == 0xAB) = none ↔
    Issues op f s := issueCheck_eq_none _ _ _ _ _ _ _

/-- A long instruction that issues, and whose body leaves `v`, ends in `v` but for what the end of a slot counts. -/
theorem runLong_ok (op : Nat) (f : Fields) (s v : State) (body : State → Except TrapInfo State) (hi : Issues op f s)
    (hb : body (s.issued op f) = .ok v) : SlotEnd v (runLong op f s body) := by
  have h := (issues_iff op f s).mpr hi
  unfold runLong runSlot
  simp only [State.usesIn, State.waited, lanesActed, State.issued] at h hb ⊢
  rw [h]
  simp only [hb]
  exact closeSlot_slotEnd _ _ _

/-- A long instruction that issues, and whose body traps, ends in that trap. -/
theorem runLong_error (op : Nat) (f : Fields) (s : State) (tr : TrapInfo) (body : State → Except TrapInfo State)
    (hi : Issues op f s) (hb : body (s.issued op f) = .error tr) :
    runLong op f s body = (s.waited op f).completeAll.takeTrap tr f.parcels := by
  have h := (issues_iff op f s).mpr hi
  unfold runLong runSlot
  simp only [State.usesIn, State.waited, lanesActed, State.issued] at h hb ⊢
  rw [h]
  simp only [hb]

/-- A long instruction against which a check at issue stands traps with the check's cause. -/
theorem runLong_check (op : Nat) (f : Fields) (s : State) (tr : TrapInfo) (body : State → Except TrapInfo State)
    (h : issueCheck (s.waited op f).thr (s.usesIn op f) 1 (lanesActed op f (s.waited op f).thr)
      (remotePoison op f (s.waited op f).thr) (op == 0x0F || op == 0x09 || op == 0x0A || op == 0x0B) (op == 0x08 || op == 0xAB) = some tr) :
    runLong op f s body = (s.waited op f).completeAll.takeTrap tr f.parcels := by
  unfold runLong runSlot
  simp only [State.usesIn, State.waited, lanesActed] at h ⊢
  rw [h]

end Sys2Proof.Machine
end

