-- ==== Sys2Proof/Laws/Alu.lean ====
section
/-! SUPPORT. Laws of register results (07 R121): what a list of register writes leaves, when a raised flag traps, and
how an arithmetic instruction lands. -/

namespace Sys2Proof.Machine

/-! ### Writes of one kind -/

@[simp] theorem writes_nil (t : Thread) : t.writes [] = t := rfl
@[simp] theorem writes_cons (t : Thread) (w : RegWrite) (ws : List RegWrite) : t.writes (w :: ws) = (t.write w).writes ws := rfl
theorem writes_append (t : Thread) (a b : List RegWrite) : t.writes (a ++ b) = (t.writes a).writes b := by
  simp [Thread.writes, List.foldl_append]

/-- Lanes of a mask are the numbers below 64 that are set in it, each once. -/
theorem mem_lanesOf (m : Word) (l : Nat) : l ∈ lanesOf m ↔ l < 64 ∧ m.getLsbD l = true := by
  simp [lanesOf]

theorem nodup_lanesOf (m : Word) : (lanesOf m).Nodup := by
  unfold lanesOf
  exact List.Pairwise.filter _ List.nodup_range

theorem vKey_inj (t : Thread) (n : Nat) {l j : Nat} (_ : l < 64) (_ : j < 64) : t.vKey n l = t.vKey n j ↔ l = j := by
  unfold Thread.vKey
  omega

/-- Varying writes change the varying file and its poison alone. -/
theorem writes_v_frame (t : Thread) (ls : List Nat) (key : Nat → Nat) (g : Nat → LaneWord) (p : Nat → Bool) :
    t.writes (ls.map (fun l => .v (key l) (g l) (p l))) =
      { t with files := { t.files with v := (t.writes (ls.map (fun l => .v (key l) (g l) (p l)))).files.v }
               poison := { t.poison with v := (t.writes (ls.map (fun l => .v (key l) (g l) (p l)))).poison.v } } := by
  induction ls generalizing t with
  | nil => rfl
  | cons l ls ih =>
    simp only [List.map_cons, writes_cons]
    rw [ih]
    rfl

/-- What a key of the varying file reads as after writes to other keys. -/
theorem writes_v_other (t : Thread) (ls : List Nat) (key : Nat → Nat) (g : Nat → LaneWord) (p : Nat → Bool) (k : Nat)
    (h : ∀ l ∈ ls, key l ≠ k) :
    mget 0 (t.writes (ls.map (fun l => .v (key l) (g l) (p l)))).files.v k = mget 0 t.files.v k := by
  induction ls generalizing t with
  | nil => rfl
  | cons l ls ih =>
    simp only [List.map_cons, writes_cons]
    rw [ih _ (fun j hj => h j (by simp [hj]))]
    show mget 0 (mset 0 t.files.v (key l) (g l)) k = _
    rw [mget_mset, if_neg (fun e => h l (by simp) e.symm)]

/-- What a written key of the varying file reads as, when no two lanes share a key. -/
theorem writes_v_self (t : Thread) (ls : List Nat) (key : Nat → Nat) (g : Nat → LaneWord) (p : Nat → Bool) (l : Nat)
    (hn : ls.Nodup) (hk : ∀ i ∈ ls, ∀ j ∈ ls, key i = key j → i = j) (h : l ∈ ls) :
    mget 0 (t.writes (ls.map (fun l => .v (key l) (g l) (p l)))).files.v (key l) = g l := by
  induction ls generalizing t with
  | nil => cases h
  | cons a ls ih =>
    simp only [List.map_cons, writes_cons]
    have hn' := List.nodup_cons.mp hn
    by_cases e : l = a
    · subst e
      rw [writes_v_other]
      · show mget 0 (mset 0 t.files.v (key l) (g l)) (key l) = _
        simp
      · intro j hj ej
        have := hk j (by simp [hj]) l (by simp) ej
        exact hn'.1 (this ▸ hj)
    · have hl : l ∈ ls := by
        rcases List.mem_cons.mp h with h | h
        · exact absurd h e
        · exact h
      exact ih _ hn'.2 (fun i hi j hj => hk i (by simp [hi]) j (by simp [hj])) hl

/-! ### Flags -/

theorem foldl_or_getLsbD {β : Type} (l : List β) (g : β → BitVec 5) (m : BitVec 5) (i : Nat) :
    (l.foldl (fun a p => a ||| g p) m).getLsbD i = (m.getLsbD i || l.any (fun p => (g p).getLsbD i)) := by
  induction l generalizing m with
  | nil => simp
  | cons x l ih => simp [ih, Bool.or_assoc]

/-- A bit of the OR of the flags that count (06 R112). -/
theorem joinFlags_counted (t : Thread) (fl : List (Nat × BitVec 5)) (i : Nat) :
    (joinFlags (countedFlags t fl)).getLsbD i = fl.any (fun p => !t.help.getLsbD p.1 && p.2.getLsbD i) := by
  unfold joinFlags countedFlags
  rw [foldl_or_getLsbD]
  have hz : ((0 : BitVec 5).getLsbD i) = false := by simp
  rw [hz, Bool.false_or, List.any_filter]
  congr 1
  funext p
  by_cases h : p.2 = 0
  · simp [h]
  · have h' : (p.2 != 0) = true := by simpa using h
    rw [h', Bool.true_and]

theorem flagTrap_eq_none (t : Thread) (fl : List (Nat × BitVec 5)) :
    flagTrap t fl = none ↔ ∀ i, i < 5 → fl.any (fun p => !t.help.getLsbD p.1 && p.2.getLsbD i) = true →
      t.fpmode.getLsbD (2 + i) = false := by
  unfold flagTrap
  simp only []
  have key : (joinFlags (countedFlags t fl) &&& t.fpmode.extractLsb' 2 5 = 0) ↔
      ∀ i, i < 5 → fl.any (fun p => !t.help.getLsbD p.1 && p.2.getLsbD i) = true → t.fpmode.getLsbD (2 + i) = false := by
    constructor
    · intro h i hi ha
      have := congrArg (fun x => x.getLsbD i) h
      simp only [BitVec.getLsbD_and, joinFlags_counted, ha, BitVec.getLsbD_extractLsb', hi, decide_true, Bool.true_and] at this
      simpa using this
    · intro h
      apply BitVec.eq_of_getLsbD_eq
      intro i hi
      simp only [BitVec.getLsbD_and, joinFlags_counted, BitVec.getLsbD_extractLsb', hi, decide_true, Bool.true_and]
      by_cases ha : fl.any (fun p => !t.help.getLsbD p.1 && p.2.getLsbD i) = true
      · rw [h i hi ha]; simp
      · simp only [Bool.not_eq_true] at ha; rw [ha]; simp
  rw [← key]
  by_cases hz : (joinFlags (countedFlags t fl) &&& t.fpmode.extractLsb' 2 5 == 0) = true
  · rw [if_pos hz]; simpa using hz
  · rw [if_neg hz]; simpa using hz

/-! ### How a result lands -/

/-- The registers after a result: its writes, with poison carried into helper lanes (17 R346), and its flags. -/
def landed (op : Nat) (f : Fields) (s : State) (a : Thread) (e : Eff) (x : Thread) : Thread :=
  (x.writes (e.tainted a (usesOf op f (s.ctx a.name.ctx).regLayout) (lanesActed op f a) (remotePoison op f a))).raiseFlags
    (joinFlags (countedFlags a e.flags))

/-- An arithmetic instruction that issues, whose meaning gives `e` and whose flags raise no trap, lands `e`. -/
theorem runAlu_lands (op : Nat) (sem : Fields → Thread → Except TrapInfo Eff) (f : Fields) (s : State) (e : Eff)
    (hi : Issues op f s) (hs : sem f (s.issued op f).thr = .ok e) (hf : flagTrap (s.issued op f).thr e.flags = none)
    (hp : e.prod = 0) (hk : e.skip = 0) :
    DoneHere op f s (runAlu op sem f s) (fun a b => Lands op f a b (fun x y =>
      y = landed op f (s.issued op f) (s.issued op f).thr e x)) := by
  have hb : (fun s : State => (sem f s.thr).bind (commit op f s)) (s.issued op f) = commit op f (s.issued op f) e := by
    show (sem f (s.issued op f).thr).bind _ = _
    rw [hs]; rfl
  unfold runAlu
  generalize hc : commit op f (s.issued op f) e = r at hb
  unfold commit at hc
  rw [hf] at hc
  simp only [] at hc
  subst hc
  refine ⟨_, runLong_ok op f s _ _ hi hb, rfl, ?_⟩
  unfold Lands
  simp only [State.modThr]
  by_cases hll : (rowOf! op).ll = true
  · simp only [hll, if_true]
    refine ⟨_, rfl, rfl, ?_⟩
    intro w
    refine ⟨rfl, ?_⟩
    simp only [State.doWork, State.modThr, landed, lanesActed, hp, hk, Thread.raiseFlags]
    simp
  · simp only [hll, if_false, Bool.false_eq_true]
    rfl

/-! ### Results over lanes and over bits -/

/-- Poison carried into helper lanes changes no value: writes of `v` stay writes of the same keys and values. -/
theorem taint_map_v (bad : Word) (ls : List Nat) (key : Nat → Nat) (g : Nat → LaneWord) (p : Nat → Bool) :
    ∃ q : Nat → Bool, (ls.map (fun l => RegWrite.v (key l) (g l) (p l))).flatMap (taint bad) =
      ls.map (fun l => .v (key l) (g l) (q l)) := by
  refine ⟨fun l => p l || bad.getLsbD (key l % 64), ?_⟩
  induction ls with
  | nil => rfl
  | cons l r ih => simp only [List.map_cons, List.flatMap_cons, ih]; rfl

theorem any_overLanes_flags (f : Fields) (a : Thread) (g : Option Nat → Word × BitVec 5) (i : Nat) :
    (overLanes f a g).flags.any (fun p => !a.help.getLsbD p.1 && p.2.getLsbD i) = raised f a (fun l => (g l).2) i := by
  unfold overLanes raised
  by_cases h : f.fc = 2
  · simp [h, List.any_map, Function.comp_def]
  · have h64 : a.help.getLsbD 64 = false := by simp
    rw [if_neg (by simpa using h), if_neg h]
    simp only [List.any_cons, List.any_nil, h64, Bool.not_false, Bool.true_and, Bool.or_false]

theorem overLanes_result (op : Nat) (f : Fields) (s : State) (a x : Thread) (g : Option Nat → Word × BitVec 5) :
    LaneResult f a x (landed op f s a (overLanes f a g) x) (fun l => (g l).1) ∧
    FlagsGain f a x (landed op f s a (overLanes f a g) x) (fun l => (g l).2) := by
  refine ⟨?_, ?_⟩
  · by_cases h : f.fc = 2
    · have hb : (f.fc == 2) = true := by simp [h]
      obtain ⟨q, hq⟩ := taint_map_v (readPoison a (usesOf op f (s.ctx a.name.ctx).regLayout) (lanesActed op f a)
        (remotePoison op f a) &&& a.help) (lanesOf (a.sel f)) (a.vKey f.d.toNat) (fun l => (g (some l)).1.setWidth 32)
        (fun _ => false)
      have hw : (overLanes f a g).ws = (lanesOf (a.sel f)).map (fun l => .v (a.vKey f.d.toNat l) ((g (some l)).1.setWidth 32) false) := by
        unfold overLanes; rw [if_pos hb]; simp [List.map_map, Function.comp_def]
      unfold landed Eff.tainted
      rw [hw, hq, writes_v_frame]
      refine ⟨fun _ => ⟨?_, ?_, rfl, rfl⟩, fun hn => absurd h hn, rfl, rfl⟩
      · intro l hl
        show mget 0 (x.writes _).files.v _ = _
        by_cases hs : (a.sel f).getLsbD l = true
        · rw [if_pos hs]
          exact writes_v_self x _ _ _ _ l (nodup_lanesOf _)
            (fun i hi j hj e => (vKey_inj a _ ((mem_lanesOf _ i).mp hi).1 ((mem_lanesOf _ j).mp hj).1).mp e)
            ((mem_lanesOf _ l).mpr ⟨hl, hs⟩)
        · rw [if_neg hs]
          refine writes_v_other x _ _ _ _ _ (fun j hj e => hs ?_)
          have hj' := (mem_lanesOf _ j).mp hj
          rw [← (vKey_inj a _ hj'.1 hl).mp e]
          exact hj'.2
      · intro k hk
        exact writes_v_other x _ _ _ _ _ (fun j hj e => hk j ((mem_lanesOf _ j).mp hj).1 e.symm)
    · have hb : ¬ ((f.fc == 2) = true) := by simpa using h
      have hw : (overLanes f a g).ws = [.s (a.wins.s.wb + f.d.toNat) (g none).1 false] := by
        unfold overLanes; rw [if_neg hb]
      unfold landed Eff.tainted
      rw [hw]
      refine ⟨fun hn => absurd hn h, fun _ => ⟨?_, ?_, rfl, rfl⟩, rfl, rfl⟩
      · show mget 0 (mset 0 x.files.s _ _) _ = _
        simp
      · intro k hk
        exact mget_mset_ne 0 _ _ _ _ hk
  · intro i _
    show (_ ||| _ : BitVec 5).getLsbD i = _
    rw [BitVec.getLsbD_or, joinFlags_counted, any_overLanes_flags]
    congr 1
    by_cases h : f.fc = 2
    · have hb : (f.fc == 2) = true := by simp [h]
      obtain ⟨q, hq⟩ := taint_map_v (readPoison a (usesOf op f (s.ctx a.name.ctx).regLayout) (lanesActed op f a)
        (remotePoison op f a) &&& a.help) (lanesOf (a.sel f)) (a.vKey f.d.toNat) (fun l => (g (some l)).1.setWidth 32)
        (fun _ => false)
      have hw : (overLanes f a g).ws = (lanesOf (a.sel f)).map (fun l => .v (a.vKey f.d.toNat l) ((g (some l)).1.setWidth 32) false) := by
        unfold overLanes; rw [if_pos hb]; simp [List.map_map, Function.comp_def]
      unfold Eff.tainted
      rw [hw, hq, writes_v_frame]
    · have hb : ¬ ((f.fc == 2) = true) := by simpa using h
      have hw : (overLanes f a g).ws = [.s (a.wins.s.wb + f.d.toNat) (g none).1 false] := by
        unfold overLanes; rw [if_neg hb]
      unfold Eff.tainted
      rw [hw]; rfl

theorem flagTrap_overLanes (f : Fields) (a : Thread) (g : Option Nat → Word × BitVec 5)
    (h : NoFlagTrap f a (fun l => (g l).2)) : flagTrap a (overLanes f a g).flags = none := by
  rw [flagTrap_eq_none]
  intro i h5 hr
  rw [any_overLanes_flags] at hr
  exact h i h5 hr

theorem prod_skip_overLanes (f : Fields) (a : Thread) (g : Option Nat → Word × BitVec 5) :
    (overLanes f a g).prod = 0 ∧ (overLanes f a g).skip = 0 := by
  unfold overLanes; split <;> exact ⟨rfl, rfl⟩

/-- A claim about where a result lands follows from the claim about the registers it writes. -/
theorem Lands.imp {op : Nat} {f : Fields} {a b : Thread} {W V : Thread → Thread → Prop} (h : Lands op f a b W)
    (hi : ∀ x y, W x y → V x y) : Lands op f a b V := by
  unfold Lands at h ⊢
  split
  · rename_i hll
    rw [if_pos hll] at h
    obtain ⟨p, h1, h2, h3⟩ := h
    exact ⟨p, h1, h2, fun w => ⟨(h3 w).1, hi _ _ (h3 w).2⟩⟩
  · rename_i hll
    rw [if_neg hll] at h
    exact hi _ _ h

theorem DoneHere.imp {op : Nat} {f : Fields} {s t : State} {P Q : Thread → Thread → Prop} (h : DoneHere op f s t P)
    (hi : ∀ b, P (s.issued op f).thr b → Q (s.issued op f).thr b) : DoneHere op f s t Q := by
  obtain ⟨v, hv, hu, hp⟩ := h
  exact ⟨v, hv, hu, hi _ hp⟩

/-- An arithmetic instruction whose meaning is a function of each lane gives its lanes. -/
theorem givesLanes_of_overLanes (op : Nat) (sem : Fields → Thread → Except TrapInfo Eff) (i : Instr) (f : Fields) (s : State)
    (g : Thread → Option Nat → Word × BitVec 5) (he : exec i s = .next (runAlu op sem f s))
    (hs : ∀ a, sem f a = .ok (overLanes f a (g a))) :
    GivesLanes op i f s (fun a l => (g a l).1) (fun a l => (g a l).2) := by
  show _ → _ → _ → _
  intro _ hi hn
  refine ⟨_, he, ?_⟩
  have hp := prod_skip_overLanes f (s.issued op f).thr (g (s.issued op f).thr)
  have hl := runAlu_lands op sem f s _ hi (hs _) (flagTrap_overLanes f _ _ hn) hp.1 hp.2
  refine hl.imp (fun b h => h.imp (fun x y hy => ?_))
  rw [hy]
  exact overLanes_result op f _ _ x _

end Sys2Proof.Machine
end

