-- ==== Sys2Proof/Laws/Values.lean ====
section
/-! SUPPORT. Laws of integer values: the operations of 07 R124-R126, computed on numbers, are those of bit vectors of the
type's width. -/

namespace Sys2Proof.Machine

/-- The width of every type lies between 8 and 64 bits. -/
theorem etBytes_pos (et : Nat) : 1 ≤ etBytes et := by
  unfold etBytes; split <;> decide

theorem etBits_eq (et : Nat) : etBits et = 8 * etBytes et := rfl

theorem etBits_pos (et : Nat) : 0 < 8 * etBytes et := by have := etBytes_pos et; omega

theorem etBits_le (et : Nat) : 8 * etBytes et ≤ 64 := by
  unfold etBytes; split <;> decide

theorem two_pow_half (n : Nat) (h : 0 < n) : 2 ^ n = 2 * 2 ^ (n - 1) := by
  obtain ⟨k, rfl⟩ : ∃ k, n = k + 1 := ⟨n - 1, by omega⟩
  rw [Nat.add_sub_cancel, Nat.pow_succ, Nat.mul_comm]

theorem toNat_low (et : Nat) (w : Word) : (low et w).toNat = w.toNat % 2 ^ (8 * etBytes et) := by
  simp [low, BitVec.toNat_setWidth]

/-- An operand's value as an integer. -/
theorem intVal_eq (et : Nat) (w : Word) : intVal et w = intOf et w := by
  have hp := two_pow_half _ (etBits_pos et)
  unfold intVal intOf
  simp only [etBits_eq]
  by_cases hs : etSigned et = true
  · simp only [hs, Bool.true_and, if_true]
    rw [BitVec.toInt_eq_toNat_cond, toNat_low]
    by_cases h : w.toNat % 2 ^ (8 * etBytes et) ≥ 2 ^ (8 * etBytes et - 1)
    · have h2 : ¬ 2 * (w.toNat % 2 ^ (8 * etBytes et)) < 2 ^ (8 * etBytes et) := by omega
      simp only [h, decide_true, if_true, h2, if_false]
      norm_cast
    · have h2 : 2 * (w.toNat % 2 ^ (8 * etBytes et)) < 2 ^ (8 * etBytes et) := by omega
      simp only [h, decide_false, h2, if_true]
      rfl
  · simp only [hs, toNat_low]
    rfl

/-- A register's extension of a value of an integer type. -/
theorem extendEt_eq (et : Nat) (hi : et < 8) (x : BitVec (8 * etBytes et)) : extendEt et x.toNat = extended et x := by
  have hp := two_pow_half _ (etBits_pos et)
  have hI : etIsInt et = true := by simpa [etIsInt] using hi
  unfold extendEt extended
  simp only [hI, Bool.true_and]
  by_cases hs : etSigned et = true
  · simp only [hs, if_true]
    rw [BitVec.signExtend, BitVec.toInt_eq_toNat_cond]
    congr 1
    by_cases h : x.toNat ≥ 2 ^ (8 * etBytes et - 1)
    · have h2 : ¬ 2 * x.toNat < 2 ^ (8 * etBytes et) := by omega
      simp only [h, if_true, h2, if_false]
      norm_cast
    · have h2 : 2 * x.toNat < 2 ^ (8 * etBytes et) := by omega
      simp only [h, if_false, h2, if_true]
      omega
  · simp only [hs]
    simp [BitVec.ofNat_toNat]

theorem intFit_eq (et : Nat) (hi : et < 8) (sat : Bool) (e : Int) : intFit et sat e = narrowed et sat e := by
  have key : ∀ e : Int, extendEt et (e.emod (2 ^ etBits et)).toNat = extended et (BitVec.ofInt (8 * etBytes et) e) := by
    intro e
    rw [← extendEt_eq et hi, BitVec.toNat_ofInt]
    rfl
  unfold intFit narrowed
  simp only [key]
  congr 2
  cases sat
  · rfl
  · simp only [if_true]
    have h1 : intMin et = leastOf et := rfl
    have h2 : intMax et = greatestOf et := rfl
    have h3 : leastOf et ≤ greatestOf et := by
      unfold leastOf greatestOf
      have : (0 : Int) < 2 ^ (8 * etBytes et - 1) := by exact_mod_cast Nat.two_pow_pos _
      have : (0 : Int) < 2 ^ (8 * etBytes et) := by exact_mod_cast Nat.two_pow_pos _
      split <;> omega
    rw [h1, h2]
    split
    · omega
    · split <;> omega

/-! ### Logic, shifts and bit counts -/

/-- The result of an operation on the low bits of two operands. -/
def bitsResult (g : Nat → Nat → Nat → Nat) (et : Nat) (a b : Word) : Word :=
  extendEt et (g (etBits et) (a.toNat % 2 ^ etBits et) (b.toNat % 2 ^ etBits et) % 2 ^ etBits et)

theorem bitsResult_eq (g : Nat → Nat → Nat → Nat) (et : Nat) (hi : et < 8) (a b : Word) (x : BitVec (8 * etBytes et))
    (h : x.toNat = g (8 * etBytes et) (low et a).toNat (low et b).toNat % 2 ^ (8 * etBytes et)) :
    bitsResult g et a b = extended et x := by
  rw [← extendEt_eq et hi, h, toNat_low, toNat_low]
  rfl

/-- The bits of a number whose first `m` bits are reversed into the top of `n` (07 R125). -/
theorem revBits_testBit (n a m : Nat) (hm : m ≤ n) (j : Nat) :
    ((List.range m).foldl (fun acc i => if a.testBit i then acc + 2 ^ (n - 1 - i) else acc) 0).testBit j =
      (decide (n - m ≤ j) && decide (j < n) && a.testBit (n - 1 - j)) := by
  suffices h : ∃ q, (List.range m).foldl (fun acc i => if a.testBit i then acc + 2 ^ (n - 1 - i) else acc) 0 = 2 ^ (n - m) * q ∧
      ∀ i, q.testBit i = (decide (i < m) && a.testBit (m - 1 - i)) by
    obtain ⟨q, hq, hb⟩ := h
    rw [hq, Nat.testBit_two_pow_mul, hb]
    by_cases h1 : n - m ≤ j
    · by_cases h2 : j < n
      · have e1 : j - (n - m) < m := by omega
        have e2 : m - 1 - (j - (n - m)) = n - 1 - j := by omega
        simp [h1, h2, e1, e2]
      · have e1 : ¬ j - (n - m) < m := by omega
        simp [h2, e1]
    · simp [h1]
  induction m with
  | zero => exact ⟨0, by simp, fun i => by simp⟩
  | succ m ih =>
    obtain ⟨q, hq, hb⟩ := ih (by omega)
    refine ⟨2 * q + (a.testBit m).toNat, ?_, ?_⟩
    · rw [List.range_succ, List.foldl_append, hq]
      have e : n - m = n - (m + 1) + 1 := by omega
      have e' : n - 1 - m = n - (m + 1) := by omega
      rw [e, Nat.pow_succ]
      simp only [List.foldl_cons, List.foldl_nil, e']
      cases a.testBit m
      · simp [Nat.mul_assoc]
      · simp [Nat.mul_assoc, Nat.mul_add]
    · intro i
      cases i with
      | zero =>
        have e : (2 * q + (a.testBit m).toNat) % 2 = (a.testBit m).toNat := by
          have : (a.testBit m).toNat < 2 := Bool.toNat_lt _
          omega
        rw [Nat.testBit_zero, e]
        cases h : a.testBit m <;> simp [h]
      | succ i =>
        have e : (2 * q + (a.testBit m).toNat) / 2 = q := by
          have : (a.testBit m).toNat < 2 := Bool.toNat_lt _
          omega
        rw [Nat.testBit_succ, e, hb]
        have e2 : m - (i + 1) = m - 1 - i := by omega
        by_cases h : i < m <;> simp [h, e2]

/-- Shifting further than the width of a signed value changes nothing more. -/
theorem div_pow_min (n : Nat) (v : Int) (k : Nat) (h1 : -(2 ^ (n - 1)) ≤ v) (h2 : v < 2 ^ (n - 1)) :
    v / 2 ^ min k n = v / 2 ^ k := by
  rcases Nat.le_total k n with h | h
  · rw [Nat.min_eq_left h]
  · rw [Nat.min_eq_right h]
    have big : ∀ m, n ≤ m → v / 2 ^ m = if v < 0 then -1 else 0 := by
      intro m hm
      have hle : (2 : Int) ^ (n - 1) ≤ 2 ^ m := by
        have := Nat.pow_le_pow_right (n := 2) (by decide) (show n - 1 ≤ m by omega)
        exact_mod_cast this
      have hpos : (0 : Int) < 2 ^ m := by exact_mod_cast Nat.two_pow_pos m
      split
      · rename_i hneg
        apply Int.le_antisymm
        · have : v / 2 ^ m < 0 := Int.ediv_neg_of_neg_of_pos hneg hpos
          omega
        · exact (Int.le_ediv_iff_mul_le hpos).mpr (by omega)
      · rename_i hnn
        exact Int.ediv_eq_zero_of_lt (by omega) (by omega)
    rw [big n (Nat.le_refl n), big k h]

section
variable (et : Nat) (hi : et < 8) (a b : Word)
include hi

theorem bits_and : bitsResult (fun _ a b => a &&& b) et a b = extended et (low et a &&& low et b) :=
  bitsResult_eq _ et hi a b _ (by
    rw [BitVec.toNat_and, Nat.mod_eq_of_lt]
    exact Nat.and_lt_two_pow _ (low et b).isLt)

theorem bits_or : bitsResult (fun _ a b => a ||| b) et a b = extended et (low et a ||| low et b) :=
  bitsResult_eq _ et hi a b _ (by
    rw [BitVec.toNat_or, Nat.mod_eq_of_lt]
    exact Nat.or_lt_two_pow (low et a).isLt (low et b).isLt)

theorem bits_xor : bitsResult (fun _ a b => a ^^^ b) et a b = extended et (low et a ^^^ low et b) :=
  bitsResult_eq _ et hi a b _ (by
    rw [BitVec.toNat_xor, Nat.mod_eq_of_lt]
    exact Nat.xor_lt_two_pow (low et a).isLt (low et b).isLt)

theorem bits_not : bitsResult (fun n a _ => 2 ^ n - 1 - a) et a b = extended et (~~~ low et a) :=
  bitsResult_eq _ et hi a b _ (by
    have h := (low et a).isLt
    rw [BitVec.toNat_not, Nat.mod_eq_of_lt]
    omega)

theorem bits_shl : bitsResult (fun n a k => if k ≥ n then 0 else a * 2 ^ k) et a b =
    extended et (low et a <<< (low et b).toNat) :=
  bitsResult_eq _ et hi a b _ (by
    rw [BitVec.toNat_shiftLeft, Nat.shiftLeft_eq]
    split
    · rename_i h
      rw [Nat.zero_mod]
      obtain ⟨c, hc⟩ := Nat.pow_dvd_pow 2 h
      rw [hc, ← Nat.mul_assoc, Nat.mul_comm (BitVec.toNat _) (2 ^ _), Nat.mul_assoc, Nat.mul_mod_right]
    · rfl)

theorem bits_shr : bitsResult (fun n a k => if k ≥ n then 0 else a / 2 ^ k) et a b =
    extended et (low et a >>> (low et b).toNat) :=
  bitsResult_eq _ et hi a b _ (by
    have h := (low et a).isLt
    rw [BitVec.toNat_ushiftRight, Nat.shiftRight_eq_div_pow]
    split
    · rename_i hk
      rw [Nat.zero_mod, Nat.div_eq_of_lt]
      exact Nat.lt_of_lt_of_le h (Nat.pow_le_pow_right (by decide) hk)
    · rw [Nat.mod_eq_of_lt]
      exact Nat.lt_of_le_of_lt (Nat.div_le_self _ _) h)

theorem bits_sar : bitsResult sarBits et a b = extended et ((low et a).sshiftRight (low et b).toNat) :=
  bitsResult_eq _ et hi a b _ (by
    have hp := two_pow_half _ (etBits_pos et)
    have h := (low et a).isLt
    unfold sarBits
    simp only []
    have hv : (if (low et a).toNat ≥ 2 ^ (8 * etBytes et - 1) then ((low et a).toNat : Int) - 2 ^ (8 * etBytes et)
        else ((low et a).toNat : Int)) = (low et a).toInt := by
      rw [BitVec.toInt_eq_toNat_cond]
      split
      · rename_i hge
        have h2 : ¬ 2 * (low et a).toNat < 2 ^ (8 * etBytes et) := by omega
        rw [if_neg h2]
        norm_cast
      · rename_i hge
        have h2 : 2 * (low et a).toNat < 2 ^ (8 * etBytes et) := by omega
        rw [if_pos h2]
    rw [hv]
    generalize (low et b).toNat = k
    rw [BitVec.sshiftRight_eq, BitVec.toNat_ofInt, Int.shiftRight_eq_div_pow, div_pow_min _ _ k (BitVec.le_toInt _)
      (BitVec.toInt_lt)]
    have hc : ((2 ^ (8 * etBytes et) : Nat) : Int) = 2 ^ (8 * etBytes et) := by norm_cast
    have hk : ((2 ^ k : Nat) : Int) = 2 ^ k := by norm_cast
    rw [hc, hk]
    have hpos : (0 : Int) < 2 ^ (8 * etBytes et) := by rw [← hc]; exact_mod_cast Nat.two_pow_pos _
    generalize (low et a).toInt / 2 ^ k = v
    have hlt : v.emod (2 ^ (8 * etBytes et)) < 2 ^ (8 * etBytes et) := Int.emod_lt_of_pos v hpos
    rw [Nat.mod_eq_of_lt]
    · rfl
    · have hz : (0 : Int) ≤ v.emod (2 ^ (8 * etBytes et)) := Int.emod_nonneg v (by omega)
      rw [← hc] at hlt hz
      rw [← hc]
      omega)

theorem bits_rol : bitsResult rolBits et a b = extended et ((low et a).rotateLeft (low et b).toNat) :=
  bitsResult_eq _ et hi a b _ (by
    have h := (low et a).isLt
    have hn := etBits_pos et
    generalize (low et b).toNat = k
    rw [BitVec.toNat_rotateLeft]
    unfold rolBits
    have hk : k % (8 * etBytes et) < 8 * etBytes et := Nat.mod_lt _ hn
    generalize k % (8 * etBytes et) = r at hk
    have hpow : 2 ^ (8 * etBytes et) = 2 ^ (8 * etBytes et - r) * 2 ^ r := by rw [← Nat.pow_add]; congr 1; omega
    have hb : (low et a).toNat / 2 ^ (8 * etBytes et - r) < 2 ^ r :=
      Nat.div_lt_of_lt_mul (by rw [← hpow]; exact h)
    have hs : (low et a).toNat * 2 ^ r % 2 ^ (8 * etBytes et) = ((low et a).toNat % 2 ^ (8 * etBytes et - r)) <<< r := by
      rw [hpow, Nat.mul_mod_mul_right, Nat.shiftLeft_eq]
    rw [Nat.shiftLeft_eq, hs, Nat.shiftRight_eq_div_pow, ← Nat.shiftLeft_add_eq_or_of_lt hb]
    refine (Nat.mod_eq_of_lt ?_).symm
    have h1 : (low et a).toNat % 2 ^ (8 * etBytes et - r) < 2 ^ (8 * etBytes et - r) := Nat.mod_lt _ (Nat.two_pow_pos _)
    rw [Nat.shiftLeft_eq, hpow]
    calc _ < (low et a).toNat % 2 ^ (8 * etBytes et - r) * 2 ^ r + 2 ^ r := by omega
      _ = ((low et a).toNat % 2 ^ (8 * etBytes et - r) + 1) * 2 ^ r := (Nat.succ_mul _ _).symm
      _ ≤ _ := Nat.mul_le_mul_right _ h1)

/-- The number of 1 bits, and the number of 0 bits above the highest (07 R125). -/
theorem bits_popc : bitsResult (fun n a _ => popBits n a) et a b =
    extended et (BitVec.ofNat _ ((List.range (8 * etBytes et)).filter (low et a).getLsbD).length) :=
  bitsResult_eq _ et hi a b _ (by rw [BitVec.toNat_ofNat]; rfl)

theorem bits_clz : bitsResult (fun n a _ => clzBits n a) et a b = extended et (low et a).clz :=
  bitsResult_eq _ et hi a b _ (by
    have hw := etBits_pos et
    have hlt : 8 * etBytes et < 2 ^ (8 * etBytes et) := Nat.lt_two_pow_self
    unfold clzBits
    by_cases h0 : low et a = 0
    · rw [BitVec.clz_eq_iff_eq_zero.mpr h0, h0]
      simp
    · have hn : (low et a).toNat ≠ 0 := fun e => h0 (BitVec.eq_of_toNat_eq (by simpa using e))
      have h1 := BitVec.two_pow_sub_clz_le_toNat_of_ne_zero hw h0
      have h2 := BitVec.toNat_lt_two_pow_sub_clz (x := low et a)
      have hl : Nat.log2 (low et a).toNat = 8 * etBytes et - 1 - (low et a).clz.toNat := by
        refine (Nat.log2_eq_iff hn).mpr ⟨h1, Nat.lt_of_lt_of_le h2 (Nat.pow_le_pow_right (by decide) (by omega))⟩
      have hc : (low et a).clz.toNat < 8 * etBytes et := by
        have h3 := Nat.lt_of_le_of_ne (Nat.zero_le _) hn.symm
        rcases Nat.lt_or_ge (low et a).clz.toNat (8 * etBytes et) with h | h
        · exact h
        · rw [Nat.sub_eq_zero_of_le h] at h2
          omega
      rw [if_neg hn, hl, Nat.mod_eq_of_lt] <;> omega)

theorem bits_brev : bitsResult (fun n a _ => revBits n a) et a b = extended et (low et a).reverse :=
  bitsResult_eq _ et hi a b _ (by
    have h := revBits_testBit (8 * etBytes et) (low et a).toNat (8 * etBytes et) (Nat.le_refl _)
    have hlt := (low et a).reverse.isLt
    apply Nat.eq_of_testBit_eq
    intro j
    rw [Nat.testBit_mod_two_pow]
    unfold revBits
    rw [h j, BitVec.testBit_toNat, BitVec.getLsbD_reverse, BitVec.getMsbD]
    by_cases hj : j < 8 * etBytes et
    · have h1 : 8 * etBytes et - 8 * etBytes et ≤ j := by omega
      simp [hj, BitVec.testBit_toNat]
    · simp [hj])

end

end Sys2Proof.Machine
end

