-- ==== Sys2Proof/Laws/Gives.lean ====
section
/-! SUPPORT. How the claims of Safety follow from the body of an instruction: a body that answers a state gives a slot, one that
traps gives a trap; and small facts about the bodies. -/

namespace Sys2Proof.Machine

/-- A body that changes only the issuing thread. -/
theorem givesThread_of_body (op : Nat) (i : Instr) (f : Fields) (s : State) (H : Thread → Prop) (P : Thread → Thread → Prop)
    (body : State → Except TrapInfo State) (he : exec i s = .next (runLong op f s body))
    (hb : ∀ u : State, checkLong op f = none → H u.thr → ∃ y, body u = .ok { u with thr := y } ∧ P u.thr y) :
    GivesThread op i f s H P := by
  intro hc hi hh
  obtain ⟨y, h1, h2⟩ := hb _ hc hh
  exact ⟨_, he, _, runLong_ok op f s _ _ hi h1, rfl, h2⟩

/-- A body that changes the state. -/
theorem givesState_of_body (op : Nat) (i : Instr) (f : Fields) (s : State) (H : State → Prop) (P : State → State → Prop)
    (body : State → Except TrapInfo State) (he : exec i s = .next (runLong op f s body))
    (hb : ∀ u : State, checkLong op f = none → H u → ∃ v, body u = .ok v ∧ P u v) : GivesState op i f s H P := by
  intro hc hi hh
  obtain ⟨v, h1, h2⟩ := hb _ hc hh
  exact ⟨_, he, _, runLong_ok op f s _ _ hi h1, h2⟩

/-- A body that traps. -/
theorem givesTrap_of_body (op : Nat) (i : Instr) (f : Fields) (s : State) (H : State → Prop) (tr : State → TrapInfo)
    (body : State → Except TrapInfo State) (he : exec i s = .next (runLong op f s body))
    (hb : ∀ u : State, checkLong op f = none → H u → body u = .error (tr u)) : GivesTrap op i f s H tr := by
  intro hc hi hh
  rw [he, runLong_error op f s _ body hi (hb _ hc hh)]

/-- A register instruction whose effect is known: the writes land, whatever they are. -/
theorem givesRegs_of_sem (op : Nat) (sem : Fields → Thread → Except TrapInfo Eff) (i : Instr) (f : Fields) (s : State)
    (H : Thread → Prop) (W : Thread → Thread → Thread → Prop) (he : exec i s = .next (runAlu op sem f s))
    (hs : ∀ a, checkLong op f = none → H a → ∃ e, sem f a = .ok e ∧ flagTrap a e.flags = none ∧ e.prod = 0 ∧ e.skip = 0 ∧
      ∀ (u : State) x, W a x (landed op f u a e x)) : GivesRegs op i f s H W := by
  intro hc hi hh
  obtain ⟨e, h1, h2, h3, h4, h5⟩ := hs _ hc hh
  refine ⟨_, he, ?_⟩
  have hl := runAlu_lands op sem f s e hi h1 h2 h3 h4
  refine hl.imp (fun b h => h.imp (fun x y hy => ?_))
  rw [hy]
  exact h5 _ x

/-- A register instruction whose effect is a trap. -/
theorem givesTrap_of_sem (op : Nat) (sem : Fields → Thread → Except TrapInfo Eff) (i : Instr) (f : Fields) (s : State)
    (H : State → Prop) (tr : State → TrapInfo) (he : exec i s = .next (runAlu op sem f s))
    (hs : ∀ u : State, checkLong op f = none → H u → sem f u.thr = .error (tr u)) : GivesTrap op i f s H tr := by
  refine givesTrap_of_body op i f s H tr _ he (fun u hc hh => ?_)
  show (sem f u.thr).bind _ = _
  rw [hs u hc hh]
  rfl

/-- A multiple of four bytes as parcels. -/
theorem pc_parcels (p : Pc) (n : Nat) : p + BitVec.ofNat 55 (4 * n) = p + 4 * BitVec.ofNat 55 n := by
  congr 1
  apply BitVec.eq_of_toNat_eq
  simp

/-- A write of the uniform register D. -/
theorem uniResult_write (f : Fields) (a x : Thread) (w : Word) :
    UniResult f a x (x.write (.s (a.wins.s.wb + f.d.toNat) w false)) w := by
  refine ⟨?_, ?_, rfl⟩
  · simp [Thread.write]
  · intro k hk
    simp [Thread.write, mget_mset, hk]

/-- A write of an affine register D. -/
theorem affResult_write (f : Fields) (a x : Thread) (r : Affine) :
    AffResult f a x (x.write (.a (a.wins.a.wb + f.d.toNat) r false)) r := by
  refine ⟨?_, ?_, rfl⟩
  · simp [Thread.write]
  · intro k hk
    simp [Thread.write, mget_mset, hk]

/-- A bit of a conditions' byte after one is written. -/
theorem cond_write (x : Thread) (n : Nat) (b : Bool) (hn : n < 8) (k : Nat) :
    (x.write (.c n b)).cond k = if k = n then b else x.cond k := by
  unfold Thread.write Thread.cond
  cases b
  · by_cases hk : k < 8
    · by_cases e : k = n
      · subst e; simp [hk]
      · simp [hk, e]
        intro _
        omega
    · have e : k ≠ n := by omega
      have hk' : x.conds.getLsbD k = false := BitVec.getLsbD_of_ge _ _ (by omega)
      simp [e, hk, hk']
  · by_cases hk : k < 8
    · by_cases e : k = n
      · subst e; simp [hk]
      · simp [hk, e]
        intro h
        omega
    · have e : k ≠ n := by omega
      have hk' : x.conds.getLsbD k = false := BitVec.getLsbD_of_ge _ _ (by omega)
      simp [e, hk, hk']

/-- A write of a condition register. -/
theorem condResult_write (x : Thread) (n : Nat) (b : Bool) (hn : n < 8) : CondResult n x (x.write (.c n b)) b := by
  refine ⟨?_, ?_, rfl⟩
  · rw [cond_write x n b hn, if_pos rfl]
  · intro k hk
    rw [cond_write x n b hn, if_neg hk]

/-- A bit of a mask built lane by lane. -/
theorem getLsbD_maskOf (p : Nat → Bool) (l : Nat) : (maskOf p).getLsbD l = (decide (l < 64) && p l) := by
  have key : ∀ (ls : List Nat) (m : Word), (∀ i ∈ ls, i < 64) →
      ((ls.foldl (fun m i => if p i then m ||| ((1 : Word) <<< i) else m) m).getLsbD l =
        (m.getLsbD l || (ls.contains l && p l))) := by
    intro ls
    induction ls with
    | nil => intro m _; simp
    | cons i ls ih =>
      intro m h
      simp only [List.foldl_cons]
      rw [ih _ (fun j hj => h j (by simp [hj]))]
      have hi := h i (by simp)
      by_cases e : l = i
      · subst e
        by_cases hp : p l = true
        · simp [hp, hi]
        · simp [hp]
      · have : ((i :: ls).contains l) = ls.contains l := by simp [e]
        rw [this]
        by_cases hp : p i = true
        · simp only [hp, if_true, BitVec.getLsbD_or]
          have h1 : ((1 : Word) <<< i).getLsbD l = false := by
            simp only [BitVec.getLsbD_shiftLeft]
            by_cases hl : l < i
            · simp [hl]
            · have : l - i ≠ 0 := by omega
              simp [this]
          rw [h1, Bool.or_false]
        · simp [hp]
  unfold maskOf
  rw [key _ _ (by simp)]
  by_cases h : l < 64 <;> simp [h]

/-- A thread with nothing spilled and a stack that is held whole fits. -/
theorem spillFits_of_zero (t : Thread) (h1 : t.wins.s.low = 0) (h2 : t.wins.a.low = 0) (h3 : t.wins.v.low = 0)
    (h4 : t.stack.length ≤ 16) : t.spillFits = true := by
  have h : t.spill = 0 := by
    unfold Thread.spill
    rw [h1, h2, h3, Nat.sub_eq_zero_of_le h4]
    rfl
  unfold Thread.spillFits
  rw [h]
  split <;> simp

theorem windowsAre_restore (w : Wins) (b : Bases) : WindowsAre w (w.restore b) b := ⟨rfl, rfl, rfl, rfl⟩

/-! ### The class loop -/

theorem lanesOf_real (p h : Word) (l : Nat) :
    l ∈ lanesOf (p &&& ~~~ h) ↔ l < 64 ∧ p.getLsbD l = true ∧ h.getLsbD l = false := by
  rw [mem_lanesOf]
  constructor
  · rintro ⟨hl, hb⟩
    simp only [BitVec.getLsbD_and, BitVec.getLsbD_not, hl, decide_true, Bool.true_and, Bool.and_eq_true] at hb
    exact ⟨hl, hb.1, by simpa using hb.2⟩
  · rintro ⟨hl, h1, h2⟩
    exact ⟨hl, by rw [BitVec.getLsbD_and, BitVec.getLsbD_not, h1, h2]; simp [hl]⟩

theorem lanesOf_eq_nil (m : Word) : lanesOf m = [] ↔ m = 0 := by
  constructor
  · intro h
    apply BitVec.eq_of_getLsbD_eq
    intro i hi
    cases hb : m.getLsbD i
    · simp
    · have : i ∈ lanesOf m := (mem_lanesOf m i).mpr ⟨hi, hb⟩
      rw [h] at this
      cases this
  · rintro rfl
    simp [lanesOf]

theorem pairwise_lanesOf (m : Word) : (lanesOf m).Pairwise (· < ·) :=
  List.Pairwise.filter _ List.pairwise_lt_range

/-- The least key over some lanes. -/
theorem minKey_spec (t : Thread) (k : Key) (ls : List Nat) (h : ls ≠ []) :
    (∃ l ∈ ls, keyOf t k l = minKey t k ls) ∧ ∀ j ∈ ls, (minKey t k ls).toNat ≤ (keyOf t k j).toNat := by
  have key : ∀ (ls : List Nat) (m : LaneWord),
      (let r := ls.foldl (fun m l => let x := keyOf t k l; if x.toNat < m.toNat then x else m) m
       (r = m ∨ ∃ l ∈ ls, keyOf t k l = r) ∧ r.toNat ≤ m.toNat ∧ ∀ j ∈ ls, r.toNat ≤ (keyOf t k j).toNat) := by
    intro ls
    induction ls with
    | nil => intro m; simp
    | cons a ls ih =>
      intro m
      simp only [List.foldl_cons]
      obtain ⟨h1, h2, h3⟩ := ih (if (keyOf t k a).toNat < m.toNat then keyOf t k a else m)
      generalize List.foldl (fun m l => let x := keyOf t k l; if x.toNat < m.toNat then x else m)
        (if (keyOf t k a).toNat < m.toNat then keyOf t k a else m) ls = r at h1 h2 h3
      by_cases hlt : (keyOf t k a).toNat < m.toNat
      · rw [if_pos hlt] at h1 h2
        refine ⟨.inr ?_, by omega, ?_⟩
        · rcases h1 with h1 | ⟨l, hl, e⟩
          · exact ⟨a, by simp, h1.symm⟩
          · exact ⟨l, by simp [hl], e⟩
        · intro j hj
          rcases List.mem_cons.mp hj with rfl | hj
          · exact h2
          · exact h3 j hj
      · rw [if_neg hlt] at h1 h2
        refine ⟨?_, h2, ?_⟩
        · rcases h1 with h1 | ⟨l, hl, e⟩
          · exact .inl h1
          · exact .inr ⟨l, by simp [hl], e⟩
        · intro j hj
          rcases List.mem_cons.mp hj with rfl | hj
          · omega
          · exact h3 j hj
  obtain ⟨a, ls, rfl⟩ := List.exists_cons_of_ne_nil h
  obtain ⟨h1, h2, h3⟩ := key (a :: ls) (keyOf t k a)
  refine ⟨?_, h3⟩
  rcases h1 with h1 | h1
  · exact ⟨a, by simp, h1.symm⟩
  · exact h1

/-- start_next_class does what 04 R74 says when some real lane is pending. -/
theorem startNextClass_starts (a : Thread) (e : ClassEntry) (rest : List Entry) (h : e.pend &&& ~~~ a.help ≠ 0) :
    ClassStarts a (startNextClass a e rest) e rest := by
  have hne : lanesOf (e.pend &&& ~~~ a.help) ≠ [] := fun hn => h ((lanesOf_eq_nil _).mp hn)
  have hcls : ∀ (k : LaneWord) (l : Nat), l < 64 →
      (maskOf (fun l => e.pend.getLsbD l && keyOf a e.key l == k)).getLsbD l = (e.pend.getLsbD l && keyOf a e.key l == k) := by
    intro k l hl
    rw [getLsbD_maskOf]
    simp [hl]
  unfold startNextClass
  simp only []
  refine ⟨_, ?_, hcls _, rfl, rfl, ?_, ?_, rfl⟩
  · cases ho : e.order with
    | first =>
      obtain ⟨l, ls, hl⟩ := List.exists_cons_of_ne_nil hne
      refine ⟨l, (lanesOf_real _ _ l).mp (by rw [hl]; simp), by simp [hl], ?_⟩
      intro j hj
      have hj' := (lanesOf_real e.pend a.help j).mpr hj
      have hp := pairwise_lanesOf (e.pend &&& ~~~ a.help)
      rw [hl] at hj' hp
      rcases List.mem_cons.mp hj' with rfl | hj'
      · exact Nat.le_refl _
      · exact Nat.le_of_lt ((List.pairwise_cons.mp hp).1 j hj')
    | asc =>
      obtain ⟨⟨l, hl, hk⟩, hm⟩ := minKey_spec a e.key _ hne
      exact ⟨⟨l, (lanesOf_real _ _ l).mp hl, hk⟩, fun j hj => hm j ((lanesOf_real _ _ j).mpr hj)⟩
    | mask =>
      by_cases hx : (lanesOf (e.pend &&& ~~~ a.help)).any (fun l => keyOf a e.key l == 1) = true
      · left
        refine ⟨if_pos hx, ?_⟩
        obtain ⟨l, hl, hk⟩ := List.any_eq_true.mp hx
        exact ⟨l, (lanesOf_real _ _ l).mp hl, by simpa using hk⟩
      · right
        refine ⟨if_neg hx, ?_⟩
        intro l hl hk
        exact hx (List.any_eq_true.mpr ⟨l, (lanesOf_real _ _ l).mpr hl, by simpa using hk⟩)
  · simp [Thread.write]
  · intro j hj
    simp [Thread.write, mget_mset, hj]

end Sys2Proof.Machine
end

