-- ==== Sys2Proof/Laws/State.lean ====
section
/-! SUPPORT. What each update of the state and of a thread leaves in each field, so that no proof unfolds a record update. -/

namespace Sys2Proof.Machine

/-! modThr -/
@[simp] theorem modThr_thr (s : State) (g : Thread → Thread) : (s.modThr g).thr = g s.thr := rfl
@[simp] theorem modThr_parked (s : State) (g : Thread → Thread) : (s.modThr g).parked = s.parked := rfl
@[simp] theorem modThr_mem (s : State) (g : Thread → Thread) : (s.modThr g).mem = s.mem := rfl
@[simp] theorem modThr_tags (s : State) (g : Thread → Thread) : (s.modThr g).tags = s.tags := rfl
@[simp] theorem modThr_swz (s : State) (g : Thread → Thread) : (s.modThr g).swz = s.swz := rfl
@[simp] theorem modThr_poisonMem (s : State) (g : Thread → Thread) : (s.modThr g).poisonMem = s.poisonMem := rfl
@[simp] theorem modThr_owners (s : State) (g : Thread → Thread) : (s.modThr g).owners = s.owners := rfl
@[simp] theorem modThr_cores (s : State) (g : Thread → Thread) : (s.modThr g).cores = s.cores := rfl
@[simp] theorem modThr_ctxs (s : State) (g : Thread → Thread) : (s.modThr g).ctxs = s.ctxs := rfl
@[simp] theorem modThr_teams (s : State) (g : Thread → Thread) : (s.modThr g).teams = s.teams := rfl
@[simp] theorem modThr_launches (s : State) (g : Thread → Thread) : (s.modThr g).launches = s.launches := rfl
@[simp] theorem modThr_teamBars (s : State) (g : Thread → Thread) : (s.modThr g).teamBars = s.teamBars := rfl
@[simp] theorem modThr_spanBars (s : State) (g : Thread → Thread) : (s.modThr g).spanBars = s.spanBars := rfl
@[simp] theorem modThr_cmds (s : State) (g : Thread → Thread) : (s.modThr g).cmds = s.cmds := rfl
@[simp] theorem modThr_nodes (s : State) (g : Thread → Thread) : (s.modThr g).nodes = s.nodes := rfl
@[simp] theorem modThr_colls (s : State) (g : Thread → Thread) : (s.modThr g).colls = s.colls := rfl
@[simp] theorem modThr_contribs (s : State) (g : Thread → Thread) : (s.modThr g).contribs = s.contribs := rfl
@[simp] theorem modThr_lastPlaced (s : State) (g : Thread → Thread) : (s.modThr g).lastPlaced = s.lastPlaced := rfl
@[simp] theorem modThr_picks (s : State) (g : Thread → Thread) : (s.modThr g).picks = s.picks := rfl
@[simp] theorem modThr_hub (s : State) (g : Thread → Thread) : (s.modThr g).hub = s.hub := rfl
@[simp] theorem modThr_turn (s : State) (g : Thread → Thread) : (s.modThr g).turn = s.turn := rfl
@[simp] theorem modThr_tick (s : State) (g : Thread → Thread) : (s.modThr g).tick = s.tick := rfl
@[simp] theorem modThr_clock (s : State) (g : Thread → Thread) : (s.modThr g).clock = s.clock := rfl
@[simp] theorem modThr_nextId (s : State) (g : Thread → Thread) : (s.modThr g).nextId = s.nextId := rfl

/-! dropThr -/
@[simp] theorem dropThr_thr (s : State) : (s.dropThr).thr = {} := rfl
@[simp] theorem dropThr_parked (s : State) : (s.dropThr).parked = s.parked := rfl
@[simp] theorem dropThr_mem (s : State) : (s.dropThr).mem = s.mem := rfl
@[simp] theorem dropThr_tags (s : State) : (s.dropThr).tags = s.tags := rfl
@[simp] theorem dropThr_swz (s : State) : (s.dropThr).swz = s.swz := rfl
@[simp] theorem dropThr_poisonMem (s : State) : (s.dropThr).poisonMem = s.poisonMem := rfl
@[simp] theorem dropThr_owners (s : State) : (s.dropThr).owners = s.owners := rfl
@[simp] theorem dropThr_cores (s : State) : (s.dropThr).cores = s.cores := rfl
@[simp] theorem dropThr_ctxs (s : State) : (s.dropThr).ctxs = s.ctxs := rfl
@[simp] theorem dropThr_teams (s : State) : (s.dropThr).teams = s.teams := rfl
@[simp] theorem dropThr_launches (s : State) : (s.dropThr).launches = s.launches := rfl
@[simp] theorem dropThr_teamBars (s : State) : (s.dropThr).teamBars = s.teamBars := rfl
@[simp] theorem dropThr_spanBars (s : State) : (s.dropThr).spanBars = s.spanBars := rfl
@[simp] theorem dropThr_cmds (s : State) : (s.dropThr).cmds = s.cmds := rfl
@[simp] theorem dropThr_nodes (s : State) : (s.dropThr).nodes = s.nodes := rfl
@[simp] theorem dropThr_colls (s : State) : (s.dropThr).colls = s.colls := rfl
@[simp] theorem dropThr_contribs (s : State) : (s.dropThr).contribs = s.contribs := rfl
@[simp] theorem dropThr_lastPlaced (s : State) : (s.dropThr).lastPlaced = s.lastPlaced := rfl
@[simp] theorem dropThr_picks (s : State) : (s.dropThr).picks = s.picks := rfl
@[simp] theorem dropThr_hub (s : State) : (s.dropThr).hub = s.hub := rfl
@[simp] theorem dropThr_turn (s : State) : (s.dropThr).turn = s.turn := rfl
@[simp] theorem dropThr_tick (s : State) : (s.dropThr).tick = s.tick := rfl
@[simp] theorem dropThr_clock (s : State) : (s.dropThr).clock = s.clock := rfl
@[simp] theorem dropThr_nextId (s : State) : (s.dropThr).nextId = s.nextId := rfl

/-! mapThreads -/
@[simp] theorem mapThreads_thr (s : State) (g : Thread → Thread) : (s.mapThreads g).thr = if s.thr.status == .absent then s.thr else g s.thr := rfl
@[simp] theorem mapThreads_parked (s : State) (g : Thread → Thread) : (s.mapThreads g).parked = s.parked.map g := rfl
@[simp] theorem mapThreads_mem (s : State) (g : Thread → Thread) : (s.mapThreads g).mem = s.mem := rfl
@[simp] theorem mapThreads_tags (s : State) (g : Thread → Thread) : (s.mapThreads g).tags = s.tags := rfl
@[simp] theorem mapThreads_swz (s : State) (g : Thread → Thread) : (s.mapThreads g).swz = s.swz := rfl
@[simp] theorem mapThreads_poisonMem (s : State) (g : Thread → Thread) : (s.mapThreads g).poisonMem = s.poisonMem := rfl
@[simp] theorem mapThreads_owners (s : State) (g : Thread → Thread) : (s.mapThreads g).owners = s.owners := rfl
@[simp] theorem mapThreads_cores (s : State) (g : Thread → Thread) : (s.mapThreads g).cores = s.cores := rfl
@[simp] theorem mapThreads_ctxs (s : State) (g : Thread → Thread) : (s.mapThreads g).ctxs = s.ctxs := rfl
@[simp] theorem mapThreads_teams (s : State) (g : Thread → Thread) : (s.mapThreads g).teams = s.teams := rfl
@[simp] theorem mapThreads_launches (s : State) (g : Thread → Thread) : (s.mapThreads g).launches = s.launches := rfl
@[simp] theorem mapThreads_teamBars (s : State) (g : Thread → Thread) : (s.mapThreads g).teamBars = s.teamBars := rfl
@[simp] theorem mapThreads_spanBars (s : State) (g : Thread → Thread) : (s.mapThreads g).spanBars = s.spanBars := rfl
@[simp] theorem mapThreads_cmds (s : State) (g : Thread → Thread) : (s.mapThreads g).cmds = s.cmds := rfl
@[simp] theorem mapThreads_nodes (s : State) (g : Thread → Thread) : (s.mapThreads g).nodes = s.nodes := rfl
@[simp] theorem mapThreads_colls (s : State) (g : Thread → Thread) : (s.mapThreads g).colls = s.colls := rfl
@[simp] theorem mapThreads_contribs (s : State) (g : Thread → Thread) : (s.mapThreads g).contribs = s.contribs := rfl
@[simp] theorem mapThreads_lastPlaced (s : State) (g : Thread → Thread) : (s.mapThreads g).lastPlaced = s.lastPlaced := rfl
@[simp] theorem mapThreads_picks (s : State) (g : Thread → Thread) : (s.mapThreads g).picks = s.picks := rfl
@[simp] theorem mapThreads_hub (s : State) (g : Thread → Thread) : (s.mapThreads g).hub = s.hub := rfl
@[simp] theorem mapThreads_turn (s : State) (g : Thread → Thread) : (s.mapThreads g).turn = s.turn := rfl
@[simp] theorem mapThreads_tick (s : State) (g : Thread → Thread) : (s.mapThreads g).tick = s.tick := rfl
@[simp] theorem mapThreads_clock (s : State) (g : Thread → Thread) : (s.mapThreads g).clock = s.clock := rfl
@[simp] theorem mapThreads_nextId (s : State) (g : Thread → Thread) : (s.mapThreads g).nextId = s.nextId := rfl

/-! onThread -/
@[simp] theorem onThread_parked (s : State) (n : Nat) (g : Thread → Thread) : (s.onThread n g).parked = s.parked.map (fun t => if t.id == n then g t else t) := rfl
@[simp] theorem onThread_mem (s : State) (n : Nat) (g : Thread → Thread) : (s.onThread n g).mem = s.mem := rfl
@[simp] theorem onThread_tags (s : State) (n : Nat) (g : Thread → Thread) : (s.onThread n g).tags = s.tags := rfl
@[simp] theorem onThread_swz (s : State) (n : Nat) (g : Thread → Thread) : (s.onThread n g).swz = s.swz := rfl
@[simp] theorem onThread_poisonMem (s : State) (n : Nat) (g : Thread → Thread) : (s.onThread n g).poisonMem = s.poisonMem := rfl
@[simp] theorem onThread_owners (s : State) (n : Nat) (g : Thread → Thread) : (s.onThread n g).owners = s.owners := rfl
@[simp] theorem onThread_cores (s : State) (n : Nat) (g : Thread → Thread) : (s.onThread n g).cores = s.cores := rfl
@[simp] theorem onThread_ctxs (s : State) (n : Nat) (g : Thread → Thread) : (s.onThread n g).ctxs = s.ctxs := rfl
@[simp] theorem onThread_teams (s : State) (n : Nat) (g : Thread → Thread) : (s.onThread n g).teams = s.teams := rfl
@[simp] theorem onThread_launches (s : State) (n : Nat) (g : Thread → Thread) : (s.onThread n g).launches = s.launches := rfl
@[simp] theorem onThread_teamBars (s : State) (n : Nat) (g : Thread → Thread) : (s.onThread n g).teamBars = s.teamBars := rfl
@[simp] theorem onThread_spanBars (s : State) (n : Nat) (g : Thread → Thread) : (s.onThread n g).spanBars = s.spanBars := rfl
@[simp] theorem onThread_cmds (s : State) (n : Nat) (g : Thread → Thread) : (s.onThread n g).cmds = s.cmds := rfl
@[simp] theorem onThread_nodes (s : State) (n : Nat) (g : Thread → Thread) : (s.onThread n g).nodes = s.nodes := rfl
@[simp] theorem onThread_colls (s : State) (n : Nat) (g : Thread → Thread) : (s.onThread n g).colls = s.colls := rfl
@[simp] theorem onThread_contribs (s : State) (n : Nat) (g : Thread → Thread) : (s.onThread n g).contribs = s.contribs := rfl
@[simp] theorem onThread_lastPlaced (s : State) (n : Nat) (g : Thread → Thread) : (s.onThread n g).lastPlaced = s.lastPlaced := rfl
@[simp] theorem onThread_picks (s : State) (n : Nat) (g : Thread → Thread) : (s.onThread n g).picks = s.picks := rfl
@[simp] theorem onThread_hub (s : State) (n : Nat) (g : Thread → Thread) : (s.onThread n g).hub = s.hub := rfl
@[simp] theorem onThread_turn (s : State) (n : Nat) (g : Thread → Thread) : (s.onThread n g).turn = s.turn := rfl
@[simp] theorem onThread_tick (s : State) (n : Nat) (g : Thread → Thread) : (s.onThread n g).tick = s.tick := rfl
@[simp] theorem onThread_clock (s : State) (n : Nat) (g : Thread → Thread) : (s.onThread n g).clock = s.clock := rfl
@[simp] theorem onThread_nextId (s : State) (n : Nat) (g : Thread → Thread) : (s.onThread n g).nextId = s.nextId := rfl

/-! setCore -/
@[simp] theorem setCore_thr (s : State) (n : Nat) (c : Core) : (s.setCore n c).thr = s.thr := rfl
@[simp] theorem setCore_parked (s : State) (n : Nat) (c : Core) : (s.setCore n c).parked = s.parked := rfl
@[simp] theorem setCore_mem (s : State) (n : Nat) (c : Core) : (s.setCore n c).mem = s.mem := rfl
@[simp] theorem setCore_tags (s : State) (n : Nat) (c : Core) : (s.setCore n c).tags = s.tags := rfl
@[simp] theorem setCore_swz (s : State) (n : Nat) (c : Core) : (s.setCore n c).swz = s.swz := rfl
@[simp] theorem setCore_poisonMem (s : State) (n : Nat) (c : Core) : (s.setCore n c).poisonMem = s.poisonMem := rfl
@[simp] theorem setCore_owners (s : State) (n : Nat) (c : Core) : (s.setCore n c).owners = s.owners := rfl
@[simp] theorem setCore_cores (s : State) (n : Nat) (c : Core) : (s.setCore n c).cores = mset {} s.cores n c := rfl
@[simp] theorem setCore_ctxs (s : State) (n : Nat) (c : Core) : (s.setCore n c).ctxs = s.ctxs := rfl
@[simp] theorem setCore_teams (s : State) (n : Nat) (c : Core) : (s.setCore n c).teams = s.teams := rfl
@[simp] theorem setCore_launches (s : State) (n : Nat) (c : Core) : (s.setCore n c).launches = s.launches := rfl
@[simp] theorem setCore_teamBars (s : State) (n : Nat) (c : Core) : (s.setCore n c).teamBars = s.teamBars := rfl
@[simp] theorem setCore_spanBars (s : State) (n : Nat) (c : Core) : (s.setCore n c).spanBars = s.spanBars := rfl
@[simp] theorem setCore_cmds (s : State) (n : Nat) (c : Core) : (s.setCore n c).cmds = s.cmds := rfl
@[simp] theorem setCore_nodes (s : State) (n : Nat) (c : Core) : (s.setCore n c).nodes = s.nodes := rfl
@[simp] theorem setCore_colls (s : State) (n : Nat) (c : Core) : (s.setCore n c).colls = s.colls := rfl
@[simp] theorem setCore_contribs (s : State) (n : Nat) (c : Core) : (s.setCore n c).contribs = s.contribs := rfl
@[simp] theorem setCore_lastPlaced (s : State) (n : Nat) (c : Core) : (s.setCore n c).lastPlaced = s.lastPlaced := rfl
@[simp] theorem setCore_picks (s : State) (n : Nat) (c : Core) : (s.setCore n c).picks = s.picks := rfl
@[simp] theorem setCore_hub (s : State) (n : Nat) (c : Core) : (s.setCore n c).hub = s.hub := rfl
@[simp] theorem setCore_turn (s : State) (n : Nat) (c : Core) : (s.setCore n c).turn = s.turn := rfl
@[simp] theorem setCore_tick (s : State) (n : Nat) (c : Core) : (s.setCore n c).tick = s.tick := rfl
@[simp] theorem setCore_clock (s : State) (n : Nat) (c : Core) : (s.setCore n c).clock = s.clock := rfl
@[simp] theorem setCore_nextId (s : State) (n : Nat) (c : Core) : (s.setCore n c).nextId = s.nextId := rfl

/-! setBar -/
@[simp] theorem setBar_thr (s : State) (n i : Nat) (b : TxBar) : (s.setBar n i b).thr = s.thr := rfl
@[simp] theorem setBar_parked (s : State) (n i : Nat) (b : TxBar) : (s.setBar n i b).parked = s.parked := rfl
@[simp] theorem setBar_mem (s : State) (n i : Nat) (b : TxBar) : (s.setBar n i b).mem = s.mem := rfl
@[simp] theorem setBar_tags (s : State) (n i : Nat) (b : TxBar) : (s.setBar n i b).tags = s.tags := rfl
@[simp] theorem setBar_swz (s : State) (n i : Nat) (b : TxBar) : (s.setBar n i b).swz = s.swz := rfl
@[simp] theorem setBar_poisonMem (s : State) (n i : Nat) (b : TxBar) : (s.setBar n i b).poisonMem = s.poisonMem := rfl
@[simp] theorem setBar_owners (s : State) (n i : Nat) (b : TxBar) : (s.setBar n i b).owners = s.owners := rfl
@[simp] theorem setBar_ctxs (s : State) (n i : Nat) (b : TxBar) : (s.setBar n i b).ctxs = s.ctxs := rfl
@[simp] theorem setBar_teams (s : State) (n i : Nat) (b : TxBar) : (s.setBar n i b).teams = s.teams := rfl
@[simp] theorem setBar_launches (s : State) (n i : Nat) (b : TxBar) : (s.setBar n i b).launches = s.launches := rfl
@[simp] theorem setBar_teamBars (s : State) (n i : Nat) (b : TxBar) : (s.setBar n i b).teamBars = s.teamBars := rfl
@[simp] theorem setBar_spanBars (s : State) (n i : Nat) (b : TxBar) : (s.setBar n i b).spanBars = s.spanBars := rfl
@[simp] theorem setBar_cmds (s : State) (n i : Nat) (b : TxBar) : (s.setBar n i b).cmds = s.cmds := rfl
@[simp] theorem setBar_nodes (s : State) (n i : Nat) (b : TxBar) : (s.setBar n i b).nodes = s.nodes := rfl
@[simp] theorem setBar_colls (s : State) (n i : Nat) (b : TxBar) : (s.setBar n i b).colls = s.colls := rfl
@[simp] theorem setBar_contribs (s : State) (n i : Nat) (b : TxBar) : (s.setBar n i b).contribs = s.contribs := rfl
@[simp] theorem setBar_lastPlaced (s : State) (n i : Nat) (b : TxBar) : (s.setBar n i b).lastPlaced = s.lastPlaced := rfl
@[simp] theorem setBar_picks (s : State) (n i : Nat) (b : TxBar) : (s.setBar n i b).picks = s.picks := rfl
@[simp] theorem setBar_hub (s : State) (n i : Nat) (b : TxBar) : (s.setBar n i b).hub = s.hub := rfl
@[simp] theorem setBar_turn (s : State) (n i : Nat) (b : TxBar) : (s.setBar n i b).turn = s.turn := rfl
@[simp] theorem setBar_tick (s : State) (n i : Nat) (b : TxBar) : (s.setBar n i b).tick = s.tick := rfl
@[simp] theorem setBar_clock (s : State) (n i : Nat) (b : TxBar) : (s.setBar n i b).clock = s.clock := rfl
@[simp] theorem setBar_nextId (s : State) (n i : Nat) (b : TxBar) : (s.setBar n i b).nextId = s.nextId := rfl

/-! setCtx -/
@[simp] theorem setCtx_thr (s : State) (n : Nat) (c : Ctx) : (s.setCtx n c).thr = s.thr := rfl
@[simp] theorem setCtx_parked (s : State) (n : Nat) (c : Ctx) : (s.setCtx n c).parked = s.parked := rfl
@[simp] theorem setCtx_mem (s : State) (n : Nat) (c : Ctx) : (s.setCtx n c).mem = s.mem := rfl
@[simp] theorem setCtx_tags (s : State) (n : Nat) (c : Ctx) : (s.setCtx n c).tags = s.tags := rfl
@[simp] theorem setCtx_swz (s : State) (n : Nat) (c : Ctx) : (s.setCtx n c).swz = s.swz := rfl
@[simp] theorem setCtx_poisonMem (s : State) (n : Nat) (c : Ctx) : (s.setCtx n c).poisonMem = s.poisonMem := rfl
@[simp] theorem setCtx_owners (s : State) (n : Nat) (c : Ctx) : (s.setCtx n c).owners = s.owners := rfl
@[simp] theorem setCtx_cores (s : State) (n : Nat) (c : Ctx) : (s.setCtx n c).cores = s.cores := rfl
@[simp] theorem setCtx_ctxs (s : State) (n : Nat) (c : Ctx) : (s.setCtx n c).ctxs = mins (mdel s.ctxs n) n c := rfl
@[simp] theorem setCtx_teams (s : State) (n : Nat) (c : Ctx) : (s.setCtx n c).teams = s.teams := rfl
@[simp] theorem setCtx_launches (s : State) (n : Nat) (c : Ctx) : (s.setCtx n c).launches = s.launches := rfl
@[simp] theorem setCtx_teamBars (s : State) (n : Nat) (c : Ctx) : (s.setCtx n c).teamBars = s.teamBars := rfl
@[simp] theorem setCtx_spanBars (s : State) (n : Nat) (c : Ctx) : (s.setCtx n c).spanBars = s.spanBars := rfl
@[simp] theorem setCtx_cmds (s : State) (n : Nat) (c : Ctx) : (s.setCtx n c).cmds = s.cmds := rfl
@[simp] theorem setCtx_nodes (s : State) (n : Nat) (c : Ctx) : (s.setCtx n c).nodes = s.nodes := rfl
@[simp] theorem setCtx_colls (s : State) (n : Nat) (c : Ctx) : (s.setCtx n c).colls = s.colls := rfl
@[simp] theorem setCtx_contribs (s : State) (n : Nat) (c : Ctx) : (s.setCtx n c).contribs = s.contribs := rfl
@[simp] theorem setCtx_lastPlaced (s : State) (n : Nat) (c : Ctx) : (s.setCtx n c).lastPlaced = s.lastPlaced := rfl
@[simp] theorem setCtx_picks (s : State) (n : Nat) (c : Ctx) : (s.setCtx n c).picks = s.picks := rfl
@[simp] theorem setCtx_hub (s : State) (n : Nat) (c : Ctx) : (s.setCtx n c).hub = s.hub := rfl
@[simp] theorem setCtx_turn (s : State) (n : Nat) (c : Ctx) : (s.setCtx n c).turn = s.turn := rfl
@[simp] theorem setCtx_tick (s : State) (n : Nat) (c : Ctx) : (s.setCtx n c).tick = s.tick := rfl
@[simp] theorem setCtx_clock (s : State) (n : Nat) (c : Ctx) : (s.setCtx n c).clock = s.clock := rfl
@[simp] theorem setCtx_nextId (s : State) (n : Nat) (c : Ctx) : (s.setCtx n c).nextId = s.nextId := rfl

/-! setTeam -/
@[simp] theorem setTeam_thr (s : State) (n : Nat) (t : Team) : (s.setTeam n t).thr = s.thr := rfl
@[simp] theorem setTeam_parked (s : State) (n : Nat) (t : Team) : (s.setTeam n t).parked = s.parked := rfl
@[simp] theorem setTeam_mem (s : State) (n : Nat) (t : Team) : (s.setTeam n t).mem = s.mem := rfl
@[simp] theorem setTeam_tags (s : State) (n : Nat) (t : Team) : (s.setTeam n t).tags = s.tags := rfl
@[simp] theorem setTeam_swz (s : State) (n : Nat) (t : Team) : (s.setTeam n t).swz = s.swz := rfl
@[simp] theorem setTeam_poisonMem (s : State) (n : Nat) (t : Team) : (s.setTeam n t).poisonMem = s.poisonMem := rfl
@[simp] theorem setTeam_owners (s : State) (n : Nat) (t : Team) : (s.setTeam n t).owners = s.owners := rfl
@[simp] theorem setTeam_cores (s : State) (n : Nat) (t : Team) : (s.setTeam n t).cores = s.cores := rfl
@[simp] theorem setTeam_ctxs (s : State) (n : Nat) (t : Team) : (s.setTeam n t).ctxs = s.ctxs := rfl
@[simp] theorem setTeam_teams (s : State) (n : Nat) (t : Team) : (s.setTeam n t).teams = mins (mdel s.teams n) n t := rfl
@[simp] theorem setTeam_launches (s : State) (n : Nat) (t : Team) : (s.setTeam n t).launches = s.launches := rfl
@[simp] theorem setTeam_teamBars (s : State) (n : Nat) (t : Team) : (s.setTeam n t).teamBars = s.teamBars := rfl
@[simp] theorem setTeam_spanBars (s : State) (n : Nat) (t : Team) : (s.setTeam n t).spanBars = s.spanBars := rfl
@[simp] theorem setTeam_cmds (s : State) (n : Nat) (t : Team) : (s.setTeam n t).cmds = s.cmds := rfl
@[simp] theorem setTeam_nodes (s : State) (n : Nat) (t : Team) : (s.setTeam n t).nodes = s.nodes := rfl
@[simp] theorem setTeam_colls (s : State) (n : Nat) (t : Team) : (s.setTeam n t).colls = s.colls := rfl
@[simp] theorem setTeam_contribs (s : State) (n : Nat) (t : Team) : (s.setTeam n t).contribs = s.contribs := rfl
@[simp] theorem setTeam_lastPlaced (s : State) (n : Nat) (t : Team) : (s.setTeam n t).lastPlaced = s.lastPlaced := rfl
@[simp] theorem setTeam_picks (s : State) (n : Nat) (t : Team) : (s.setTeam n t).picks = s.picks := rfl
@[simp] theorem setTeam_hub (s : State) (n : Nat) (t : Team) : (s.setTeam n t).hub = s.hub := rfl
@[simp] theorem setTeam_turn (s : State) (n : Nat) (t : Team) : (s.setTeam n t).turn = s.turn := rfl
@[simp] theorem setTeam_tick (s : State) (n : Nat) (t : Team) : (s.setTeam n t).tick = s.tick := rfl
@[simp] theorem setTeam_clock (s : State) (n : Nat) (t : Team) : (s.setTeam n t).clock = s.clock := rfl
@[simp] theorem setTeam_nextId (s : State) (n : Nat) (t : Team) : (s.setTeam n t).nextId = s.nextId := rfl

/-! setLaunch -/
@[simp] theorem setLaunch_thr (s : State) (n : Nat) (l : Launch) : (s.setLaunch n l).thr = s.thr := rfl
@[simp] theorem setLaunch_parked (s : State) (n : Nat) (l : Launch) : (s.setLaunch n l).parked = s.parked := rfl
@[simp] theorem setLaunch_mem (s : State) (n : Nat) (l : Launch) : (s.setLaunch n l).mem = s.mem := rfl
@[simp] theorem setLaunch_tags (s : State) (n : Nat) (l : Launch) : (s.setLaunch n l).tags = s.tags := rfl
@[simp] theorem setLaunch_swz (s : State) (n : Nat) (l : Launch) : (s.setLaunch n l).swz = s.swz := rfl
@[simp] theorem setLaunch_poisonMem (s : State) (n : Nat) (l : Launch) : (s.setLaunch n l).poisonMem = s.poisonMem := rfl
@[simp] theorem setLaunch_owners (s : State) (n : Nat) (l : Launch) : (s.setLaunch n l).owners = s.owners := rfl
@[simp] theorem setLaunch_cores (s : State) (n : Nat) (l : Launch) : (s.setLaunch n l).cores = s.cores := rfl
@[simp] theorem setLaunch_ctxs (s : State) (n : Nat) (l : Launch) : (s.setLaunch n l).ctxs = s.ctxs := rfl
@[simp] theorem setLaunch_teams (s : State) (n : Nat) (l : Launch) : (s.setLaunch n l).teams = s.teams := rfl
@[simp] theorem setLaunch_launches (s : State) (n : Nat) (l : Launch) : (s.setLaunch n l).launches = mins (mdel s.launches n) n l := rfl
@[simp] theorem setLaunch_teamBars (s : State) (n : Nat) (l : Launch) : (s.setLaunch n l).teamBars = s.teamBars := rfl
@[simp] theorem setLaunch_spanBars (s : State) (n : Nat) (l : Launch) : (s.setLaunch n l).spanBars = s.spanBars := rfl
@[simp] theorem setLaunch_cmds (s : State) (n : Nat) (l : Launch) : (s.setLaunch n l).cmds = s.cmds := rfl
@[simp] theorem setLaunch_nodes (s : State) (n : Nat) (l : Launch) : (s.setLaunch n l).nodes = s.nodes := rfl
@[simp] theorem setLaunch_colls (s : State) (n : Nat) (l : Launch) : (s.setLaunch n l).colls = s.colls := rfl
@[simp] theorem setLaunch_contribs (s : State) (n : Nat) (l : Launch) : (s.setLaunch n l).contribs = s.contribs := rfl
@[simp] theorem setLaunch_lastPlaced (s : State) (n : Nat) (l : Launch) : (s.setLaunch n l).lastPlaced = s.lastPlaced := rfl
@[simp] theorem setLaunch_picks (s : State) (n : Nat) (l : Launch) : (s.setLaunch n l).picks = s.picks := rfl
@[simp] theorem setLaunch_hub (s : State) (n : Nat) (l : Launch) : (s.setLaunch n l).hub = s.hub := rfl
@[simp] theorem setLaunch_turn (s : State) (n : Nat) (l : Launch) : (s.setLaunch n l).turn = s.turn := rfl
@[simp] theorem setLaunch_tick (s : State) (n : Nat) (l : Launch) : (s.setLaunch n l).tick = s.tick := rfl
@[simp] theorem setLaunch_clock (s : State) (n : Nat) (l : Launch) : (s.setLaunch n l).clock = s.clock := rfl
@[simp] theorem setLaunch_nextId (s : State) (n : Nat) (l : Launch) : (s.setLaunch n l).nextId = s.nextId := rfl

/-! setCmd -/
@[simp] theorem setCmd_thr (s : State) (n : Nat) (c : Cmd) : (s.setCmd n c).thr = s.thr := rfl
@[simp] theorem setCmd_parked (s : State) (n : Nat) (c : Cmd) : (s.setCmd n c).parked = s.parked := rfl
@[simp] theorem setCmd_mem (s : State) (n : Nat) (c : Cmd) : (s.setCmd n c).mem = s.mem := rfl
@[simp] theorem setCmd_tags (s : State) (n : Nat) (c : Cmd) : (s.setCmd n c).tags = s.tags := rfl
@[simp] theorem setCmd_swz (s : State) (n : Nat) (c : Cmd) : (s.setCmd n c).swz = s.swz := rfl
@[simp] theorem setCmd_poisonMem (s : State) (n : Nat) (c : Cmd) : (s.setCmd n c).poisonMem = s.poisonMem := rfl
@[simp] theorem setCmd_owners (s : State) (n : Nat) (c : Cmd) : (s.setCmd n c).owners = s.owners := rfl
@[simp] theorem setCmd_cores (s : State) (n : Nat) (c : Cmd) : (s.setCmd n c).cores = s.cores := rfl
@[simp] theorem setCmd_ctxs (s : State) (n : Nat) (c : Cmd) : (s.setCmd n c).ctxs = s.ctxs := rfl
@[simp] theorem setCmd_teams (s : State) (n : Nat) (c : Cmd) : (s.setCmd n c).teams = s.teams := rfl
@[simp] theorem setCmd_launches (s : State) (n : Nat) (c : Cmd) : (s.setCmd n c).launches = s.launches := rfl
@[simp] theorem setCmd_teamBars (s : State) (n : Nat) (c : Cmd) : (s.setCmd n c).teamBars = s.teamBars := rfl
@[simp] theorem setCmd_spanBars (s : State) (n : Nat) (c : Cmd) : (s.setCmd n c).spanBars = s.spanBars := rfl
@[simp] theorem setCmd_cmds (s : State) (n : Nat) (c : Cmd) : (s.setCmd n c).cmds = mins (mdel s.cmds n) n c := rfl
@[simp] theorem setCmd_nodes (s : State) (n : Nat) (c : Cmd) : (s.setCmd n c).nodes = s.nodes := rfl
@[simp] theorem setCmd_colls (s : State) (n : Nat) (c : Cmd) : (s.setCmd n c).colls = s.colls := rfl
@[simp] theorem setCmd_contribs (s : State) (n : Nat) (c : Cmd) : (s.setCmd n c).contribs = s.contribs := rfl
@[simp] theorem setCmd_lastPlaced (s : State) (n : Nat) (c : Cmd) : (s.setCmd n c).lastPlaced = s.lastPlaced := rfl
@[simp] theorem setCmd_picks (s : State) (n : Nat) (c : Cmd) : (s.setCmd n c).picks = s.picks := rfl
@[simp] theorem setCmd_hub (s : State) (n : Nat) (c : Cmd) : (s.setCmd n c).hub = s.hub := rfl
@[simp] theorem setCmd_turn (s : State) (n : Nat) (c : Cmd) : (s.setCmd n c).turn = s.turn := rfl
@[simp] theorem setCmd_tick (s : State) (n : Nat) (c : Cmd) : (s.setCmd n c).tick = s.tick := rfl
@[simp] theorem setCmd_clock (s : State) (n : Nat) (c : Cmd) : (s.setCmd n c).clock = s.clock := rfl
@[simp] theorem setCmd_nextId (s : State) (n : Nat) (c : Cmd) : (s.setCmd n c).nextId = s.nextId := rfl

/-! setNode -/
@[simp] theorem setNode_thr (s : State) (n : Nat) (x : Node) : (s.setNode n x).thr = s.thr := rfl
@[simp] theorem setNode_parked (s : State) (n : Nat) (x : Node) : (s.setNode n x).parked = s.parked := rfl
@[simp] theorem setNode_mem (s : State) (n : Nat) (x : Node) : (s.setNode n x).mem = s.mem := rfl
@[simp] theorem setNode_tags (s : State) (n : Nat) (x : Node) : (s.setNode n x).tags = s.tags := rfl
@[simp] theorem setNode_swz (s : State) (n : Nat) (x : Node) : (s.setNode n x).swz = s.swz := rfl
@[simp] theorem setNode_poisonMem (s : State) (n : Nat) (x : Node) : (s.setNode n x).poisonMem = s.poisonMem := rfl
@[simp] theorem setNode_owners (s : State) (n : Nat) (x : Node) : (s.setNode n x).owners = s.owners := rfl
@[simp] theorem setNode_cores (s : State) (n : Nat) (x : Node) : (s.setNode n x).cores = s.cores := rfl
@[simp] theorem setNode_ctxs (s : State) (n : Nat) (x : Node) : (s.setNode n x).ctxs = s.ctxs := rfl
@[simp] theorem setNode_teams (s : State) (n : Nat) (x : Node) : (s.setNode n x).teams = s.teams := rfl
@[simp] theorem setNode_launches (s : State) (n : Nat) (x : Node) : (s.setNode n x).launches = s.launches := rfl
@[simp] theorem setNode_teamBars (s : State) (n : Nat) (x : Node) : (s.setNode n x).teamBars = s.teamBars := rfl
@[simp] theorem setNode_spanBars (s : State) (n : Nat) (x : Node) : (s.setNode n x).spanBars = s.spanBars := rfl
@[simp] theorem setNode_cmds (s : State) (n : Nat) (x : Node) : (s.setNode n x).cmds = s.cmds := rfl
@[simp] theorem setNode_nodes (s : State) (n : Nat) (x : Node) : (s.setNode n x).nodes = mset {} s.nodes n x := rfl
@[simp] theorem setNode_colls (s : State) (n : Nat) (x : Node) : (s.setNode n x).colls = s.colls := rfl
@[simp] theorem setNode_contribs (s : State) (n : Nat) (x : Node) : (s.setNode n x).contribs = s.contribs := rfl
@[simp] theorem setNode_lastPlaced (s : State) (n : Nat) (x : Node) : (s.setNode n x).lastPlaced = s.lastPlaced := rfl
@[simp] theorem setNode_picks (s : State) (n : Nat) (x : Node) : (s.setNode n x).picks = s.picks := rfl
@[simp] theorem setNode_hub (s : State) (n : Nat) (x : Node) : (s.setNode n x).hub = s.hub := rfl
@[simp] theorem setNode_turn (s : State) (n : Nat) (x : Node) : (s.setNode n x).turn = s.turn := rfl
@[simp] theorem setNode_tick (s : State) (n : Nat) (x : Node) : (s.setNode n x).tick = s.tick := rfl
@[simp] theorem setNode_clock (s : State) (n : Nat) (x : Node) : (s.setNode n x).clock = s.clock := rfl
@[simp] theorem setNode_nextId (s : State) (n : Nat) (x : Node) : (s.setNode n x).nextId = s.nextId := rfl

/-! modHub -/
@[simp] theorem modHub_thr (s : State) (g : Hub → Hub) : (s.modHub g).thr = s.thr := rfl
@[simp] theorem modHub_parked (s : State) (g : Hub → Hub) : (s.modHub g).parked = s.parked := rfl
@[simp] theorem modHub_mem (s : State) (g : Hub → Hub) : (s.modHub g).mem = s.mem := rfl
@[simp] theorem modHub_tags (s : State) (g : Hub → Hub) : (s.modHub g).tags = s.tags := rfl
@[simp] theorem modHub_swz (s : State) (g : Hub → Hub) : (s.modHub g).swz = s.swz := rfl
@[simp] theorem modHub_poisonMem (s : State) (g : Hub → Hub) : (s.modHub g).poisonMem = s.poisonMem := rfl
@[simp] theorem modHub_owners (s : State) (g : Hub → Hub) : (s.modHub g).owners = s.owners := rfl
@[simp] theorem modHub_cores (s : State) (g : Hub → Hub) : (s.modHub g).cores = s.cores := rfl
@[simp] theorem modHub_ctxs (s : State) (g : Hub → Hub) : (s.modHub g).ctxs = s.ctxs := rfl
@[simp] theorem modHub_teams (s : State) (g : Hub → Hub) : (s.modHub g).teams = s.teams := rfl
@[simp] theorem modHub_launches (s : State) (g : Hub → Hub) : (s.modHub g).launches = s.launches := rfl
@[simp] theorem modHub_teamBars (s : State) (g : Hub → Hub) : (s.modHub g).teamBars = s.teamBars := rfl
@[simp] theorem modHub_spanBars (s : State) (g : Hub → Hub) : (s.modHub g).spanBars = s.spanBars := rfl
@[simp] theorem modHub_cmds (s : State) (g : Hub → Hub) : (s.modHub g).cmds = s.cmds := rfl
@[simp] theorem modHub_nodes (s : State) (g : Hub → Hub) : (s.modHub g).nodes = s.nodes := rfl
@[simp] theorem modHub_colls (s : State) (g : Hub → Hub) : (s.modHub g).colls = s.colls := rfl
@[simp] theorem modHub_contribs (s : State) (g : Hub → Hub) : (s.modHub g).contribs = s.contribs := rfl
@[simp] theorem modHub_lastPlaced (s : State) (g : Hub → Hub) : (s.modHub g).lastPlaced = s.lastPlaced := rfl
@[simp] theorem modHub_picks (s : State) (g : Hub → Hub) : (s.modHub g).picks = s.picks := rfl
@[simp] theorem modHub_hub (s : State) (g : Hub → Hub) : (s.modHub g).hub = g s.hub := rfl
@[simp] theorem modHub_turn (s : State) (g : Hub → Hub) : (s.modHub g).turn = s.turn := rfl
@[simp] theorem modHub_tick (s : State) (g : Hub → Hub) : (s.modHub g).tick = s.tick := rfl
@[simp] theorem modHub_clock (s : State) (g : Hub → Hub) : (s.modHub g).clock = s.clock := rfl
@[simp] theorem modHub_nextId (s : State) (g : Hub → Hub) : (s.modHub g).nextId = s.nextId := rfl

/-! setRo -/
@[simp] theorem setRo_thr (s : State) (us : List Nat) (b : Bool) : (s.setRo us b).thr = s.thr := rfl
@[simp] theorem setRo_parked (s : State) (us : List Nat) (b : Bool) : (s.setRo us b).parked = s.parked := rfl
@[simp] theorem setRo_mem (s : State) (us : List Nat) (b : Bool) : (s.setRo us b).mem = s.mem := rfl
@[simp] theorem setRo_tags (s : State) (us : List Nat) (b : Bool) : (s.setRo us b).tags = s.tags := rfl
@[simp] theorem setRo_swz (s : State) (us : List Nat) (b : Bool) : (s.setRo us b).swz = s.swz := rfl
@[simp] theorem setRo_poisonMem (s : State) (us : List Nat) (b : Bool) : (s.setRo us b).poisonMem = s.poisonMem := rfl
@[simp] theorem setRo_cores (s : State) (us : List Nat) (b : Bool) : (s.setRo us b).cores = s.cores := rfl
@[simp] theorem setRo_ctxs (s : State) (us : List Nat) (b : Bool) : (s.setRo us b).ctxs = s.ctxs := rfl
@[simp] theorem setRo_teams (s : State) (us : List Nat) (b : Bool) : (s.setRo us b).teams = s.teams := rfl
@[simp] theorem setRo_launches (s : State) (us : List Nat) (b : Bool) : (s.setRo us b).launches = s.launches := rfl
@[simp] theorem setRo_teamBars (s : State) (us : List Nat) (b : Bool) : (s.setRo us b).teamBars = s.teamBars := rfl
@[simp] theorem setRo_spanBars (s : State) (us : List Nat) (b : Bool) : (s.setRo us b).spanBars = s.spanBars := rfl
@[simp] theorem setRo_cmds (s : State) (us : List Nat) (b : Bool) : (s.setRo us b).cmds = s.cmds := rfl
@[simp] theorem setRo_nodes (s : State) (us : List Nat) (b : Bool) : (s.setRo us b).nodes = s.nodes := rfl
@[simp] theorem setRo_colls (s : State) (us : List Nat) (b : Bool) : (s.setRo us b).colls = s.colls := rfl
@[simp] theorem setRo_contribs (s : State) (us : List Nat) (b : Bool) : (s.setRo us b).contribs = s.contribs := rfl
@[simp] theorem setRo_lastPlaced (s : State) (us : List Nat) (b : Bool) : (s.setRo us b).lastPlaced = s.lastPlaced := rfl
@[simp] theorem setRo_picks (s : State) (us : List Nat) (b : Bool) : (s.setRo us b).picks = s.picks := rfl
@[simp] theorem setRo_hub (s : State) (us : List Nat) (b : Bool) : (s.setRo us b).hub = s.hub := rfl
@[simp] theorem setRo_turn (s : State) (us : List Nat) (b : Bool) : (s.setRo us b).turn = s.turn := rfl
@[simp] theorem setRo_tick (s : State) (us : List Nat) (b : Bool) : (s.setRo us b).tick = s.tick := rfl
@[simp] theorem setRo_clock (s : State) (us : List Nat) (b : Bool) : (s.setRo us b).clock = s.clock := rfl
@[simp] theorem setRo_nextId (s : State) (us : List Nat) (b : Bool) : (s.setRo us b).nextId = s.nextId := rfl

/-! putCpl -/
@[simp] theorem putCpl_thr (s : State) (g : BitVec 32) (a b : Nat) (x y : Word) : (s.putCpl g a b x y).thr = s.thr := rfl
@[simp] theorem putCpl_parked (s : State) (g : BitVec 32) (a b : Nat) (x y : Word) : (s.putCpl g a b x y).parked = s.parked := rfl
@[simp] theorem putCpl_mem (s : State) (g : BitVec 32) (a b : Nat) (x y : Word) : (s.putCpl g a b x y).mem = s.mem := rfl
@[simp] theorem putCpl_tags (s : State) (g : BitVec 32) (a b : Nat) (x y : Word) : (s.putCpl g a b x y).tags = s.tags := rfl
@[simp] theorem putCpl_swz (s : State) (g : BitVec 32) (a b : Nat) (x y : Word) : (s.putCpl g a b x y).swz = s.swz := rfl
@[simp] theorem putCpl_poisonMem (s : State) (g : BitVec 32) (a b : Nat) (x y : Word) : (s.putCpl g a b x y).poisonMem = s.poisonMem := rfl
@[simp] theorem putCpl_owners (s : State) (g : BitVec 32) (a b : Nat) (x y : Word) : (s.putCpl g a b x y).owners = s.owners := rfl
@[simp] theorem putCpl_cores (s : State) (g : BitVec 32) (a b : Nat) (x y : Word) : (s.putCpl g a b x y).cores = s.cores := rfl
@[simp] theorem putCpl_ctxs (s : State) (g : BitVec 32) (a b : Nat) (x y : Word) : (s.putCpl g a b x y).ctxs = s.ctxs := rfl
@[simp] theorem putCpl_teams (s : State) (g : BitVec 32) (a b : Nat) (x y : Word) : (s.putCpl g a b x y).teams = s.teams := rfl
@[simp] theorem putCpl_launches (s : State) (g : BitVec 32) (a b : Nat) (x y : Word) : (s.putCpl g a b x y).launches = s.launches := rfl
@[simp] theorem putCpl_teamBars (s : State) (g : BitVec 32) (a b : Nat) (x y : Word) : (s.putCpl g a b x y).teamBars = s.teamBars := rfl
@[simp] theorem putCpl_spanBars (s : State) (g : BitVec 32) (a b : Nat) (x y : Word) : (s.putCpl g a b x y).spanBars = s.spanBars := rfl
@[simp] theorem putCpl_cmds (s : State) (g : BitVec 32) (a b : Nat) (x y : Word) : (s.putCpl g a b x y).cmds = s.cmds := rfl
@[simp] theorem putCpl_nodes (s : State) (g : BitVec 32) (a b : Nat) (x y : Word) : (s.putCpl g a b x y).nodes = s.nodes := rfl
@[simp] theorem putCpl_colls (s : State) (g : BitVec 32) (a b : Nat) (x y : Word) : (s.putCpl g a b x y).colls = s.colls := rfl
@[simp] theorem putCpl_contribs (s : State) (g : BitVec 32) (a b : Nat) (x y : Word) : (s.putCpl g a b x y).contribs = s.contribs := rfl
@[simp] theorem putCpl_lastPlaced (s : State) (g : BitVec 32) (a b : Nat) (x y : Word) : (s.putCpl g a b x y).lastPlaced = s.lastPlaced := rfl
@[simp] theorem putCpl_picks (s : State) (g : BitVec 32) (a b : Nat) (x y : Word) : (s.putCpl g a b x y).picks = s.picks := rfl
@[simp] theorem putCpl_turn (s : State) (g : BitVec 32) (a b : Nat) (x y : Word) : (s.putCpl g a b x y).turn = s.turn := rfl
@[simp] theorem putCpl_tick (s : State) (g : BitVec 32) (a b : Nat) (x y : Word) : (s.putCpl g a b x y).tick = s.tick := rfl
@[simp] theorem putCpl_clock (s : State) (g : BitVec 32) (a b : Nat) (x y : Word) : (s.putCpl g a b x y).clock = s.clock := rfl
@[simp] theorem putCpl_nextId (s : State) (g : BitVec 32) (a b : Nat) (x y : Word) : (s.putCpl g a b x y).nextId = s.nextId := rfl

/-! store -/
@[simp] theorem store_thr (s : State) (cs : List Host.Cell) : (s.store cs).thr = s.thr := rfl
@[simp] theorem store_parked (s : State) (cs : List Host.Cell) : (s.store cs).parked = s.parked := rfl
@[simp] theorem store_mem (s : State) (cs : List Host.Cell) : (s.store cs).mem = wrCells s.mem cs := rfl
@[simp] theorem store_tags (s : State) (cs : List Host.Cell) : (s.store cs).tags = s.tags := rfl
@[simp] theorem store_swz (s : State) (cs : List Host.Cell) : (s.store cs).swz = s.swz := rfl
@[simp] theorem store_owners (s : State) (cs : List Host.Cell) : (s.store cs).owners = s.owners := rfl
@[simp] theorem store_cores (s : State) (cs : List Host.Cell) : (s.store cs).cores = s.cores := rfl
@[simp] theorem store_ctxs (s : State) (cs : List Host.Cell) : (s.store cs).ctxs = s.ctxs := rfl
@[simp] theorem store_teams (s : State) (cs : List Host.Cell) : (s.store cs).teams = s.teams := rfl
@[simp] theorem store_launches (s : State) (cs : List Host.Cell) : (s.store cs).launches = s.launches := rfl
@[simp] theorem store_teamBars (s : State) (cs : List Host.Cell) : (s.store cs).teamBars = s.teamBars := rfl
@[simp] theorem store_spanBars (s : State) (cs : List Host.Cell) : (s.store cs).spanBars = s.spanBars := rfl
@[simp] theorem store_cmds (s : State) (cs : List Host.Cell) : (s.store cs).cmds = s.cmds := rfl
@[simp] theorem store_nodes (s : State) (cs : List Host.Cell) : (s.store cs).nodes = s.nodes := rfl
@[simp] theorem store_colls (s : State) (cs : List Host.Cell) : (s.store cs).colls = s.colls := rfl
@[simp] theorem store_contribs (s : State) (cs : List Host.Cell) : (s.store cs).contribs = s.contribs := rfl
@[simp] theorem store_lastPlaced (s : State) (cs : List Host.Cell) : (s.store cs).lastPlaced = s.lastPlaced := rfl
@[simp] theorem store_picks (s : State) (cs : List Host.Cell) : (s.store cs).picks = s.picks := rfl
@[simp] theorem store_hub (s : State) (cs : List Host.Cell) : (s.store cs).hub = s.hub := rfl
@[simp] theorem store_turn (s : State) (cs : List Host.Cell) : (s.store cs).turn = s.turn := rfl
@[simp] theorem store_tick (s : State) (cs : List Host.Cell) : (s.store cs).tick = s.tick := rfl
@[simp] theorem store_clock (s : State) (cs : List Host.Cell) : (s.store cs).clock = s.clock := rfl
@[simp] theorem store_nextId (s : State) (cs : List Host.Cell) : (s.store cs).nextId = s.nextId := rfl

/-! performEnt -/
@[simp] theorem performEnt_thr (s : State) (e : StoreEnt) : (s.performEnt e).thr = s.thr := rfl
@[simp] theorem performEnt_parked (s : State) (e : StoreEnt) : (s.performEnt e).parked = s.parked := rfl
@[simp] theorem performEnt_mem (s : State) (e : StoreEnt) : (s.performEnt e).mem = wrCells s.mem e.bytes := rfl
@[simp] theorem performEnt_swz (s : State) (e : StoreEnt) : (s.performEnt e).swz = s.swz := rfl
@[simp] theorem performEnt_owners (s : State) (e : StoreEnt) : (s.performEnt e).owners = s.owners := rfl
@[simp] theorem performEnt_cores (s : State) (e : StoreEnt) : (s.performEnt e).cores = s.cores := rfl
@[simp] theorem performEnt_ctxs (s : State) (e : StoreEnt) : (s.performEnt e).ctxs = s.ctxs := rfl
@[simp] theorem performEnt_teams (s : State) (e : StoreEnt) : (s.performEnt e).teams = s.teams := rfl
@[simp] theorem performEnt_launches (s : State) (e : StoreEnt) : (s.performEnt e).launches = s.launches := rfl
@[simp] theorem performEnt_teamBars (s : State) (e : StoreEnt) : (s.performEnt e).teamBars = s.teamBars := rfl
@[simp] theorem performEnt_spanBars (s : State) (e : StoreEnt) : (s.performEnt e).spanBars = s.spanBars := rfl
@[simp] theorem performEnt_cmds (s : State) (e : StoreEnt) : (s.performEnt e).cmds = s.cmds := rfl
@[simp] theorem performEnt_nodes (s : State) (e : StoreEnt) : (s.performEnt e).nodes = s.nodes := rfl
@[simp] theorem performEnt_colls (s : State) (e : StoreEnt) : (s.performEnt e).colls = s.colls := rfl
@[simp] theorem performEnt_contribs (s : State) (e : StoreEnt) : (s.performEnt e).contribs = s.contribs := rfl
@[simp] theorem performEnt_lastPlaced (s : State) (e : StoreEnt) : (s.performEnt e).lastPlaced = s.lastPlaced := rfl
@[simp] theorem performEnt_picks (s : State) (e : StoreEnt) : (s.performEnt e).picks = s.picks := rfl
@[simp] theorem performEnt_hub (s : State) (e : StoreEnt) : (s.performEnt e).hub = s.hub := rfl
@[simp] theorem performEnt_turn (s : State) (e : StoreEnt) : (s.performEnt e).turn = s.turn := rfl
@[simp] theorem performEnt_tick (s : State) (e : StoreEnt) : (s.performEnt e).tick = s.tick := rfl
@[simp] theorem performEnt_clock (s : State) (e : StoreEnt) : (s.performEnt e).clock = s.clock := rfl
@[simp] theorem performEnt_nextId (s : State) (e : StoreEnt) : (s.performEnt e).nextId = s.nextId := rfl

/-! assignUnit -/
@[simp] theorem assignUnit_thr (s : State) (u : Nat) (o : Owner) : (s.assignUnit u o).thr = s.thr := rfl
@[simp] theorem assignUnit_parked (s : State) (u : Nat) (o : Owner) : (s.assignUnit u o).parked = s.parked := rfl
@[simp] theorem assignUnit_mem (s : State) (u : Nat) (o : Owner) : (s.assignUnit u o).mem = mclear s.mem (unitBase u) 65536 := rfl
@[simp] theorem assignUnit_swz (s : State) (u : Nat) (o : Owner) : (s.assignUnit u o).swz = s.swz := rfl
@[simp] theorem assignUnit_owners (s : State) (u : Nat) (o : Owner) : (s.assignUnit u o).owners = mset {} s.owners u o := rfl
@[simp] theorem assignUnit_cores (s : State) (u : Nat) (o : Owner) : (s.assignUnit u o).cores = s.cores := rfl
@[simp] theorem assignUnit_ctxs (s : State) (u : Nat) (o : Owner) : (s.assignUnit u o).ctxs = s.ctxs := rfl
@[simp] theorem assignUnit_teams (s : State) (u : Nat) (o : Owner) : (s.assignUnit u o).teams = s.teams := rfl
@[simp] theorem assignUnit_launches (s : State) (u : Nat) (o : Owner) : (s.assignUnit u o).launches = s.launches := rfl
@[simp] theorem assignUnit_teamBars (s : State) (u : Nat) (o : Owner) : (s.assignUnit u o).teamBars = s.teamBars := rfl
@[simp] theorem assignUnit_spanBars (s : State) (u : Nat) (o : Owner) : (s.assignUnit u o).spanBars = s.spanBars := rfl
@[simp] theorem assignUnit_cmds (s : State) (u : Nat) (o : Owner) : (s.assignUnit u o).cmds = s.cmds := rfl
@[simp] theorem assignUnit_nodes (s : State) (u : Nat) (o : Owner) : (s.assignUnit u o).nodes = s.nodes := rfl
@[simp] theorem assignUnit_colls (s : State) (u : Nat) (o : Owner) : (s.assignUnit u o).colls = s.colls := rfl
@[simp] theorem assignUnit_contribs (s : State) (u : Nat) (o : Owner) : (s.assignUnit u o).contribs = s.contribs := rfl
@[simp] theorem assignUnit_lastPlaced (s : State) (u : Nat) (o : Owner) : (s.assignUnit u o).lastPlaced = s.lastPlaced := rfl
@[simp] theorem assignUnit_picks (s : State) (u : Nat) (o : Owner) : (s.assignUnit u o).picks = s.picks := rfl
@[simp] theorem assignUnit_hub (s : State) (u : Nat) (o : Owner) : (s.assignUnit u o).hub = s.hub := rfl
@[simp] theorem assignUnit_turn (s : State) (u : Nat) (o : Owner) : (s.assignUnit u o).turn = s.turn := rfl
@[simp] theorem assignUnit_tick (s : State) (u : Nat) (o : Owner) : (s.assignUnit u o).tick = s.tick := rfl
@[simp] theorem assignUnit_clock (s : State) (u : Nat) (o : Owner) : (s.assignUnit u o).clock = s.clock := rfl
@[simp] theorem assignUnit_nextId (s : State) (u : Nat) (o : Owner) : (s.assignUnit u o).nextId = s.nextId := rfl

/-! advance -/
@[simp] theorem advance_id (t : Thread) (n : Nat) : (t.advance n).id = t.id := rfl
@[simp] theorem advance_name (t : Thread) (n : Nat) : (t.advance n).name = t.name := rfl
@[simp] theorem advance_place (t : Thread) (n : Nat) : (t.advance n).place = t.place := rfl
@[simp] theorem advance_status (t : Thread) (n : Nat) : (t.advance n).status = t.status := rfl
@[simp] theorem advance_width (t : Thread) (n : Nat) : (t.advance n).width = t.width := rfl
@[simp] theorem advance_real (t : Thread) (n : Nat) : (t.advance n).real = t.real := rfl
@[simp] theorem advance_help (t : Thread) (n : Nat) : (t.advance n).help = t.help := rfl
@[simp] theorem advance_pc (t : Thread) (n : Nat) : (t.advance n).pc = t.pc + BitVec.ofNat 55 (4 * n) := rfl
@[simp] theorem advance_m0 (t : Thread) (n : Nat) : (t.advance n).m0 = t.m0 := rfl
@[simp] theorem advance_masks (t : Thread) (n : Nat) : (t.advance n).masks = t.masks := rfl
@[simp] theorem advance_conds (t : Thread) (n : Nat) : (t.advance n).conds = t.conds := rfl
@[simp] theorem advance_wins (t : Thread) (n : Nat) : (t.advance n).wins = t.wins := rfl
@[simp] theorem advance_files (t : Thread) (n : Nat) : (t.advance n).files = t.files := rfl
@[simp] theorem advance_tiles (t : Thread) (n : Nat) : (t.advance n).tiles = t.tiles := rfl
@[simp] theorem advance_poison (t : Thread) (n : Nat) : (t.advance n).poison = t.poison := rfl
@[simp] theorem advance_stack (t : Thread) (n : Nat) : (t.advance n).stack = t.stack := rfl
@[simp] theorem advance_trap (t : Thread) (n : Nat) : (t.advance n).trap = t.trap := rfl
@[simp] theorem advance_fpstat (t : Thread) (n : Nat) : (t.advance n).fpstat = t.fpstat := rfl
@[simp] theorem advance_fpmode (t : Thread) (n : Nat) : (t.advance n).fpmode = t.fpmode := rfl
@[simp] theorem advance_counts (t : Thread) (n : Nat) : (t.advance n).counts = t.counts := rfl
@[simp] theorem advance_seq (t : Thread) (n : Nat) : (t.advance n).seq = t.seq := rfl
@[simp] theorem advance_memOrd (t : Thread) (n : Nat) : (t.advance n).memOrd = t.memOrd := rfl
@[simp] theorem advance_pending (t : Thread) (n : Nat) : (t.advance n).pending = t.pending := rfl
@[simp] theorem advance_queue (t : Thread) (n : Nat) : (t.advance n).queue = t.queue := rfl
@[simp] theorem advance_held (t : Thread) (n : Nat) : (t.advance n).held = t.held := rfl
@[simp] theorem advance_sched (t : Thread) (n : Nat) : (t.advance n).sched = t.sched := rfl
@[simp] theorem advance_hailCount (t : Thread) (n : Nat) : (t.advance n).hailCount = t.hailCount := rfl
@[simp] theorem advance_routine (t : Thread) (n : Nat) : (t.advance n).routine = t.routine := rfl
@[simp] theorem advance_service (t : Thread) (n : Nat) : (t.advance n).service = t.service := rfl
@[simp] theorem advance_step (t : Thread) (n : Nat) : (t.advance n).step = t.step := rfl
@[simp] theorem advance_haltReq (t : Thread) (n : Nat) : (t.advance n).haltReq = t.haltReq := rfl
@[simp] theorem advance_skipBp (t : Thread) (n : Nat) : (t.advance n).skipBp = t.skipBp := rfl

/-! raiseFlags -/
@[simp] theorem raiseFlags_id (t : Thread) (fl : BitVec 5) : (t.raiseFlags fl).id = t.id := rfl
@[simp] theorem raiseFlags_name (t : Thread) (fl : BitVec 5) : (t.raiseFlags fl).name = t.name := rfl
@[simp] theorem raiseFlags_place (t : Thread) (fl : BitVec 5) : (t.raiseFlags fl).place = t.place := rfl
@[simp] theorem raiseFlags_status (t : Thread) (fl : BitVec 5) : (t.raiseFlags fl).status = t.status := rfl
@[simp] theorem raiseFlags_width (t : Thread) (fl : BitVec 5) : (t.raiseFlags fl).width = t.width := rfl
@[simp] theorem raiseFlags_real (t : Thread) (fl : BitVec 5) : (t.raiseFlags fl).real = t.real := rfl
@[simp] theorem raiseFlags_help (t : Thread) (fl : BitVec 5) : (t.raiseFlags fl).help = t.help := rfl
@[simp] theorem raiseFlags_pc (t : Thread) (fl : BitVec 5) : (t.raiseFlags fl).pc = t.pc := rfl
@[simp] theorem raiseFlags_m0 (t : Thread) (fl : BitVec 5) : (t.raiseFlags fl).m0 = t.m0 := rfl
@[simp] theorem raiseFlags_masks (t : Thread) (fl : BitVec 5) : (t.raiseFlags fl).masks = t.masks := rfl
@[simp] theorem raiseFlags_conds (t : Thread) (fl : BitVec 5) : (t.raiseFlags fl).conds = t.conds := rfl
@[simp] theorem raiseFlags_wins (t : Thread) (fl : BitVec 5) : (t.raiseFlags fl).wins = t.wins := rfl
@[simp] theorem raiseFlags_files (t : Thread) (fl : BitVec 5) : (t.raiseFlags fl).files = t.files := rfl
@[simp] theorem raiseFlags_tiles (t : Thread) (fl : BitVec 5) : (t.raiseFlags fl).tiles = t.tiles := rfl
@[simp] theorem raiseFlags_poison (t : Thread) (fl : BitVec 5) : (t.raiseFlags fl).poison = t.poison := rfl
@[simp] theorem raiseFlags_stack (t : Thread) (fl : BitVec 5) : (t.raiseFlags fl).stack = t.stack := rfl
@[simp] theorem raiseFlags_trap (t : Thread) (fl : BitVec 5) : (t.raiseFlags fl).trap = t.trap := rfl
@[simp] theorem raiseFlags_fpstat (t : Thread) (fl : BitVec 5) : (t.raiseFlags fl).fpstat = t.fpstat ||| fl := rfl
@[simp] theorem raiseFlags_fpmode (t : Thread) (fl : BitVec 5) : (t.raiseFlags fl).fpmode = t.fpmode := rfl
@[simp] theorem raiseFlags_counts (t : Thread) (fl : BitVec 5) : (t.raiseFlags fl).counts = t.counts := rfl
@[simp] theorem raiseFlags_seq (t : Thread) (fl : BitVec 5) : (t.raiseFlags fl).seq = t.seq := rfl
@[simp] theorem raiseFlags_memOrd (t : Thread) (fl : BitVec 5) : (t.raiseFlags fl).memOrd = t.memOrd := rfl
@[simp] theorem raiseFlags_pending (t : Thread) (fl : BitVec 5) : (t.raiseFlags fl).pending = t.pending := rfl
@[simp] theorem raiseFlags_queue (t : Thread) (fl : BitVec 5) : (t.raiseFlags fl).queue = t.queue := rfl
@[simp] theorem raiseFlags_held (t : Thread) (fl : BitVec 5) : (t.raiseFlags fl).held = t.held := rfl
@[simp] theorem raiseFlags_sched (t : Thread) (fl : BitVec 5) : (t.raiseFlags fl).sched = t.sched := rfl
@[simp] theorem raiseFlags_hailCount (t : Thread) (fl : BitVec 5) : (t.raiseFlags fl).hailCount = t.hailCount := rfl
@[simp] theorem raiseFlags_routine (t : Thread) (fl : BitVec 5) : (t.raiseFlags fl).routine = t.routine := rfl
@[simp] theorem raiseFlags_service (t : Thread) (fl : BitVec 5) : (t.raiseFlags fl).service = t.service := rfl
@[simp] theorem raiseFlags_step (t : Thread) (fl : BitVec 5) : (t.raiseFlags fl).step = t.step := rfl
@[simp] theorem raiseFlags_haltReq (t : Thread) (fl : BitVec 5) : (t.raiseFlags fl).haltReq = t.haltReq := rfl
@[simp] theorem raiseFlags_skipBp (t : Thread) (fl : BitVec 5) : (t.raiseFlags fl).skipBp = t.skipBp := rfl

/-! tickWindows -/
@[simp] theorem tickWindows_id (t : Thread) : (t.tickWindows).id = t.id := rfl
@[simp] theorem tickWindows_name (t : Thread) : (t.tickWindows).name = t.name := rfl
@[simp] theorem tickWindows_place (t : Thread) : (t.tickWindows).place = t.place := rfl
@[simp] theorem tickWindows_status (t : Thread) : (t.tickWindows).status = t.status := rfl
@[simp] theorem tickWindows_width (t : Thread) : (t.tickWindows).width = t.width := rfl
@[simp] theorem tickWindows_real (t : Thread) : (t.tickWindows).real = t.real := rfl
@[simp] theorem tickWindows_help (t : Thread) : (t.tickWindows).help = t.help := rfl
@[simp] theorem tickWindows_pc (t : Thread) : (t.tickWindows).pc = t.pc := rfl
@[simp] theorem tickWindows_m0 (t : Thread) : (t.tickWindows).m0 = t.m0 := rfl
@[simp] theorem tickWindows_masks (t : Thread) : (t.tickWindows).masks = t.masks := rfl
@[simp] theorem tickWindows_conds (t : Thread) : (t.tickWindows).conds = t.conds := rfl
@[simp] theorem tickWindows_wins (t : Thread) : (t.tickWindows).wins = t.wins := rfl
@[simp] theorem tickWindows_files (t : Thread) : (t.tickWindows).files = t.files := rfl
@[simp] theorem tickWindows_tiles (t : Thread) : (t.tickWindows).tiles = t.tiles := rfl
@[simp] theorem tickWindows_poison (t : Thread) : (t.tickWindows).poison = t.poison := rfl
@[simp] theorem tickWindows_stack (t : Thread) : (t.tickWindows).stack = t.stack := rfl
@[simp] theorem tickWindows_trap (t : Thread) : (t.tickWindows).trap = t.trap := rfl
@[simp] theorem tickWindows_fpstat (t : Thread) : (t.tickWindows).fpstat = t.fpstat := rfl
@[simp] theorem tickWindows_fpmode (t : Thread) : (t.tickWindows).fpmode = t.fpmode := rfl
@[simp] theorem tickWindows_counts (t : Thread) : (t.tickWindows).counts = t.counts := rfl
@[simp] theorem tickWindows_seq (t : Thread) : (t.tickWindows).seq = t.seq := rfl
@[simp] theorem tickWindows_memOrd (t : Thread) : (t.tickWindows).memOrd = t.memOrd := rfl
@[simp] theorem tickWindows_queue (t : Thread) : (t.tickWindows).queue = t.queue := rfl
@[simp] theorem tickWindows_held (t : Thread) : (t.tickWindows).held = t.held := rfl
@[simp] theorem tickWindows_sched (t : Thread) : (t.tickWindows).sched = t.sched := rfl
@[simp] theorem tickWindows_hailCount (t : Thread) : (t.tickWindows).hailCount = t.hailCount := rfl
@[simp] theorem tickWindows_routine (t : Thread) : (t.tickWindows).routine = t.routine := rfl
@[simp] theorem tickWindows_service (t : Thread) : (t.tickWindows).service = t.service := rfl
@[simp] theorem tickWindows_step (t : Thread) : (t.tickWindows).step = t.step := rfl
@[simp] theorem tickWindows_haltReq (t : Thread) : (t.tickWindows).haltReq = t.haltReq := rfl
@[simp] theorem tickWindows_skipBp (t : Thread) : (t.tickWindows).skipBp = t.skipBp := rfl

/-! setTrap -/
@[simp] theorem setTrap_id (t : Thread) (tr : TrapInfo) (n : Nat) : (t.setTrap tr n).id = t.id := by rw [Thread.setTrap]
@[simp] theorem setTrap_name (t : Thread) (tr : TrapInfo) (n : Nat) : (t.setTrap tr n).name = t.name := by rw [Thread.setTrap]
@[simp] theorem setTrap_place (t : Thread) (tr : TrapInfo) (n : Nat) : (t.setTrap tr n).place = t.place := by rw [Thread.setTrap]
@[simp] theorem setTrap_status (t : Thread) (tr : TrapInfo) (n : Nat) : (t.setTrap tr n).status = t.status := by rw [Thread.setTrap]
@[simp] theorem setTrap_width (t : Thread) (tr : TrapInfo) (n : Nat) : (t.setTrap tr n).width = t.width := by rw [Thread.setTrap]
@[simp] theorem setTrap_real (t : Thread) (tr : TrapInfo) (n : Nat) : (t.setTrap tr n).real = t.real := by rw [Thread.setTrap]
@[simp] theorem setTrap_help (t : Thread) (tr : TrapInfo) (n : Nat) : (t.setTrap tr n).help = t.help := by rw [Thread.setTrap]
@[simp] theorem setTrap_pc (t : Thread) (tr : TrapInfo) (n : Nat) : (t.setTrap tr n).pc = t.pc := by rw [Thread.setTrap]
@[simp] theorem setTrap_m0 (t : Thread) (tr : TrapInfo) (n : Nat) : (t.setTrap tr n).m0 = t.m0 := by rw [Thread.setTrap]
@[simp] theorem setTrap_masks (t : Thread) (tr : TrapInfo) (n : Nat) : (t.setTrap tr n).masks = t.masks := by rw [Thread.setTrap]
@[simp] theorem setTrap_conds (t : Thread) (tr : TrapInfo) (n : Nat) : (t.setTrap tr n).conds = t.conds := by rw [Thread.setTrap]
@[simp] theorem setTrap_wins (t : Thread) (tr : TrapInfo) (n : Nat) : (t.setTrap tr n).wins = t.wins := by rw [Thread.setTrap]
@[simp] theorem setTrap_files (t : Thread) (tr : TrapInfo) (n : Nat) : (t.setTrap tr n).files = t.files := by rw [Thread.setTrap]
@[simp] theorem setTrap_tiles (t : Thread) (tr : TrapInfo) (n : Nat) : (t.setTrap tr n).tiles = t.tiles := by rw [Thread.setTrap]
@[simp] theorem setTrap_poison (t : Thread) (tr : TrapInfo) (n : Nat) : (t.setTrap tr n).poison = t.poison := by rw [Thread.setTrap]
@[simp] theorem setTrap_stack (t : Thread) (tr : TrapInfo) (n : Nat) : (t.setTrap tr n).stack = t.stack := by rw [Thread.setTrap]
@[simp] theorem setTrap_fpstat (t : Thread) (tr : TrapInfo) (n : Nat) : (t.setTrap tr n).fpstat = t.fpstat := by rw [Thread.setTrap]
@[simp] theorem setTrap_fpmode (t : Thread) (tr : TrapInfo) (n : Nat) : (t.setTrap tr n).fpmode = t.fpmode := by rw [Thread.setTrap]
@[simp] theorem setTrap_counts (t : Thread) (tr : TrapInfo) (n : Nat) : (t.setTrap tr n).counts = t.counts := by rw [Thread.setTrap]
@[simp] theorem setTrap_seq (t : Thread) (tr : TrapInfo) (n : Nat) : (t.setTrap tr n).seq = t.seq := by rw [Thread.setTrap]
@[simp] theorem setTrap_memOrd (t : Thread) (tr : TrapInfo) (n : Nat) : (t.setTrap tr n).memOrd = t.memOrd := by rw [Thread.setTrap]
@[simp] theorem setTrap_pending (t : Thread) (tr : TrapInfo) (n : Nat) : (t.setTrap tr n).pending = t.pending := by rw [Thread.setTrap]
@[simp] theorem setTrap_queue (t : Thread) (tr : TrapInfo) (n : Nat) : (t.setTrap tr n).queue = t.queue := by rw [Thread.setTrap]
@[simp] theorem setTrap_held (t : Thread) (tr : TrapInfo) (n : Nat) : (t.setTrap tr n).held = t.held := by rw [Thread.setTrap]
@[simp] theorem setTrap_sched (t : Thread) (tr : TrapInfo) (n : Nat) : (t.setTrap tr n).sched = t.sched := by rw [Thread.setTrap]
@[simp] theorem setTrap_hailCount (t : Thread) (tr : TrapInfo) (n : Nat) : (t.setTrap tr n).hailCount = t.hailCount := by rw [Thread.setTrap]
@[simp] theorem setTrap_routine (t : Thread) (tr : TrapInfo) (n : Nat) : (t.setTrap tr n).routine = t.routine := by rw [Thread.setTrap]
@[simp] theorem setTrap_service (t : Thread) (tr : TrapInfo) (n : Nat) : (t.setTrap tr n).service = t.service := by rw [Thread.setTrap]
@[simp] theorem setTrap_step (t : Thread) (tr : TrapInfo) (n : Nat) : (t.setTrap tr n).step = t.step := by rw [Thread.setTrap]
@[simp] theorem setTrap_haltReq (t : Thread) (tr : TrapInfo) (n : Nat) : (t.setTrap tr n).haltReq = t.haltReq := by rw [Thread.setTrap]
@[simp] theorem setTrap_skipBp (t : Thread) (tr : TrapInfo) (n : Nat) : (t.setTrap tr n).skipBp = t.skipBp := by rw [Thread.setTrap]

/-! retire -/
@[simp] theorem retire_id (t : Thread) : (t.retire).id = t.id := rfl
@[simp] theorem retire_name (t : Thread) : (t.retire).name = t.name := rfl
@[simp] theorem retire_place (t : Thread) : (t.retire).place = t.place := rfl
@[simp] theorem retire_status (t : Thread) : (t.retire).status = .retiring := rfl
@[simp] theorem retire_width (t : Thread) : (t.retire).width = t.width := rfl
@[simp] theorem retire_real (t : Thread) : (t.retire).real = t.real := rfl
@[simp] theorem retire_help (t : Thread) : (t.retire).help = t.help := rfl
@[simp] theorem retire_pc (t : Thread) : (t.retire).pc = t.pc := rfl
@[simp] theorem retire_m0 (t : Thread) : (t.retire).m0 = 0 := rfl
@[simp] theorem retire_masks (t : Thread) : (t.retire).masks = t.masks := rfl
@[simp] theorem retire_conds (t : Thread) : (t.retire).conds = t.conds := rfl
@[simp] theorem retire_wins (t : Thread) : (t.retire).wins = t.wins := rfl
@[simp] theorem retire_files (t : Thread) : (t.retire).files = t.files := rfl
@[simp] theorem retire_tiles (t : Thread) : (t.retire).tiles = t.tiles := rfl
@[simp] theorem retire_poison (t : Thread) : (t.retire).poison = t.poison := rfl
@[simp] theorem retire_stack (t : Thread) : (t.retire).stack = [] := rfl
@[simp] theorem retire_trap (t : Thread) : (t.retire).trap = t.trap := rfl
@[simp] theorem retire_fpstat (t : Thread) : (t.retire).fpstat = t.fpstat := rfl
@[simp] theorem retire_fpmode (t : Thread) : (t.retire).fpmode = t.fpmode := rfl
@[simp] theorem retire_counts (t : Thread) : (t.retire).counts = t.counts := rfl
@[simp] theorem retire_seq (t : Thread) : (t.retire).seq = t.seq := rfl
@[simp] theorem retire_memOrd (t : Thread) : (t.retire).memOrd = t.memOrd := rfl
@[simp] theorem retire_pending (t : Thread) : (t.retire).pending = [] := rfl
@[simp] theorem retire_queue (t : Thread) : (t.retire).queue = t.queue := rfl
@[simp] theorem retire_held (t : Thread) : (t.retire).held = [] := rfl
@[simp] theorem retire_sched (t : Thread) : (t.retire).sched = t.sched := rfl
@[simp] theorem retire_hailCount (t : Thread) : (t.retire).hailCount = t.hailCount := rfl
@[simp] theorem retire_routine (t : Thread) : (t.retire).routine = none := rfl
@[simp] theorem retire_service (t : Thread) : (t.retire).service = none := rfl
@[simp] theorem retire_step (t : Thread) : (t.retire).step = t.step := rfl
@[simp] theorem retire_haltReq (t : Thread) : (t.retire).haltReq = t.haltReq := rfl
@[simp] theorem retire_skipBp (t : Thread) : (t.retire).skipBp = t.skipBp := rfl

end Sys2Proof.Machine
end

