-- ==== Sys2Proof/Laws/Keep.lean ====
section
/-! SUPPORT. Every operation that writes memory keeps its canonical form, and so do the operations built of them: completing what
is pending, draining stores, taking a trap, and the end of a slot. -/

namespace Sys2Proof.Machine

/-- A state with the memory of one that has the form has it. -/
theorem wf_of_mem {s t : State} (h : t.mem = s.mem) (hs : s.memoryWf) : t.memoryWf := by
  unfold State.memoryWf; rw [h]; exact hs

/-- A fold of operations that keep the form keeps it. -/
theorem wf_foldl {β : Type} (g : State → β → State) (h : ∀ s b, s.memoryWf → (g s b).memoryWf) (l : List β) (s : State)
    (hs : s.memoryWf) : (l.foldl g s).memoryWf := by
  induction l generalizing s with
  | nil => exact hs
  | cons b r ih => exact ih _ (h s b hs)

/-- A choice between two states that have the form has it. -/
theorem wf_ite {p : Prop} [Decidable p] {s t : State} (hs : s.memoryWf) (ht : t.memoryWf) : (if p then s else t).memoryWf := by
  split <;> assumption

/-- A choice between two states that hold a memory holds it. -/
theorem mem_ite {p : Prop} [Decidable p] {s t : State} {m : List Host.Cell} (hs : s.mem = m) (ht : t.mem = m) :
    (if p then s else t).mem = m := by
  split <;> assumption

/-! ### Operations that write memory -/

theorem wf_store (s : State) (cs : List Host.Cell) (h : s.memoryWf) : (s.store cs).memoryWf := wf_wrCells cs s.mem h

theorem wf_performEnt (s : State) (e : StoreEnt) (h : s.memoryWf) : (s.performEnt e).memoryWf := wf_wrCells e.bytes s.mem h

theorem wf_assignUnit (s : State) (u : Nat) (o : Owner) (h : s.memoryWf) : (s.assignUnit u o).memoryWf := wf_mclear s.mem _ _ h

theorem wf_assignUnits (s : State) (us : List Nat) (who : Nat) (h : s.memoryWf) : (s.assignUnits us who).memoryWf :=
  wf_foldl (fun (s : State) (u : Nat) => s.assignUnit u { who := who }) (fun s u hs => wf_assignUnit s u _ hs) us s h

theorem wf_copyUnit (s : State) (src dst : Nat) (h : s.memoryWf) : (s.copyUnit src dst).memoryWf :=
  wf_wrCells _ _ (wf_mclear s.mem _ _ h)

theorem wf_moveShared (s : State) (a b : Team) (h : s.memoryWf) : (s.moveShared a b).memoryWf := by
  unfold State.moveShared
  refine wf_foldl _ (fun s u hs => ?_) _ s h
  exact wf_of_mem (s := s.copyUnit (teamKey a (1024 * u)) (teamKey b (1024 * u))) rfl (wf_copyUnit s _ _ hs)

theorem wf_afterReset (s : State) (trip : Bool) (h : s.memoryWf) : (s.afterReset trip).memoryWf := wf_filter s.mem _ h

theorem wf_hostWrite (s : State) (p : Nat) (bs : List Byte) (h : s.memoryWf) : (s.hostWrite p bs).memoryWf := wf_store s _ h

theorem wf_clearStacks (s : State) (ctx core : Nat) (h : s.memoryWf) : (s.clearStacks ctx core).memoryWf := by
  unfold State.clearStacks
  exact wf_mclear _ _ _ h

theorem wf_forgetCtx (s : State) (ctx : Nat) (h : s.memoryWf) : (s.forgetCtx ctx).memoryWf :=
  wf_mclear _ _ _ (wf_foldl (fun (s : State) (k : Nat × Core) => s.clearStacks ctx k.1) (fun s k hs => wf_clearStacks s ctx k.1 hs)
    _ _ (wf_assignUnits s _ 0 h))

/-- Units of memory that move keep the form. -/
theorem wf_moveUnit (s : State) (src dst : Nat) (h : s.memoryWf) : (s.moveUnit src dst).memoryWf :=
  wf_mclear _ _ _ (wf_copyUnit s src dst h)

/-! ### Operations that leave memory as it is -/

theorem mem_modCtx (s : State) (n : Nat) (g : Ctx → Ctx) : (s.modCtx n g).mem = s.mem := by
  unfold State.modCtx; split <;> rfl
theorem mem_modTeam (s : State) (n : Nat) (g : Team → Team) : (s.modTeam n g).mem = s.mem := by
  unfold State.modTeam; split <;> rfl
theorem mem_modCmd (s : State) (n : Nat) (g : Cmd → Cmd) : (s.modCmd n g).mem = s.mem := by
  unfold State.modCmd; split <;> rfl
theorem mem_focus (s : State) (n : Nat) : (s.focus n).mem = s.mem := by
  unfold State.focus; split; · rfl
  split <;> rfl
theorem mem_ringPut (s : State) (n : Nat) (r : BitVec 512) : (s.ringPut n r).mem = s.mem := mem_modCtx s n _
theorem mem_publish (s : State) (n k : Nat) : (s.publish n k).mem = s.mem := mem_modCtx s n _
theorem mem_abandonBar (s : State) (n : Nat) (r : Word) : (s.abandonBar n r).mem = s.mem := by
  unfold State.abandonBar; split <;> rfl

theorem mem_foldl {β : Type} (g : State → β → State) (h : ∀ s b, (g s b).mem = s.mem) (l : List β) (s : State) :
    (l.foldl g s).mem = s.mem := by
  induction l generalizing s with
  | nil => rfl
  | cons b r ih => exact (ih _).trans (h s b)

theorem mem_txWakeWith (s : State) (n k : Nat) (b : TxBar) : (s.txWakeWith n k b).mem = s.mem :=
  mem_ite rfl (mem_ite (mem_modTeam s _ _) rfl)

theorem mem_txWake (s : State) (n k : Nat) : (s.txWake n k).mem = s.mem := mem_txWakeWith s n k _

theorem mem_complete (s : State) (n : Nat) (r : Word) : (s.complete n r).mem = s.mem := by
  unfold State.complete; split; · rfl
  exact mem_txWake _ _ _

theorem mem_endWaits (s : State) : s.endWaits.mem = s.mem := by
  refine mem_foldl _ (fun s t => ?_) _ s
  split
  · split
    · rename_i w _ _
      cases w <;> first | rfl | exact mem_publish s _ _
    · rfl
  · rfl

theorem mem_reread (s : State) (n : Option Nat) : (s.reread n).mem = s.mem := by
  refine mem_foldl _ (fun s t => ?_) _ s
  repeat' split
  all_goals first
    | rfl
    | exact mem_modTeam s _ _

theorem mem_holdCause (s : State) (n : Nat) (tr : TrapInfo) : (s.holdCause n tr).mem = s.mem := by
  unfold State.holdCause
  dsimp only
  split
  · exact mem_ite (mem_modTeam _ _ _) rfl
  · rfl

theorem mem_endGroup (s : State) (tr : TrapInfo) (len outcome : Nat) : (s.endGroup tr len outcome).mem = s.mem := by
  unfold State.endGroup
  dsimp only
  exact mem_ite (mem_ringPut s _ _) (mem_ringPut s _ _)

theorem mem_closeSlot (s : State) (u : Thread) (n : Nat) : (s.closeSlot u n).mem = s.mem := by
  unfold State.closeSlot; exact mem_modCtx _ _ _

/-! ### What is pending, and store queues -/

theorem wf_drainStores (s : State) (n : Nat) (h : s.memoryWf) : (s.drainStores n).memoryWf :=
  wf_of_mem rfl (wf_foldl State.performEnt wf_performEnt _ s h)

theorem wf_atomLane (s : State) (opn et k : Nat) (x c : Word) (h : s.memoryWf) : (atomLane s opn et k x c).1.memoryWf := by
  unfold atomLane
  dsimp only
  split
  · exact h
  · exact wf_store s _ h

theorem wf_doWork (s : State) (p : Pend) (h : s.memoryWf) : (s.doWork p).memoryWf := by
  unfold State.doWork
  split
  · exact h
  · exact h
  · exact h
  · exact h
  · rename_i opn d fc et accs data cmp _
    refine wf_of_mem (mem_reread _ _) ?_
    refine wf_of_mem (modThr_mem _ _) ?_
    have key : ∀ (l : List (LaneAcc × Word × Word)) (acc : State × List RegWrite × BitVec 5), acc.1.memoryWf →
        (l.foldl (fun (acc : State × List RegWrite × BitVec 5) (x : LaneAcc × Word × Word) =>
          match x.1.key with
          | none => acc
          | some k =>
            let (s', old, pz, fl) := atomLane acc.1 opn et k x.2.1 x.2.2
            (s', acc.2.1 ++ [loadWrite d fc x.1.lane old pz], acc.2.2 ||| fl)) acc).1.memoryWf := by
      intro l
      induction l with
      | nil => intro acc hacc; exact hacc
      | cons x r ih =>
        intro acc hacc
        refine ih _ ?_
        dsimp only
        split
        · exact hacc
        · exact wf_atomLane _ _ _ _ _ _ hacc
    exact key _ _ (wf_drainStores s _ h)
  · exact h

theorem wf_completeOne (s : State) (h : s.memoryWf) : s.completeOne.memoryWf := by
  unfold State.completeOne
  split
  · exact h
  · exact wf_doWork _ _ (wf_of_mem rfl h)

theorem wf_completeN (n : Nat) (s : State) (h : s.memoryWf) : (s.completeN n).memoryWf := by
  induction n generalizing s with
  | zero => exact h
  | succ k ih => exact ih _ (wf_completeOne s h)

theorem wf_finishAll (s : State) (h : s.memoryWf) : s.finishAll.memoryWf := wf_completeN _ s h
theorem wf_completeAll (s : State) (h : s.memoryWf) : s.completeAll.memoryWf := wf_of_mem rfl (wf_finishAll s h)
theorem wf_release (s : State) (h : s.memoryWf) : s.release.memoryWf :=
  wf_of_mem (mem_reread _ _) (wf_drainStores _ _ (wf_finishAll s h))
theorem wf_drain (s : State) (u : Uses) (ctl : Bool) (h : s.memoryWf) : (s.drain u ctl).memoryWf :=
  wf_of_mem rfl (wf_completeN _ s h)

/-! ### Traces, ends of threads and traps -/

theorem wf_tracePut (s : State) (n r : Nat) (h : s.memoryWf) : (s.tracePut n r).memoryWf := by
  unfold State.tracePut
  dsimp only
  split
  · exact wf_of_mem (mem_modCtx _ _ _) h
  · split
    · exact wf_of_mem (mem_modCtx _ _ _) h
    · split <;> simp only [State.memoryWf, mem_modCtx] <;> exact wf_store s _ h

theorem wf_dropHail (s : State) (h : s.memoryWf) : s.dropHail.memoryWf := by
  unfold State.dropHail
  refine wf_of_mem (mem_modCmd _ _ _) ?_
  exact wf_of_mem (mem_reread (s.thr.queue.foldl State.performEnt s) none)
    (wf_foldl State.performEnt wf_performEnt _ s h)

theorem wf_endHail (s : State) (h : s.memoryWf) : s.endHail.memoryWf := wf_of_mem (mem_endWaits _) (wf_dropHail s h)

theorem wf_debugHalt (s : State) (tr : TrapInfo) (len : Nat) (h : s.memoryWf) : (s.debugHalt tr len).memoryWf := by
  unfold State.debugHalt
  generalize s.thr.setTrap { tr with code := 0 } len = t
  exact wf_ite (wf_tracePut _ _ _ h) h

theorem wf_trapHail (s : State) (tr : TrapInfo) (len : Nat) (h : s.memoryWf) : (s.trapHail tr len).memoryWf := by
  unfold State.trapHail
  dsimp only
  refine wf_of_mem (mem_endWaits _) (wf_of_mem (mem_holdCause _ _ _) (wf_dropHail _ ?_))
  split
  · exact wf_of_mem (mem_ringPut _ _ _) h
  · exact wf_of_mem ((mem_modCmd _ _ _).trans ((mem_abandonBar _ _ _).trans (mem_ringPut _ _ _))) h

theorem wf_endGroup (s : State) (tr : TrapInfo) (len outcome : Nat) (h : s.memoryWf) : (s.endGroup tr len outcome).memoryWf :=
  wf_of_mem (mem_endGroup s tr len outcome) h

/-- A change of the issuing thread leaves memory as it is. -/
theorem wf_thr (s : State) (t : Thread) (h : s.memoryWf) : ({ s with thr := t } : State).memoryWf := h

theorem wf_handlerFault (s : State) (tr : TrapInfo) (len : Nat) (h : s.memoryWf) : (s.handlerFault tr len).memoryWf := by
  unfold State.handlerFault
  exact wf_endGroup _ _ _ _ (wf_thr _ _ h)

theorem wf_supervisorEntry (s : State) (tr : TrapInfo) (len : Nat) (h : s.memoryWf) : (s.supervisorEntry tr len).memoryWf := by
  unfold State.supervisorEntry
  exact wf_ite (wf_thr _ _ h) (wf_handlerFault _ _ _ h)

theorem wf_userEntry (s : State) (tr : TrapInfo) (len : Nat) (h : s.memoryWf) : (s.userEntry tr len).memoryWf := by
  unfold State.userEntry
  generalize s.thr.setTrap tr len = t
  dsimp only
  split
  · exact wf_thr _ _ h
  · exact wf_handlerFault _ _ _ h

theorem wf_deliverBare (s : State) (tr : TrapInfo) (len : Nat) (h : s.memoryWf) : (s.deliverBare tr len).memoryWf := by
  unfold State.deliverBare
  dsimp only
  refine wf_ite (wf_trapHail _ _ _ (wf_thr _ _ h)) ?_
  refine wf_ite (wf_debugHalt _ _ _ h) ?_
  refine wf_ite (wf_handlerFault _ _ _ h) ?_
  refine wf_ite (wf_supervisorEntry _ _ _ h) ?_
  refine wf_ite (wf_handlerFault _ _ _ h) ?_
  refine wf_ite (wf_endGroup _ _ _ _ (wf_thr _ _ h)) ?_
  exact wf_ite (wf_handlerFault _ _ _ h) (wf_userEntry _ _ _ h)

theorem wf_takeTrap (s : State) (tr : TrapInfo) (len : Nat) (h : s.memoryWf) : (s.takeTrap tr len).memoryWf := by
  unfold State.takeTrap
  dsimp only
  split
  · exact wf_deliverBare _ _ _ (wf_of_mem rfl h)
  · split
    · split
      · exact wf_of_mem rfl h
      · exact wf_ite (wf_deliverBare _ _ _ (wf_thr _ _ h)) (wf_handlerFault _ _ _ (wf_thr _ _ h))
    · exact wf_deliverBare _ _ _ (wf_of_mem rfl h)

theorem wf_settled (s : State) (len : Nat) (x : Settled) (h : s.memoryWf) : (s.settled len x).memoryWf := by
  unfold State.settled
  split
  · exact wf_of_mem rfl h
  · exact wf_takeTrap _ _ _ (wf_thr _ _ h)
  · split
    · exact wf_endHail _ (wf_thr _ _ h)
    · exact wf_of_mem rfl h

theorem wf_settle (s : State) (len : Nat) (h : s.memoryWf) : (s.settle len).memoryWf := wf_settled s len _ h

end Sys2Proof.Machine
end

