-- ==== Sys2Proof/Laws/Memory.lean ====
section
/-! SUPPORT. What the verdict over accesses, loads and stores come to, and the claims of Safety for instructions that first make
room for a load. -/

namespace Sys2Proof.Machine

/-- A body that answers a state, after room for a load is made. -/
theorem givesRoom_of_body (op : Nat) (i : Instr) (f : Fields) (s : State) (H : State → Prop) (P : State → State → Prop)
    (body : State → Except TrapInfo State) (he : exec i s = .next (runLong op f s.roomForLoad body))
    (hb : ∀ u : State, checkLong op f = none → H u → ∃ v, body u = .ok v ∧ P u v) : GivesRoom op i f s H P := by
  intro hc hi hh
  obtain ⟨v, h1, h2⟩ := hb _ hc hh
  exact ⟨_, he, _, runLong_ok op f _ _ _ hi h1, h2⟩

/-- An access of a lane as the probes of an instruction hold it. -/
theorem probes_eq (u : State) (f : Fields) (lanes : Bool) (k : AccKind) (n : Nat) :
    probes u u.thr f lanes k n n n =
      (addressed lanes f u.thr).map (fun l => { lane := l, g := (laneAccess u f k n l).1, res := (laneAccess u f k n l).2
                                                bad := poisonIndex f u.thr l }) := by
  unfold probes addressed laneAccess poisonIndex
  cases lanes <;> simp [Function.comp_def]

/-- The access that a lane keeps after the verdict. -/
def accOf (p : Probe) : LaneAcc :=
  { lane := p.lane.getD 0, key := match p.res with | .ok x => some x | .error _ => none, bad := p.bad }

/-- No watch point that is met, no trap of one. -/
theorem watchTrap_nil (hits : List (Nat × Nat)) (m : Option Word) (h : hits = []) : watchTrap hits m = none := by
  rw [h]; rfl

theorem judge_eq (s : State) (t : Thread) (k : AccKind) (n : Nat) (ps : List Probe)
    (h : ∀ p ∈ ps, countsIn t p.lane = true → (∃ key, p.res = .ok key) ∧ watchHits s t k p.g n = []) :
    judge s t k n ps = .ok (ps.map accOf) := by
  have hh : ∀ (p : Probe) (b : Bool), (match p.lane with | some l => t.help.getLsbD l | none => false) = b →
      (!b) = true → countsIn t p.lane = true := by
    intro p b hb hn
    unfold countsIn
    cases hl : p.lane <;> rw [hl] at hb <;> simp_all
  unfold judge
  simp only []
  split
  · rename_i p hp
    have h1 := List.mem_of_find?_eq_some hp
    have h2 := List.find?_some hp
    rw [List.mem_filter] at h1
    obtain ⟨⟨key, e⟩, _⟩ := h p h1.1 (hh p _ rfl h1.2)
    rw [e] at h2
    simp at h2
  · rw [watchTrap_nil]
    · rfl
    · rw [List.flatMap_eq_nil_iff]
      intro p hp
      rw [List.mem_filter] at hp
      exact (h p hp.1 (hh p _ rfl hp.2)).2

theorem judge_probes (u : State) (f : Fields) (lanes : Bool) (k : AccKind) (n : Nat) (h : AllReach u f k n lanes) :
    judge u u.thr k n (probes u u.thr f lanes k n n n) = .ok ((addressed lanes f u.thr).map (fun l =>
      { lane := l.getD 0, key := (match (laneAccess u f k n l).2 with | .ok x => some x | .error _ => none)
        bad := poisonIndex f u.thr l })) := by
  rw [probes_eq, judge_eq]
  · simp [accOf, Function.comp_def]
  · intro p hp hc
    obtain ⟨l, hl, rfl⟩ := List.mem_map.mp hp
    exact h l hl hc

theorem first_bad {α : Type} {g e : α → Bool} (a b : List α) (p q : α) (hq : ((a ++ p :: b).filter g).find? e = some q)
    (ha : ∀ x ∈ a, g x = true → e x = false) (hg : g p = true) (he : e p = true) : p = q := by
  rw [List.filter_append, List.find?_append, List.filter_cons, if_pos hg, List.find?_cons_of_pos he] at hq
  have : (a.filter g).find? e = none := by
    rw [List.find?_eq_none]
    intro x hx
    rw [List.mem_filter] at hx
    simp [ha x hx.1 hx.2]
  rw [this] at hq
  exact Option.some.inj hq

/-- The verdict where some lane fails: that of the lowest-numbered. -/
theorem judge_error (s : State) (t : Thread) (k : AccKind) (n : Nat) (a b : List Probe) (p : Probe) (c : Nat)
    (hc : countsIn t p.lane = true) (hp : p.res = .error c)
    (ha : ∀ q ∈ a, countsIn t q.lane = true → ∃ key, q.res = .ok key) :
    ∃ m, judge s t k n (a ++ p :: b) = .error { cause := c, addr := p.g, lanes := m } := by
  have hh : ∀ (p : Probe) (b : Bool), (match p.lane with | some l => t.help.getLsbD l | none => false) = b →
      (!b) = countsIn t p.lane := by
    intro p b hb
    unfold countsIn
    cases hl : p.lane <;> rw [hl] at hb <;> simp_all
  unfold judge
  simp only []
  split
  · rename_i q hq
    have := first_bad a b p q hq (fun x hx hg => by
      obtain ⟨key, e⟩ := ha x hx ((hh x _ rfl).symm.trans hg)
      rw [e]) ((hh p _ rfl).trans hc) (by rw [hp])
    subst this
    simp only [hp]
    exact ⟨_, rfl⟩
  · rename_i hq
    rw [List.find?_eq_none] at hq
    refine absurd (by rw [hp]) (hq p (List.mem_filter.mpr ⟨by simp, (hh p _ rfl).trans hc⟩))

end Sys2Proof.Machine
end

