-- ==== Sys2Proof/Laws/PerInstr.lean ====
section
/-! SUPPORT. A fact about every instruction as syntax: the constructors that `longOf`, `shortOf` and `commandOf` read an opcode
and fields from are the ones that `longInstr`, `shortInstr` and `commandInstr` build of them (03 R51, R61, 19 R375). -/

namespace Sys2Proof.Laws.MapBack

/-- The opcode and fields read from an instruction name that instruction; a command's do when its entry holds the selector of
its row. -/
def Statement (i : Instr) : Prop :=
  (∀ op f, longOf i = some (op, f) → longInstr op f = some i) ∧
  (∀ op f, shortOf i = some (op, f) → shortInstr op f = some i) ∧
  (∀ op sel e, commandOf i = some (op, sel, e) → (∀ k, sel = some k → e.selector op = k) → commandInstr op e = some i)

/-- A long or extended instruction. -/
theorem of_long {i : Instr} {op : Nat} {f : Fields} (hl : longOf i = some (op, f)) (hs : shortOf i = none)
    (hc : commandOf i = none) (h : longInstr op f = some i) : Statement i := by
  refine ⟨fun o g e => ?_, fun _ _ e => by simp [hs] at e, fun _ _ _ e => by simp [hc] at e⟩
  rw [hl] at e; cases e; exact h

/-- A short instruction. -/
theorem of_short {i : Instr} {op : Nat} {f : ShortFields} (hl : longOf i = none) (hs : shortOf i = some (op, f))
    (hc : commandOf i = none) (h : shortInstr op f = some i) : Statement i := by
  refine ⟨fun _ _ e => by simp [hl] at e, fun o g e => ?_, fun _ _ _ e => by simp [hc] at e⟩
  rw [hs] at e; cases e; exact h

/-- A host command. -/
theorem of_command {i : Instr} {op : Nat} {sel : Option Nat} {e : CmdEntry} (hl : longOf i = none) (hs : shortOf i = none)
    (hc : commandOf i = some (op, sel, e)) (h : (∀ k, sel = some k → e.selector op = k) → commandInstr op e = some i) :
    Statement i := by
  refine ⟨fun _ _ e => by simp [hl] at e, fun _ _ e => by simp [hs] at e, fun o s g q => ?_⟩
  rw [hc] at q; cases q; exact h

/-- A step of the part. -/
theorem of_step {i : Instr} (hl : longOf i = none) (hs : shortOf i = none) (hc : commandOf i = none) : Statement i :=
  ⟨fun _ _ e => by simp [hl] at e, fun _ _ e => by simp [hs] at e, fun _ _ _ e => by simp [hc] at e⟩

theorem nop (f : Fields) : Statement (.nop f) := of_long rfl rfl rfl rfl
theorem bra (f : Fields) : Statement (.bra f) := of_long rfl rfl rfl rfl
theorem brc (f : Fields) : Statement (.brc f) := of_long rfl rfl rfl rfl
theorem loop (f : Fields) : Statement (.loop f) := of_long rfl rfl rfl rfl
theorem jtab (f : Fields) : Statement (.jtab f) := of_long rfl rfl rfl rfl
theorem call (f : Fields) : Statement (.call f) := of_long rfl rfl rfl rfl
theorem calli (f : Fields) : Statement (.calli f) := of_long rfl rfl rfl rfl
theorem ret (f : Fields) : Statement (.ret f) := of_long rfl rfl rfl rfl
theorem enter (f : Fields) : Statement (.enter f) := of_long rfl rfl rfl rfl
theorem classFirst (f : Fields) : Statement (.classFirst f) := of_long rfl rfl rfl rfl
theorem classAsc (f : Fields) : Statement (.classAsc f) := of_long rfl rfl rfl rfl
theorem classM (f : Fields) : Statement (.classM f) := of_long rfl rfl rfl rfl
theorem nextc (f : Fields) : Statement (.nextc f) := of_long rfl rfl rfl rfl
theorem leave (f : Fields) : Statement (.leave f) := of_long rfl rfl rfl rfl
theorem exit (f : Fields) : Statement (.exit f) := of_long rfl rfl rfl rfl
theorem uput (f : Fields) : Statement (.uput f) := of_long rfl rfl rfl rfl
theorem yield (f : Fields) : Statement (.yield f) := of_long rfl rfl rfl rfl
theorem iadd (f : Fields) : Statement (.iadd f) := of_long rfl rfl rfl rfl
theorem isub (f : Fields) : Statement (.isub f) := of_long rfl rfl rfl rfl
theorem imul (f : Fields) : Statement (.imul f) := of_long rfl rfl rfl rfl
theorem imulh (f : Fields) : Statement (.imulh f) := of_long rfl rfl rfl rfl
theorem imad (f : Fields) : Statement (.imad f) := of_long rfl rfl rfl rfl
theorem imin (f : Fields) : Statement (.imin f) := of_long rfl rfl rfl rfl
theorem imax (f : Fields) : Statement (.imax f) := of_long rfl rfl rfl rfl
theorem iabs (f : Fields) : Statement (.iabs f) := of_long rfl rfl rfl rfl
theorem ineg (f : Fields) : Statement (.ineg f) := of_long rfl rfl rfl rfl
theorem iadds (f : Fields) : Statement (.iadds f) := of_long rfl rfl rfl rfl
theorem isubs (f : Fields) : Statement (.isubs f) := of_long rfl rfl rfl rfl
theorem andB (f : Fields) : Statement (.andB f) := of_long rfl rfl rfl rfl
theorem orB (f : Fields) : Statement (.orB f) := of_long rfl rfl rfl rfl
theorem xorB (f : Fields) : Statement (.xorB f) := of_long rfl rfl rfl rfl
theorem notB (f : Fields) : Statement (.notB f) := of_long rfl rfl rfl rfl
theorem shl (f : Fields) : Statement (.shl f) := of_long rfl rfl rfl rfl
theorem shr (f : Fields) : Statement (.shr f) := of_long rfl rfl rfl rfl
theorem sar (f : Fields) : Statement (.sar f) := of_long rfl rfl rfl rfl
theorem rol (f : Fields) : Statement (.rol f) := of_long rfl rfl rfl rfl
theorem popc (f : Fields) : Statement (.popc f) := of_long rfl rfl rfl rfl
theorem clz (f : Fields) : Statement (.clz f) := of_long rfl rfl rfl rfl
theorem brev (f : Fields) : Statement (.brev f) := of_long rfl rfl rfl rfl
theorem bfx (f : Fields) : Statement (.bfx f) := of_long rfl rfl rfl rfl
theorem bfi (f : Fields) : Statement (.bfi f) := of_long rfl rfl rfl rfl
theorem sel (f : Fields) : Statement (.sel f) := of_long rfl rfl rfl rfl
theorem icmp (f : Fields) : Statement (.icmp f) := of_long rfl rfl rfl rfl
theorem addmin (f : Fields) : Statement (.addmin f) := of_long rfl rfl rfl rfl
theorem fadd (f : Fields) : Statement (.fadd f) := of_long rfl rfl rfl rfl
theorem fsub (f : Fields) : Statement (.fsub f) := of_long rfl rfl rfl rfl
theorem fmul (f : Fields) : Statement (.fmul f) := of_long rfl rfl rfl rfl
theorem ffma (f : Fields) : Statement (.ffma f) := of_long rfl rfl rfl rfl
theorem fmin (f : Fields) : Statement (.fmin f) := of_long rfl rfl rfl rfl
theorem fmax (f : Fields) : Statement (.fmax f) := of_long rfl rfl rfl rfl
theorem fcmp (f : Fields) : Statement (.fcmp f) := of_long rfl rfl rfl rfl
theorem frcp (f : Fields) : Statement (.frcp f) := of_long rfl rfl rfl rfl
theorem frsq (f : Fields) : Statement (.frsq f) := of_long rfl rfl rfl rfl
theorem fexp2 (f : Fields) : Statement (.fexp2 f) := of_long rfl rfl rfl rfl
theorem flog2 (f : Fields) : Statement (.flog2 f) := of_long rfl rfl rfl rfl
theorem fsin (f : Fields) : Statement (.fsin f) := of_long rfl rfl rfl rfl
theorem fcos (f : Fields) : Statement (.fcos f) := of_long rfl rfl rfl rfl
theorem ftanh (f : Fields) : Statement (.ftanh f) := of_long rfl rfl rfl rfl
theorem hfma2 (f : Fields) : Statement (.hfma2 f) := of_long rfl rfl rfl rfl
theorem aadd (f : Fields) : Statement (.aadd f) := of_long rfl rfl rfl rfl
theorem asub (f : Fields) : Statement (.asub f) := of_long rfl rfl rfl rfl
theorem amul (f : Fields) : Statement (.amul f) := of_long rfl rfl rfl rfl
theorem ashl (f : Fields) : Statement (.ashl f) := of_long rfl rfl rfl rfl
theorem amov (f : Fields) : Statement (.amov f) := of_long rfl rfl rfl rfl
theorem mand (f : Fields) : Statement (.mand f) := of_long rfl rfl rfl rfl
theorem mor (f : Fields) : Statement (.mor f) := of_long rfl rfl rfl rfl
theorem mxor (f : Fields) : Statement (.mxor f) := of_long rfl rfl rfl rfl
theorem mnot (f : Fields) : Statement (.mnot f) := of_long rfl rfl rfl rfl
theorem mcount (f : Fields) : Statement (.mcount f) := of_long rfl rfl rfl rfl
theorem many (f : Fields) : Statement (.many f) := of_long rfl rfl rfl rfl
theorem mall (f : Fields) : Statement (.mall f) := of_long rfl rfl rfl rfl
theorem mfirst (f : Fields) : Statement (.mfirst f) := of_long rfl rfl rfl rfl
theorem cvt (f : Fields) : Statement (.cvt f) := of_long rfl rfl rfl rfl
theorem vfrom (f : Fields) : Statement (.vfrom f) := of_long rfl rfl rfl rfl
theorem sfrom (f : Fields) : Statement (.sfrom f) := of_long rfl rfl rfl rfl
theorem sfromChk (f : Fields) : Statement (.sfromChk f) := of_long rfl rfl rfl rfl
theorem shfl (f : Fields) : Statement (.shfl f) := of_long rfl rfl rfl rfl
theorem shflup (f : Fields) : Statement (.shflup f) := of_long rfl rfl rfl rfl
theorem shfldn (f : Fields) : Statement (.shfldn f) := of_long rfl rfl rfl rfl
theorem shflx (f : Fields) : Statement (.shflx f) := of_long rfl rfl rfl rfl
theorem qswap (f : Fields) : Statement (.qswap f) := of_long rfl rfl rfl rfl
theorem qbcast (f : Fields) : Statement (.qbcast f) := of_long rfl rfl rfl rfl
theorem matchV (f : Fields) : Statement (.matchV f) := of_long rfl rfl rfl rfl
theorem vscan (f : Fields) : Statement (.vscan f) := of_long rfl rfl rfl rfl
theorem vred (f : Fields) : Statement (.vred f) := of_long rfl rfl rfl rfl
theorem tshape (f : Fields) : Statement (.tshape f) := of_long rfl rfl rfl rfl
theorem tzero (f : Fields) : Statement (.tzero f) := of_long rfl rfl rfl rfl
theorem tload (f : Fields) : Statement (.tload f) := of_long rfl rfl rfl rfl
theorem tstore (f : Fields) : Statement (.tstore f) := of_long rfl rfl rfl rfl
theorem tzload (f : Fields) : Statement (.tzload f) := of_long rfl rfl rfl rfl
theorem tzstore (f : Fields) : Statement (.tzstore f) := of_long rfl rfl rfl rfl
theorem tmma (f : Fields) : Statement (.tmma f) := of_long rfl rfl rfl rfl
theorem tmmaFb (f : Fields) : Statement (.tmmaFb f) := of_long rfl rfl rfl rfl
theorem tzrow (f : Fields) : Statement (.tzrow f) := of_long rfl rfl rfl rfl
theorem qpack (f : Fields) : Statement (.qpack f) := of_long rfl rfl rfl rfl
theorem qunpk (f : Fields) : Statement (.qunpk f) := of_long rfl rfl rfl rfl
theorem xsect (f : Fields) : Statement (.xsect f) := of_long rfl rfl rfl rfl
theorem nzscan (f : Fields) : Statement (.nzscan f) := of_long rfl rfl rfl rfl
theorem ld (f : Fields) : Statement (.ld f) := of_long rfl rfl rfl rfl
theorem st (f : Fields) : Statement (.st f) := of_long rfl rfl rfl rfl
theorem ldh (f : Fields) : Statement (.ldh f) := of_long rfl rfl rfl rfl
theorem sth (f : Fields) : Statement (.sth f) := of_long rfl rfl rfl rfl
theorem stag (f : Fields) : Statement (.stag f) := of_long rfl rfl rfl rfl
theorem ltag (f : Fields) : Statement (.ltag f) := of_long rfl rfl rfl rfl
theorem waitld (f : Fields) : Statement (.waitld f) := of_long rfl rfl rfl rfl
theorem bcopy (f : Fields) : Statement (.bcopy f) := of_long rfl rfl rfl rfl
theorem bcopyR (f : Fields) : Statement (.bcopyR f) := of_long rfl rfl rfl rfl
theorem bcopyS (f : Fields) : Statement (.bcopyS f) := of_long rfl rfl rfl rfl
theorem bstore (f : Fields) : Statement (.bstore f) := of_long rfl rfl rfl rfl
theorem hread (f : Fields) : Statement (.hread f) := of_long rfl rfl rfl rfl
theorem hreadV (f : Fields) : Statement (.hreadV f) := of_long rfl rfl rfl rfl
theorem hret (f : Fields) : Statement (.hret f) := of_long rfl rfl rfl rfl
theorem atom (f : Fields) : Statement (.atom f) := of_long rfl rfl rfl rfl
theorem atomh (f : Fields) : Statement (.atomh f) := of_long rfl rfl rfl rfl
theorem fence (f : Fields) : Statement (.fence f) := of_long rfl rfl rfl rfl
theorem bar (f : Fields) : Statement (.bar f) := of_long rfl rfl rfl rfl
theorem sbar (f : Fields) : Statement (.sbar f) := of_long rfl rfl rfl rfl
theorem waitv (f : Fields) : Statement (.waitv f) := of_long rfl rfl rfl rfl
theorem txalloc (f : Fields) : Statement (.txalloc f) := of_long rfl rfl rfl rfl
theorem txexpect (f : Fields) : Statement (.txexpect f) := of_long rfl rfl rfl rfl
theorem txarrive (f : Fields) : Statement (.txarrive f) := of_long rfl rfl rfl rfl
theorem txwait (f : Fields) : Statement (.txwait f) := of_long rfl rfl rfl rfl
theorem txfree (f : Fields) : Statement (.txfree f) := of_long rfl rfl rfl rfl
theorem publ (f : Fields) : Statement (.publ f) := of_long rfl rfl rfl rfl
theorem gnode (f : Fields) : Statement (.gnode f) := of_long rfl rfl rfl rfl
theorem gedge (f : Fields) : Statement (.gedge f) := of_long rfl rfl rfl rfl
theorem garm (f : Fields) : Statement (.garm f) := of_long rfl rfl rfl rfl
theorem coll (f : Fields) : Statement (.coll f) := of_long rfl rfl rfl rfl
theorem collw (f : Fields) : Statement (.collw f) := of_long rfl rfl rfl rfl
theorem trap (f : Fields) : Statement (.trap f) := of_long rfl rfl rfl rfl
theorem sret (f : Fields) : Statement (.sret f) := of_long rfl rfl rfl rfl
theorem csrr (f : Fields) : Statement (.csrr f) := of_long rfl rfl rfl rfl
theorem csrw (f : Fields) : Statement (.csrw f) := of_long rfl rfl rfl rfl
theorem trapvec (f : Fields) : Statement (.trapvec f) := of_long rfl rfl rfl rfl
theorem mappg (f : Fields) : Statement (.mappg f) := of_long rfl rfl rfl rfl
theorem tlbinv (f : Fields) : Statement (.tlbinv f) := of_long rfl rfl rfl rfl
theorem mark (f : Fields) : Statement (.mark f) := of_long rfl rfl rfl rfl
theorem nopShort (f : ShortFields) : Statement (.nopShort f) := of_short rfl rfl rfl rfl
theorem iaddShort (f : ShortFields) : Statement (.iaddShort f) := of_short rfl rfl rfl rfl
theorem isubShort (f : ShortFields) : Statement (.isubShort f) := of_short rfl rfl rfl rfl
theorem imulShort (f : ShortFields) : Statement (.imulShort f) := of_short rfl rfl rfl rfl
theorem iminShort (f : ShortFields) : Statement (.iminShort f) := of_short rfl rfl rfl rfl
theorem imaxShort (f : ShortFields) : Statement (.imaxShort f) := of_short rfl rfl rfl rfl
theorem andShort (f : ShortFields) : Statement (.andShort f) := of_short rfl rfl rfl rfl
theorem orShort (f : ShortFields) : Statement (.orShort f) := of_short rfl rfl rfl rfl
theorem xorShort (f : ShortFields) : Statement (.xorShort f) := of_short rfl rfl rfl rfl
theorem shlShort (f : ShortFields) : Statement (.shlShort f) := of_short rfl rfl rfl rfl
theorem shrShort (f : ShortFields) : Statement (.shrShort f) := of_short rfl rfl rfl rfl
theorem sarShort (f : ShortFields) : Statement (.sarShort f) := of_short rfl rfl rfl rfl
theorem rolShort (f : ShortFields) : Statement (.rolShort f) := of_short rfl rfl rfl rfl
theorem iaddsShort (f : ShortFields) : Statement (.iaddsShort f) := of_short rfl rfl rfl rfl
theorem isubsShort (f : ShortFields) : Statement (.isubsShort f) := of_short rfl rfl rfl rfl
theorem faddShort (f : ShortFields) : Statement (.faddShort f) := of_short rfl rfl rfl rfl
theorem fsubShort (f : ShortFields) : Statement (.fsubShort f) := of_short rfl rfl rfl rfl
theorem fmulShort (f : ShortFields) : Statement (.fmulShort f) := of_short rfl rfl rfl rfl
theorem fminShort (f : ShortFields) : Statement (.fminShort f) := of_short rfl rfl rfl rfl
theorem fmaxShort (f : ShortFields) : Statement (.fmaxShort f) := of_short rfl rfl rfl rfl
theorem aaddShort (f : ShortFields) : Statement (.aaddShort f) := of_short rfl rfl rfl rfl
theorem asubShort (f : ShortFields) : Statement (.asubShort f) := of_short rfl rfl rfl rfl
theorem amulShort (f : ShortFields) : Statement (.amulShort f) := of_short rfl rfl rfl rfl
theorem ashlShort (f : ShortFields) : Statement (.ashlShort f) := of_short rfl rfl rfl rfl
theorem amovShort (f : ShortFields) : Statement (.amovShort f) := of_short rfl rfl rfl rfl
theorem inegShort (f : ShortFields) : Statement (.inegShort f) := of_short rfl rfl rfl rfl
theorem notShort (f : ShortFields) : Statement (.notShort f) := of_short rfl rfl rfl rfl
theorem popcShort (f : ShortFields) : Statement (.popcShort f) := of_short rfl rfl rfl rfl
theorem clzShort (f : ShortFields) : Statement (.clzShort f) := of_short rfl rfl rfl rfl
theorem createCtx (e : CmdEntry) : Statement (.createCtx e) := of_command rfl rfl rfl (fun _ => rfl)
theorem destroyCtx (e : CmdEntry) : Statement (.destroyCtx e) := of_command rfl rfl rfl (fun _ => rfl)
theorem mapPages (e : CmdEntry) : Statement (.mapPages e) := of_command rfl rfl rfl (fun _ => rfl)
theorem unmapPages (e : CmdEntry) : Statement (.unmapPages e) := of_command rfl rfl rfl (fun _ => rfl)
theorem loadImage (e : CmdEntry) : Statement (.loadImage e) := of_command rfl rfl rfl (fun _ => rfl)
theorem launch (e : CmdEntry) : Statement (.launch e) := of_command rfl rfl rfl (fun _ => rfl)
theorem graphSubmit (e : CmdEntry) : Statement (.graphSubmit e) := of_command rfl rfl rfl (fun _ => rfl)
theorem queryDevice (e : CmdEntry) : Statement (.queryDevice e) := of_command rfl rfl rfl (fun h => by simp only [commandInstr, h _ rfl])
theorem queryFaultRing (e : CmdEntry) : Statement (.queryFaultRing e) := of_command rfl rfl rfl (fun h => by simp only [commandInstr, h _ rfl])
theorem queryCounters (e : CmdEntry) : Statement (.queryCounters e) := of_command rfl rfl rfl (fun h => by simp only [commandInstr, h _ rfl])
theorem querySolderSlots (e : CmdEntry) : Statement (.querySolderSlots e) := of_command rfl rfl rfl (fun h => by simp only [commandInstr, h _ rfl])
theorem queryObservation (e : CmdEntry) : Statement (.queryObservation e) := of_command rfl rfl rfl (fun h => by simp only [commandInstr, h _ rfl])
theorem queryCoresched (e : CmdEntry) : Statement (.queryCoresched e) := of_command rfl rfl rfl (fun h => by simp only [commandInstr, h _ rfl])
theorem queryFenceRefusals (e : CmdEntry) : Statement (.queryFenceRefusals e) := of_command rfl rfl rfl (fun h => by simp only [commandInstr, h _ rfl])
theorem queryLinkPorts (e : CmdEntry) : Statement (.queryLinkPorts e) := of_command rfl rfl rfl (fun h => by simp only [commandInstr, h _ rfl])
theorem queryContext (e : CmdEntry) : Statement (.queryContext e) := of_command rfl rfl rfl (fun h => by simp only [commandInstr, h _ rfl])
theorem dump (e : CmdEntry) : Statement (.dump e) := of_command rfl rfl rfl (fun _ => rfl)
theorem installPatch (e : CmdEntry) : Statement (.installPatch e) := of_command rfl rfl rfl (fun _ => rfl)
theorem attest (e : CmdEntry) : Statement (.attest e) := of_command rfl rfl rfl (fun _ => rfl)
theorem setBudget (e : CmdEntry) : Statement (.setBudget e) := of_command rfl rfl rfl (fun _ => rfl)
theorem setHandle (e : CmdEntry) : Statement (.setHandle e) := of_command rfl rfl rfl (fun _ => rfl)
theorem setTag (e : CmdEntry) : Statement (.setTag e) := of_command rfl rfl rfl (fun _ => rfl)
theorem stopCtx (e : CmdEntry) : Statement (.stopCtx e) := of_command rfl rfl rfl (fun _ => rfl)
theorem observe (e : CmdEntry) : Statement (.observe e) := of_command rfl rfl rfl (fun _ => rfl)
theorem debugWriteSlots (e : CmdEntry) : Statement (.debugWriteSlots e) := of_command rfl rfl rfl (fun h => by simp only [commandInstr, h _ rfl])
theorem debugHalt (e : CmdEntry) : Statement (.debugHalt e) := of_command rfl rfl rfl (fun h => by simp only [commandInstr, h _ rfl])
theorem debugResume (e : CmdEntry) : Statement (.debugResume e) := of_command rfl rfl rfl (fun h => by simp only [commandInstr, h _ rfl])
theorem debugStep (e : CmdEntry) : Statement (.debugStep e) := of_command rfl rfl rfl (fun h => by simp only [commandInstr, h _ rfl])
theorem debugFocus (e : CmdEntry) : Statement (.debugFocus e) := of_command rfl rfl rfl (fun h => by simp only [commandInstr, h _ rfl])
theorem debugEnd (e : CmdEntry) : Statement (.debugEnd e) := of_command rfl rfl rfl (fun h => by simp only [commandInstr, h _ rfl])
theorem setComm (e : CmdEntry) : Statement (.setComm e) := of_command rfl rfl rfl (fun _ => rfl)
theorem hostWindow (e : CmdEntry) : Statement (.hostWindow e) := of_command rfl rfl rfl (fun _ => rfl)
theorem devstatGo (v : Bool) : Statement (.devstatGo v) := of_step rfl rfl rfl
theorem devstatMode (v : Bool) : Statement (.devstatMode v) := of_step rfl rfl rfl
theorem pwrctlWrite (v : Word) : Statement (.pwrctlWrite v) := of_step rfl rfl rfl
theorem fenceWindowWrite (port win reg : Nat) (v : Word) : Statement (.fenceWindowWrite port win reg v) := of_step rfl rfl rfl
theorem devnumWrite (v : BitVec 12) : Statement (.devnumWrite v) := of_step rfl rfl rfl
theorem registerWrite (off : Nat) (v : Word) : Statement (.registerWrite off v) := of_step rfl rfl rfl
theorem deviceReset : Statement (.deviceReset) := of_step rfl rfl rfl
theorem linkTraining (gtsMax : Word) (up : BitVec 12) : Statement (.linkTraining gtsMax up) := of_step rfl rfl rfl
theorem cxlMemAccess (win off : Nat) (wr : Option (BitVec 512)) : Statement (.cxlMemAccess win off wr) := of_step rfl rfl rfl
theorem remoteTransaction (r : Remote) : Statement (.remoteTransaction r) := of_step rfl rfl rfl
theorem linkFailure (port : Nat) : Statement (.linkFailure port) := of_step rfl rfl rfl
theorem softError (e : SoftError) : Statement (.softError e) := of_step rfl rfl rfl
theorem waitvReread (tid : Nat) : Statement (.waitvReread tid) := of_step rfl rfl rfl
theorem sample (core part : Nat) : Statement (.sample core part) := of_step rfl rfl rfl
theorem budgetLower (core : Nat) : Statement (.budgetLower core) := of_step rfl rfl rfl
theorem budgetRaise (core : Nat) : Statement (.budgetRaise core) := of_step rfl rfl rfl
theorem powerThrottle : Statement (.powerThrottle) := of_step rfl rfl rfl
theorem dieOvertemp (die : Nat) : Statement (.dieOvertemp die) := of_step rfl rfl rfl
theorem thermalTrip : Statement (.thermalTrip) := of_step rfl rfl rfl
theorem swapOut (team : Nat) : Statement (.swapOut team) := of_step rfl rfl rfl
theorem swapOutComplete (team : Nat) : Statement (.swapOutComplete team) := of_step rfl rfl rfl
theorem readmission (team : Nat) : Statement (.readmission team) := of_step rfl rfl rfl
theorem contextTimeslice (core : Nat) : Statement (.contextTimeslice core) := of_step rfl rfl rfl
theorem contextSwitch (core : Nat) : Statement (.contextSwitch core) := of_step rfl rfl rfl
theorem contextRestore (core : Nat) : Statement (.contextRestore core) := of_step rfl rfl rfl
theorem handlerInstructionLimit (tid : Nat) : Statement (.handlerInstructionLimit tid) := of_step rfl rfl rfl
theorem emulationLimit (tid : Nat) : Statement (.emulationLimit tid) := of_step rfl rfl rfl
theorem supervisorWatchdog (tid : Nat) : Statement (.supervisorWatchdog tid) := of_step rfl rfl rfl
theorem starvationGuard (core part : Nat) : Statement (.starvationGuard core part) := of_step rfl rfl rfl
theorem placeTeam (die : Nat) : Statement (.placeTeam die) := of_step rfl rfl rfl
theorem placeSpan (die : Nat) : Statement (.placeSpan die) := of_step rfl rfl rfl
theorem loadDataReturn (tid : Nat) : Statement (.loadDataReturn tid) := of_step rfl rfl rfl
theorem resultWriteback (tid : Nat) : Statement (.resultWriteback tid) := of_step rfl rfl rfl
theorem storePerform (tid : Nat) : Statement (.storePerform tid) := of_step rfl rfl rfl
theorem engineCommandStart (cmd : Nat) : Statement (.engineCommandStart cmd) := of_step rfl rfl rfl
theorem copySectorPerform (cmd : Nat) : Statement (.copySectorPerform cmd) := of_step rfl rfl rfl
theorem engineCompletionArrival (cmd : Nat) : Statement (.engineCompletionArrival cmd) := of_step rfl rfl rfl
theorem engineFault (cmd : Nat) : Statement (.engineFault cmd) := of_step rfl rfl rfl
theorem hailBurstRequest (cmd : Nat) : Statement (.hailBurstRequest cmd) := of_step rfl rfl rfl
theorem hailBurstReturn (cmd burst : Nat) : Statement (.hailBurstReturn cmd burst) := of_step rfl rfl rfl
theorem hailThreadBirth (core : Nat) : Statement (.hailThreadBirth core) := of_step rfl rfl rfl
theorem graphNodeFinish (die slot : Nat) : Statement (.graphNodeFinish die slot) := of_step rfl rfl rfl
theorem collCompletion (coll : Nat) (order : List Nat) : Statement (.collCompletion coll order) := of_step rfl rfl rfl
theorem groupSlotFree (tid : Nat) : Statement (.groupSlotFree tid) := of_step rfl rfl rfl
theorem asyncTrapDelivery (tid : Nat) : Statement (.asyncTrapDelivery tid) := of_step rfl rfl rfl
theorem slotUpdatePoint : Statement (.slotUpdatePoint) := of_step rfl rfl rfl
theorem arithmeticClockRise (die : Nat) : Statement (.arithmeticClockRise die) := of_step rfl rfl rfl
theorem hubFirstTouchService (cmd : Nat) : Statement (.hubFirstTouchService cmd) := of_step rfl rfl rfl

end Sys2Proof.Laws.MapBack
end

