-- ==== Sys2Proof/Laws/Run.lean ====
section
/-! SUPPORT. How a slot ends, once for each way a slot is run: long instructions, register instructions, tile transfers
and shorts. A slot keeps the canonical form of memory when its body does. -/

namespace Sys2Proof.Machine

/-- A thread operation, and the drain and the windows that come before a body, keep the form. -/
theorem wf_modThr (s : State) (g : Thread → Thread) (h : s.memoryWf) : (s.modThr g).memoryWf := h

/-- A slot keeps the form when its body does. -/
theorem wf_runSlot (u : Uses) (ctl : Bool) (len : Nat) (sel remote : Thread → Word) (ex nr : Bool) (s : State)
    (body : State → Except TrapInfo State) (h : s.memoryWf)
    (hb : ∀ a b : State, a.memoryWf → body a = .ok b → b.memoryWf) :
    (runSlot u ctl len sel remote ex nr s body).memoryWf := by
  have hd := wf_drain s u ctl h
  unfold runSlot
  dsimp only
  split
  · exact wf_takeTrap _ _ _ (wf_completeAll _ hd)
  · split
    · exact wf_takeTrap _ _ _ (wf_completeAll _ hd)
    · rename_i v hv
      exact wf_of_mem (mem_closeSlot _ _ _) (hb _ _ (wf_modThr _ _ hd) hv)

theorem wf_runLong (op : Nat) (f : Fields) (s : State) (body : State → Except TrapInfo State) (h : s.memoryWf)
    (hb : ∀ a b : State, a.memoryWf → body a = .ok b → b.memoryWf) : (runLong op f s body).memoryWf := by
  unfold runLong
  exact wf_runSlot _ _ _ _ _ _ _ s body h hb

/-- An effect on registers touches no memory. -/
theorem mem_commit (op : Nat) (f : Fields) (s t : State) (e : Eff) (h : commit op f s e = .ok t) : t.mem = s.mem := by
  unfold commit at h
  dsimp only at h
  split at h
  · exact absurd h (by simp)
  · exact (Except.ok.inj h) ▸ rfl

theorem wf_runAlu (op : Nat) (sem : Fields → Thread → Except TrapInfo Eff) (f : Fields) (s : State) (h : s.memoryWf) :
    (runAlu op sem f s).memoryWf := by
  refine wf_runLong op f s _ h (fun a b ha hb => ?_)
  cases he : sem f a.thr with
  | error tr => rw [he] at hb; exact absurd hb (by simp [Except.bind])
  | ok e => rw [he] at hb; exact wf_of_mem (mem_commit op f a b e hb) ha

theorem wf_runShort (sop : Nat) (sem : Fields → Thread → Except TrapInfo Eff)
    (semOf : Nat → Fields → Thread → Except TrapInfo Eff) (f : ShortFields) (s : State) (h : s.memoryWf) :
    (runShort sop sem semOf f s).memoryWf := by
  unfold runShort
  dsimp only
  generalize (if f.lead = true then _ else _ : Uses) = u
  generalize (sop == 0 || (f.lead && (shortParts f.fol).1 == 0)) = ctl
  have hd := wf_drain s u ctl h
  split
  · exact wf_takeTrap _ _ _ (wf_completeAll _ hd)
  · exact wf_of_mem (mem_closeSlot _ _ _) (wf_modThr _ _ hd)

theorem wf_runTile (op : Nat) (f : Fields) (s : State) (body : State → TileEnd) (h : s.memoryWf)
    (hb : ∀ a b : State, a.memoryWf → body a = .ok b → b.memoryWf)
    (hp : ∀ (a v : State) (tr : TrapInfo) (pre : State → State), body a = .part tr pre → v.memoryWf → (pre v).memoryWf) :
    (runTile op f s body).memoryWf := by
  have hd := wf_drain s (usesOf op f false) false h
  unfold runTile
  dsimp only
  split
  · exact wf_takeTrap _ _ _ (wf_completeAll _ hd)
  · split
    · exact wf_takeTrap _ _ _ (wf_completeAll _ hd)
    · rename_i tr pre hv
      exact wf_takeTrap _ _ _ (hp _ _ _ _ hv (wf_completeAll _ hd))
    · rename_i v hv
      exact wf_of_mem (mem_closeSlot _ _ _) (hb _ _ (wf_modThr _ _ hd) hv)

/-- A tile transfer that issues, and whose body leaves `v`, ends in `v` but for what the end of a slot counts. -/
theorem runTile_ok (op : Nat) (f : Fields) (s v : State) (body : State → TileEnd)
    (hi : issueCheck (s.drain (usesOf op f false) false).thr (usesOf op f false) 1
      ((s.drain (usesOf op f false) false).thr.sel f) 0 false false = none)
    (hb : body ((s.drain (usesOf op f false) false).modThr Thread.tickWindows) = .ok v) :
    SlotEnd v (runTile op f s body) := by
  unfold runTile
  simp only [hi, hb]
  exact closeSlot_slotEnd _ _ _

/-- A step performs the instruction that its beginning chose, and time passes. -/
theorem step_of_run (s t u : State) (i : Instr) (hb : s.begin = .run i t) (he : exec i t = .next u) :
    step s = afterOutcome (.next u) := by
  unfold step; rw [hb, ← he]

theorem step_of_over (s t : State) (hb : s.begin = .over t) : step s = .next t.after := by
  unfold step; rw [hb]; rfl

end Sys2Proof.Machine
end

