-- ==== Sys2Proof/Tests/Slice0.lean ====
section
/-! SUPPORT. Tests of the model against words, examples and values worked out by hand from spec/, and for each obligation a
concrete state and operands that meet its hypotheses. -/

namespace Sys2Proof.Tests
set_option Elab.async false
open Sys2Proof.Machine

/-- Fields that are all zero. -/
def F : Fields := ⟨false, 0, 0, 0, 0, 0, 0, 0, 0, 0, 0, false, 0, 0, false, 0, 0⟩
/-- A varying instruction on `v4`, `v5` and `v3` of type `.u32`. -/
def V : Fields := { F with d := 3, a := 4, ak := 2, b := 5, bk := 2, et := 6, fc := 2 }
/-- A uniform instruction on `s2`, `s3` and `s1` of type `.i64`. -/
def U : Fields := { F with d := 1, a := 2, b := 3, et := 3 }
/-- A short on `s3`. -/
def H : ShortFields := ⟨false, 2, 0, 3, 0, 0⟩
/-- A command entry with no operand. -/
def E0 : CmdEntry := ⟨0, 0, 0, 0⟩

/-- Why a result is none. -/
def why {α ε : Type} (r : Except ε α) : Option ε := match r with | .error e => some e | .ok _ => none

/-! ### What is not well formed (03 R59, R64; 19 R375) -/

theorem test_ill_opcode : checkLong 0x11 F = some 1 := by decide +kernel
theorem test_ill_field : wellFormed (.iadd { V with rs := 1 }) = false ∧ checkLong 0x20 { V with rs := 1 } = some 2 := by decide +kernel
theorem test_ill_type_field : checkLong 0x20 { V with et := 7 } = some 2 := by decide +kernel
theorem test_ill_literal : checkLong 0x20 { V with lit := 1 } = some 2 := by decide +kernel
theorem test_ill_operand : wellFormed (.iadd { V with bk := 0, b := 64 }) = false ∧
    checkLong 0x20 { V with bk := 0, b := 64 } = some 3 := by decide +kernel
theorem test_ill_lattice : wellFormed (.iadd { U with ak := 2 }) = false ∧ checkLong 0x20 { U with ak := 2 } = some 4 := by decide +kernel
theorem test_ill_predicate : wellFormed (.iadd { V with neg := true }) = false ∧ checkLong 0x20 { V with neg := true } = some 5 ∧
    checkLong 0x20 { U with pm := 1 } = some 5 := by decide +kernel
theorem test_ill_short : checkShort 0x1D H = some 1 ∧ checkShort 0x01 { H with df := 3 } = some 2 ∧
    checkShort 0x16 { H with bf := 1, df := 1 } = some 3 ∧ checkShort 0x01 { H with df := 1 } = some 4 ∧
    wellFormed (.iaddShort { H with df := 3 }) = false ∧ wellFormed (.iaddShort { H with fol := 4 }) = false := by decide +kernel
/-- A pair whose halves write one register, one whose follower is no short, and one that reads a bank three times. -/
theorem test_ill_pair :
    checkPair (0x19, { H with lead := true }) (0x19, H) = some (6, false) ∧
    wellFormed (.inegShort { H with lead := true, fol := 0x00020664 }) = false ∧
    wellFormed (.inegShort { H with lead := true, fol := 0x00020666 }) = false ∧
    checkPair (0x01, ⟨true, 4, 2, 8, 2, 0⟩) (0x01, ⟨false, 1, 0, 12, 2, 0⟩) = some (6, false) ∧
    checkPair (0x01, ⟨true, 4, 2, 8, 2, 0⟩) (0x01, ⟨false, 1, 0, 9, 2, 0⟩) = none := by decide +kernel
theorem test_ill_selector : wellFormed (.queryCounters { E0 with opnd := 1 }) = false ∧
    wellFormed (.queryCounters { E0 with opnd := 2 }) = true ∧ wellFormed (.debugHalt E0) = false := by decide +kernel
theorem test_ill_units : wellFormed (.fenceWindowWrite 13 0 0 0) = false ∧ wellFormed (.fenceWindowWrite 0 16 0 0) = false ∧
    wellFormed (.fenceWindowWrite 0 0 4 0) = false ∧ wellFormed (.registerWrite 4 0) = false ∧
    wellFormed (.registerWrite 0x10000 0) = false ∧ wellFormed (.cxlMemAccess 16 0 none) = false ∧
    wellFormed (.cxlMemAccess 0 32 none) = false ∧ wellFormed (.linkFailure 12) = false ∧ wellFormed (.sample 160 0) = false ∧
    wellFormed (.sample 0 8) = false ∧ wellFormed (.starvationGuard 160 0) = false ∧ wellFormed (.starvationGuard 0 8) = false ∧
    wellFormed (.budgetLower 160) = false ∧ wellFormed (.budgetRaise 160) = false ∧ wellFormed (.contextTimeslice 160) = false ∧
    wellFormed (.contextSwitch 160) = false ∧ wellFormed (.contextRestore 160) = false ∧ wellFormed (.hailThreadBirth 160) = false ∧
    wellFormed (.dieOvertemp 5) = false ∧ wellFormed (.arithmeticClockRise 4) = false ∧ wellFormed (.placeTeam 4) = false ∧
    wellFormed (.placeSpan 4) = false ∧ wellFormed (.graphNodeFinish 4 0) = false ∧ wellFormed (.graphNodeFinish 0 4096) = false := by
  decide +kernel

/-! ### Words written out bit by bit (03 R49, R52, R59)

The fields of a word of 64 bits from bit 63 down: C, B, BK, A, AK, D; CK, MO, RS, OV, ET, FC, NEG, PM, AHEAD, OP, LEN. -/

/-- `FFMA.rz v3, v4, v5, v6` of type `.f32` under `!m2`. -/
theorem test_word_float : decodeTableWord 64 0b0000110_0000101_10_0000100_10_0000011_10_00_001_0_1000_10_1_010_0000_01000011_10 =
    some (.ffma { V with c := 6, ck := 2, rs := 1, et := 8, neg := true, pm := 2 }) := by decide +kernel
/-- `SHL s1, s2, #-1` of type `.i64`: an immediate in bits 63 to 50. -/
theorem test_word_logic : decodeTableWord 64 0b1111111_1111111_11_0000010_00_0000001_00_00_000_0_0011_00_0_000_0000_00101111_10 =
    some (.shl { U with c := 127, b := 127, bk := 3 }) := by decide +kernel
/-- `FRCP v3, v4` with AHEAD 9. -/
theorem test_word_transcendental : decodeTableWord 64 0b0000000_0000000_00_0000100_10_0000011_00_00_000_0_1000_10_0_000_1001_01000111_10 =
    some (.frcp { V with b := 0, bk := 0, et := 8, ahead := 9 }) := by decide +kernel
/-- `ASHL a3, a4, s5`. -/
theorem test_word_affine : decodeTableWord 64 0b0000000_0000101_00_0000100_01_0000011_00_00_000_0_0011_01_0_000_0000_01010011_10 =
    some (.ashl { F with d := 3, a := 4, ak := 1, b := 5, et := 3, fc := 1 }) := by decide +kernel
/-- `MAND m1, m2, m3`. -/
theorem test_word_mask : decodeTableWord 64 0b0000000_0000011_11_0000010_11_0000001_00_00_000_0_0000_10_0_000_0000_01011000_10 =
    some (.mand { F with d := 1, a := 2, ak := 3, b := 3, bk := 3, fc := 2 }) := by decide +kernel
/-- `CVT.sat v3, v4` from `.i32` to `.u8`. -/
theorem test_word_convert : decodeTableWord 64 0b0000000_0000010_11_0000100_10_0000011_00_00_000_1_0100_10_0_000_0000_01100000_10 =
    some (.cvt { V with b := 2, bk := 3, et := 4, ov := true }) := by decide +kernel
/-- `QSWAP v3, v4, #2, m1`. -/
theorem test_word_lanes : decodeTableWord 64 0b0000000_0000010_11_0000100_10_0000011_00_00_001_0_0000_10_0_000_0000_01101100_10 =
    some (.qswap { V with b := 2, bk := 3, et := 0, rs := 1 }) := by decide +kernel
/-- `BRC !c3` over 12 bytes. -/
theorem test_word_control : decodeTableWord 64 0b0000000_0000011_11_0001011_11_0000000_00_00_000_0_0000_00_0_000_0000_00000010_10 =
    some (.brc { F with a := 11, ak := 3, b := 3, bk := 3 }) := by decide +kernel
/-- `ENTER` with windows of 8 `v`, 4 `s` and 2 `a`, extended: the bases v1, s2, a3 and the literal 0x00020408. -/
theorem test_word_enter : decodeTableWord 96
    (0x00020408 * 2 ^ 64 + 0b0000011_0000010_00_0000001_10_0000000_01_00_000_0_0000_10_0_000_0000_00001000_11) =
    some (.enter { F with ext := true, lit := 0x00020408, c := 3, ck := 1, b := 2, a := 1, ak := 2, fc := 2 }) := by decide +kernel
/-- `TLOAD t1` at the address in s2. -/
theorem test_word_tile : decodeTableWord 64 0b0000000_0000000_11_0000010_00_0000001_00_00_000_0_0000_10_0_000_0000_10000010_10 =
    some (.tload { F with d := 1, a := 2, bk := 3, fc := 2 }) := by decide +kernel
/-- `TMMA z1, t2, t3`. -/
theorem test_word_matrix : decodeTableWord 64 0b0000000_0000011_11_0000010_11_0000001_00_00_000_0_0000_10_0_000_0000_10000110_10 =
    some (.tmma { F with d := 1, a := 2, ak := 3, b := 3, bk := 3, fc := 2 }) := by decide +kernel
/-- `XSECT v3, v4, v5, m2`. -/
theorem test_word_index : decodeTableWord 64 0b0000000_0000101_10_0000100_10_0000011_00_00_010_0_0000_10_0_000_0000_10010000_10 =
    some (.xsect { V with et := 0, rs := 2 }) := by decide +kernel
/-- `ST` of v6 at a4 + v5 of type `.u8`, released at device scope. -/
theorem test_word_memory : decodeTableWord 64 0b0000000_0000101_10_0000100_01_0000110_10_10_011_0_0100_10_0_000_0000_10100001_10 =
    some (.st { F with d := 6, ck := 2, a := 4, ak := 1, b := 5, bk := 2, mo := 2, rs := 3, et := 4, fc := 2 }) := by decide +kernel
/-- `BCOPY.S h1` from s2, record s3, barrier s4. -/
theorem test_word_copy : decodeTableWord 64 0b0000100_0000011_00_0000010_00_0000001_00_00_010_0_0000_00_0_000_0000_10101010_10 =
    some (.bcopyS { F with d := 1, a := 2, b := 3, c := 4, rs := 2 }) := by decide +kernel
/-- `HREAD` through s2 of s3 bytes, argument s4, barrier s1, handler 64 bytes on. -/
theorem test_word_hail : decodeTableWord 96
    (16 * 2 ^ 64 + 0b0000100_0000011_00_0000010_00_0000001_00_00_001_0_0000_00_0_000_0000_10101100_11) =
    some (.hread { F with ext := true, lit := 16, d := 1, a := 2, b := 3, c := 4, rs := 1 }) := by decide +kernel
/-- `ATOM` exchange of v6 at s2 + v5 + 8 into v3. -/
theorem test_word_atomic : decodeTableWord 96
    (0x06000008 * 2 ^ 64 + 0b0000110_0000101_10_0000010_00_0000011_10_11_011_0_0110_10_0_000_0000_11000000_11) =
    some (.atom { F with ext := true, lit := 0x06000008, d := 3, a := 2, b := 5, bk := 2, c := 6, ck := 2, mo := 3, rs := 3, et := 6,
                         fc := 2 }) := by decide +kernel
/-- `FENCE` of acquire and release at system scope, `BAR #15` and `TXARRIVE s2, #300`. -/
theorem test_word_sync :
    decodeTableWord 64 0b0000000_0000000_00_0000000_00_0000000_00_11_101_0_0000_00_0_000_0000_11000010_10 =
      some (.fence { F with mo := 3, rs := 5 }) ∧
    decodeTableWord 64 0b0000000_0001111_11_0000000_00_0000000_00_00_000_0_0000_00_0_000_0000_11000011_10 =
      some (.bar { F with b := 15, bk := 3 }) ∧
    decodeTableWord 64 0b0000010_0101100_11_0000010_00_0000000_00_00_000_0_0000_00_0_000_0000_11001000_10 =
      some (.txarrive { F with a := 2, b := 44, c := 2, bk := 3 }) := by decide +kernel
/-- `GEDGE s2, s3, c4` and `COLL s1, s2, s3, c4`. -/
theorem test_word_graph :
    decodeTableWord 64 0b0000100_0000011_00_0000010_00_0000000_11_00_000_0_0000_00_0_000_0000_11010001_10 =
      some (.gedge { F with a := 2, b := 3, c := 4, ck := 3 }) ∧
    decodeTableWord 64 0b0000100_0000011_00_0000010_00_0000001_11_00_000_0_0000_00_0_000_0000_11010100_10 =
      some (.coll { F with d := 1, a := 2, b := 3, c := 4, ck := 3 }) := by decide +kernel
/-- `TRAP #300` and `CSRW FPMODE, s2`. -/
theorem test_word_system :
    decodeTableWord 64 0b0000010_0101100_11_0000000_00_0000000_00_00_000_0_0000_00_0_000_0000_11100000_10 =
      some (.trap { F with b := 44, c := 2, bk := 3 }) ∧
    decodeTableWord 64 0b0000000_0000010_11_0000010_00_0000000_00_00_000_0_0000_00_0_000_0000_11100011_10 =
      some (.csrw { F with a := 2, b := 2, bk := 3 }) := by decide +kernel
/-- Shorts from bit 31 down: HI, BF, D, DF, OP, LEN. `IADD s3, s3, #-2`, and a pair `AMOV a1, s2` with `FADD v4, v4, v5`. -/
theorem test_word_short :
    decodeTableWord 32 0b1111111111111110_11_00011_00_00001_00 = some (.iaddShort { H with hi := 0xFFFE, bf := 3 }) ∧
    decodeTableWord 64 (0b0000000000000101_10_00100_10_01111_00 * 2 ^ 32 + 0b0000000000000010_00_00001_01_11000_01) =
      some (.amovShort ⟨true, 2, 0, 1, 1, 0b0000000000000101_10_00100_10_01111_00⟩) := by decide +kernel
/-- A reserved opcode of each map is rejected by name, and the commands' rows by their OP and selector. -/
theorem test_word_reserved :
    why (decode (toBytes 8 0b10001_10)) = some (.illegalOpcode false) ∧ why (decode (toBytes 4 (0x1D * 4))) = some (.illegalOpcode false) ∧
    why (decode [0x82, 0x00, 0x68]) = some .truncated ∧ why (decodeCommand 0x14) = some .badCommand ∧
    (decodeCommand 0x02).toOption = some (.destroyCtx E0) ∧
    (decodeCommand (0x08 + 8 * 2 ^ 64)).toOption = some (.queryContext { E0 with opnd := 8 }) := by decide +kernel

/-! ### Small states, and what an instruction leaves -/

/-- The group of `State.withProgram`, at the first instruction of its code, with registers written. -/
def P (ws : List RegWrite) : State := (State.reset.withProgram []).modThr (fun t => t.writes ws)
/-- The state that an instruction leaves, its own pending work completed. -/
def out (i : Instr) (s : State) : State := match exec i s with | .next t => t.finishAll | _ => {}
/-- The issuing thread after an instruction. -/
def thr (i : Instr) (s : State) : Thread := (out i s).thr
/-- The uniform result of an operation on two words. -/
def uni (i : Fields → Instr) (et : BitVec 4) (x y : Word) (f : Fields := U) : Word :=
  (thr (i { f with et := et }) (P [.s 2 x false, .s 3 y false])).sReg 1
/-- The uniform result of an operation on three words. -/
def uni3 (i : Fields → Instr) (et : BitVec 4) (x y z : Word) (f : Fields := { U with c := 4 }) : Word :=
  (thr (i { f with et := et }) (P [.s 2 x false, .s 3 y false, .s 4 z false])).sReg 1
/-- A uniform instruction of one source. -/
def U1 : Fields := { U with b := 0 }
/-- The result in a lane of a varying operation on `v4` and `v5`, which hold the lists given. -/
def lane (i : Fields → Instr) (x y : List LaneWord) (l : Nat) (f : Fields := V) : LaneWord :=
  let regs (n : Nat) (ws : List LaneWord) : List RegWrite := (List.range ws.length).map (fun k => .v (64 * n + k) (ws.getD k 0) false)
  (thr (i f) (P (regs 4 x ++ regs 5 y))).vReg 3 l
/-- The cause that an instruction's trap records. -/
def cause (i : Instr) (s : State) : Word := (thr i s).trap.cause


/-- The issuing thread changed. -/
def withT (s : State) (g : Thread → Thread) : State := s.modThr g
/-- The context of the group changed. -/
def withC (s : State) (g : Ctx → Ctx) : State := s.modCtx 0 g
/-- Bytes put in memory from a key on. -/
def withM (s : State) (k : Nat) (bs : List Byte) : State := { s with mem := wrCells s.mem (cellsAt k bs) }
/-- A byte of memory once what the thread has stored is performed. -/
def byteAt (i : Instr) (s : State) (k : Nat) : Byte := rdByte (out i s).release.mem k
/-- A team with handle h0 bound to entry 9: 256 bytes at shared memory 0x100, readable and writable (16 R301). -/
def handled (s : State) (w3 : Word := 7) : State :=
  withC ({ s with teams := s.teams.map (fun p => (p.1, { p.2 with binds := [9] })) }) (fun c =>
    { c with handles := [(36, 0x100), (37, 0x200), (38, 0x100), (39, w3)] })

/-! ### States and operands that meet the hypotheses of the obligations -/

/-- An instruction passes its checks of encoding and of issue. -/
def issuesB (op : Nat) (f : Fields) (s : State) : Bool :=
  (checkLong op f).isNone && (issueCheck (s.waited op f).thr (s.usesIn op f) 1 (lanesActed op f (s.waited op f).thr)
    (remotePoison op f (s.waited op f).thr) (op == 0x0F || op == 0x09 || op == 0x0A || op == 0x0B) (op == 0x08 || op == 0xAB)).isNone

/-- The hypotheses of a clause on an instruction: its checks, and a condition on the state its effect starts from. -/
def Meets (op : Nat) (f : Fields) (s : State) (G : State → Prop) : Prop := checkLong op f = none ∧ Issues op f s ∧ G (s.issued op f)

theorem issues_of {op : Nat} {f : Fields} {s : State} (h : issuesB op f s = true) : checkLong op f = none ∧ Issues op f s := by
  simp only [issuesB, Bool.and_eq_true, Option.isNone_iff_eq_none] at h
  exact ⟨h.1, (issues_iff op f s).mp h.2⟩

theorem meets {op : Nat} {f : Fields} {s : State} {G : State → Prop} (h : issuesB op f s = true) (g : G (s.issued op f)) :
    Meets op f s G := ⟨(issues_of h).1, (issues_of h).2, g⟩

/-- Each of several instructions meets its hypotheses. -/
theorem all_meet {L : List (Nat × Fields)} {s : State} {G : Nat × Fields → State → Prop} [∀ x u, Decidable (G x u)]
    (h : L.all (fun x => issuesB x.1 x.2 s && decide (G x (s.issued x.1 x.2))) = true) : ∀ x ∈ L, Meets x.1 x.2 s (G x) := by
  intro x hx
  have := List.all_eq_true.mp h x hx
  simp only [Bool.and_eq_true, decide_eq_true_eq] at this
  exact meets this.1 this.2

/-- The same, with no flag trapped whatever an instruction raises. -/
theorem lanes_meet {L : List (Nat × Fields)} {s : State}
    (h : L.all (fun x => issuesB x.1 x.2 s && (s.issued x.1 x.2).thr.fpmode == 0) = true) :
    ∀ x ∈ L, ∀ fl, Meets x.1 x.2 s (fun u => NoFlagTrap x.2 u.thr fl) := by
  intro x hx fl
  have := List.all_eq_true.mp h x hx
  simp only [Bool.and_eq_true, beq_iff_eq] at this
  refine meets this.1 (fun i hi _ => ?_)
  rw [this.2]
  exact BitVec.getLsbD_zero
theorem ok_of {α ε : Type} {r : Except ε α} {x : α} (h : r.toOption = some x) : r = .ok x := by
  cases r with
  | error e => cases h
  | ok y => cases h; rfl
/-- An instruction in each of several states. -/
theorem each_meets {α : Type} {L : List α} {op : Nat} {f : Fields} {st : α → State} {G : α → State → Prop} [∀ x u, Decidable (G x u)]
    (h : L.all (fun x => issuesB op f (st x) && decide (G x ((st x).issued op f))) = true) : ∀ x ∈ L, Meets op f (st x) (G x) := by
  intro x hx
  have := List.all_eq_true.mp h x hx
  simp only [Bool.and_eq_true, decide_eq_true_eq] at this
  exact meets this.1 this.2
theorem distinct_of {s : State} (h : (s.threads.map (·.id)).Nodup) : DistinctThreads s := h
theorem wf_of {s : State} (h : Memory.wf s.mem = true) : s.memoryWf := h

/-! ### Results worked out by hand from the rules named -/

/-- 07 R124: 64-bit addition wraps; `.i8` results extend their sign; a high half of an unsigned product; saturation. -/
theorem test_integer_arithmetic :
    uni .iadd 3 0x7FFFFFFFFFFFFFFF 1 = 0x8000000000000000 ∧ uni .iadd 0 0x7F 1 = 0xFFFFFFFFFFFFFF80 ∧
    uni .isub 4 0 1 = 0xFF ∧ uni .imul 1 0x7FFF 2 = 0xFFFFFFFFFFFFFFFE ∧ uni .imul 1 0x7FFF 2 { U with ov := true } = 0x7FFF ∧
    uni .imulh 6 0xFFFFFFFF 0xFFFFFFFF = 0xFFFFFFFE ∧ uni .imulh 2 0xFFFFFFFF 1 = 0xFFFFFFFFFFFFFFFF ∧
    uni3 .imad 2 3 0xFFFFFFFE 10 = 4 ∧ uni .imin 0 0x80 1 = 0xFFFFFFFFFFFFFF80 ∧ uni .imin 4 0x80 1 = 1 ∧
    uni .imax 4 0x80 1 = 0x80 ∧ uni .imax 0 0x80 1 = 1 ∧
    uni .iadds 0 0x7F 1 { U with ov := true } = 0x7F ∧ uni .isubs 4 0 1 { U with ov := true } = 0 ∧
    uni .iabs 0 0x80 0 U1 = 0xFFFFFFFFFFFFFF80 ∧ uni .iabs 0 0x80 0 { U1 with ov := true } = 0x7F ∧
    uni .ineg 3 1 0 U1 = 0xFFFFFFFFFFFFFFFF := by decide +kernel
/-- 07 R125: shifts by the width or more; a rotation by its amount modulo the width; bit counts. -/
theorem test_logic :
    uni .andB 4 0x1F3 0x35 = 0x31 ∧ uni .orB 0 0x80 1 = 0xFFFFFFFFFFFFFF81 ∧ uni .xorB 5 0xFFFF 0x0F0F = 0xF0F0 ∧
    uni .notB 4 0x0F 0 U1 = 0xF0 ∧ uni .shl 6 1 31 = 0x80000000 ∧ uni .shl 6 1 32 = 0 ∧ uni .shr 2 0x80000000 31 = 1 ∧
    uni .shr 6 0x80000000 32 = 0 ∧ uni .sar 2 0x80000000 31 = 0xFFFFFFFFFFFFFFFF ∧ uni .sar 0 0x80 200 = 0xFFFFFFFFFFFFFFFF ∧
    uni .rol 4 0x81 9 = 3 ∧ uni .popc 2 0xFFFFFFFF 0 U1 = 32 ∧ uni .clz 6 1 0 U1 = 31 ∧ uni .clz 6 0 0 U1 = 32 ∧
    uni .brev 4 0x13 0 U1 = 0xC8 := by decide +kernel
/-- 07 R126: a field cut at the top of the type; width 0; a signed field; an insertion. -/
theorem test_fields :
    uni .bfx 6 0xABCD1234 0x0808 = 0x12 ∧ uni .bfx 2 0x8000 0x010F = 0xFFFFFFFFFFFFFFFF ∧ uni .bfx 6 0x80000000 0xFF1F = 1 ∧
    uni .bfx 6 0xFFFFFFFF 0x0004 = 0 ∧ uni .bfx 6 0xFFFFFFFF 0x0420 = 0 ∧
    uni3 .bfi 6 0xA 0x0408 0xFFFFFFFF = 0xFFFFFAFF ∧ uni3 .bfi 6 0xA 0x0020 0x1234 = 0x1234 := by decide +kernel
/-- 07 R127, R128, R132. -/
theorem test_compare_select :
    ((thr (.icmp { U with et := 2, rs := 2 }) (P [.s 2 0xFFFFFFFF false, .s 3 0 false])).cond 1 = true ∧
     (thr (.icmp { U with et := 6, rs := 2 }) (P [.s 2 0xFFFFFFFF false, .s 3 0 false])).cond 1 = false ∧
     (thr (.icmp { V with d := 1, rs := 5 }) (P [.v 256 7 false, .v 321 1 false])).mask 1 = 0xFFFFFFFFFFFFFFFD) ∧
    (thr (.sel { U with et := 0, c := 2, ck := 3 }) (P [.c 2 true, .s 2 5 false, .s 3 6 false])).sReg 1 = 5 ∧
    (thr (.sel { V with et := 0, c := 2, ck := 3 }) (P [.m 2 (BitVec.allOnes 64) 2, .v 257 5 false, .v 320 6 false])).vReg 3 0 = 6 ∧
    uni3 .addmin 2 0x7FFFFFFF 1 5 = 0xFFFFFFFF80000000 ∧ uni3 .addmin 2 0x7FFFFFFF 1 5 { U with c := 4, ov := true } = 5 := by
  decide +kernel
/-- 06 R96, R103-R109 and 07 R129: FP32 words by hand. 1 + 2^-24 is a tie, which `.rne` sends to even and `.ru` up. -/
theorem test_float :
    uni .fadd 8 0x3F800000 0x33800000 = 0x3F800000 ∧ uni .fadd 8 0x3F800000 0x33800000 { U with rs := 2 } = 0x3F800001 ∧
    uni .fadd 9 0x3C00 0x3C00 = 0x4000 ∧ uni .fadd 10 0x3F80 0xBF80 = 0 ∧ uni .fsub 8 0x3F800000 0x3F800000 { U with rs := 3 } = 0x80000000 ∧
    uni .fmul 8 0x40400000 0xC0000000 = 0xC0C00000 ∧ uni .fmul 8 0x7F7FFFFF 0x40000000 = 0x7F800000 ∧
    uni .fmul 8 0x7F7FFFFF 0x40000000 { U with rs := 1 } = 0x7F7FFFFF ∧ uni .fmul 8 0x7F800000 0 = 0x7FC00000 ∧
    uni3 .ffma 8 0x3F800001 0x3F800001 0xBF800002 = 0x28800000 ∧
    uni .fmin 8 0x00000000 0x80000000 = 0x80000000 ∧ uni .fmax 8 0x7FC00000 0x3F800000 = 0x3F800000 ∧
    uni3 .hfma2 9 0x3C004000 0x40003C00 0x00003C00 = 0x40004200 := by decide +kernel
/-- 06 R110, R112: flags raised by a uniform result; a comparison with a NaN is unordered. -/
theorem test_float_flags :
    (thr (.fmul { U with et := 8 }) (P [.s 2 0x7F7FFFFF false, .s 3 0x40000000 false])).fpstat = 0b10100 ∧
    (thr (.fmul { U with et := 8 }) (P [.s 2 0x7F800000 false, .s 3 0 false])).fpstat = 0b00001 ∧
    (thr (.fcmp { U with et := 8, rs := 3 }) (P [.s 2 0x80000000 false, .s 3 0 false])).cond 1 = true ∧
    (thr (.fcmp { U with et := 8, rs := 5 }) (P [.s 2 0x7FC00000 false, .s 3 0 false])).cond 1 = false ∧
    (thr (.fcmp { U with et := 8, rs := 1 }) (P [.s 2 0x7FC00000 false, .s 3 0 false])).cond 1 = true := by decide +kernel
/-- 06 R107 and 07 R130: the special operands of the transcendental functions, and results that are exact. -/
theorem test_transcendental :
    uni .frcp 8 0x40000000 0 U1 = 0x3F000000 ∧ uni .frcp 8 0x80000000 0 U1 = 0xFF800000 ∧ uni .frsq 8 0x40800000 0 U1 = 0x3F000000 ∧
    uni .fexp2 8 0xC0000000 0 U1 = 0x3E800000 ∧ uni .flog2 8 0x41000000 0 U1 = 0x40400000 ∧ uni .fsin 8 0x80000000 0 U1 = 0x80000000 ∧
    uni .fcos 8 0 0 U1 = 0x3F800000 ∧ uni .ftanh 8 0x7F800000 0 U1 = 0x3F800000 := by decide +kernel
/-- 07 R131; 06 R99, R108: integers wrap or saturate, a float saturates with IV, ties go to even. -/
theorem test_convert :
    uni .cvt 4 0x1FF 0 { U1 with b := 2, bk := 3 } = 0xFF ∧ uni .cvt 0 0x1FF 0 { U1 with b := 2, bk := 3, ov := true } = 0x7F ∧
    uni .cvt 2 0x40200000 0 { U1 with b := 8, bk := 3 } = 2 ∧ uni .cvt 2 0x4F800000 0 { U1 with b := 8, bk := 3 } = 0x7FFFFFFF ∧
    uni .cvt 8 0xFFFFFFFD 0 { U1 with b := 2, bk := 3 } = 0xC0400000 ∧ uni .cvt 11 0x43E00000 0 { U1 with b := 8, bk := 3 } = 0x7E ∧
    (thr (.cvt { U1 with et := 2, b := 8, bk := 3 }) (P [.s 2 0x4F800000 false])).fpstat = 1 := by decide +kernel
/-- 07 R133; 01 R20: base and stride, and a stride that does not fit. -/
theorem test_affine :
    let s := P [.a 4 ⟨0x100, 8⟩ false, .a 5 ⟨0x10, 0xFFFFFFFF⟩ false, .s 5 3 false]
    let f : Fields := { F with d := 3, a := 4, ak := 1, b := 5, bk := 1, et := 3, fc := 1 }
    (thr (.aadd f) s).aReg 3 = ⟨0x110, 7⟩ ∧ (thr (.asub f) s).aReg 3 = ⟨0xF0, 9⟩ ∧
    (thr (.amul { f with bk := 0 }) s).aReg 3 = ⟨0x300, 24⟩ ∧ (thr (.ashl { f with bk := 0 }) s).aReg 3 = ⟨0x800, 64⟩ ∧
    (thr (.amov { f with b := 0, bk := 0 }) s).aReg 3 = ⟨0x100, 8⟩ ∧ (⟨0x10, 0xFFFFFFFF⟩ : Affine).at 3 = 0xD ∧
    cause (.ashl { f with bk := 0 }) (P [.a 4 ⟨0x100, 0x40000000⟩ false, .s 5 1 false]) = 0x16 := by decide +kernel
/-- 07 R136, R137. -/
theorem test_masks :
    let s := P [.m 1 (BitVec.allOnes 64) 0b1100, .m 2 (BitVec.allOnes 64) 0b1010]
    let f : Fields := { F with d := 3, a := 1, ak := 3, b := 2, bk := 3, fc := 2 }
    let g : Fields := { F with d := 3, a := 1, ak := 3 }
    (thr (.mand f) s).mask 3 = 0b1000 ∧ (thr (.mor f) s).mask 3 = 0b1110 ∧ (thr (.mxor f) s).mask 3 = 0b0110 ∧
    (thr (.mnot { f with b := 0, bk := 0 }) s).mask 3 = 0xFFFFFFFFFFFFFFF3 ∧ (thr (.mcount g) s).sReg 3 = 2 ∧
    (thr (.mfirst g) s).sReg 3 = 2 ∧ (thr (.many g) s).cond 3 = true ∧ (thr (.mall g) s).cond 3 = false := by decide +kernel
/-- 07 R134, R135. -/
theorem test_promotion :
    let s := P [.s 4 0x1122334455667788 false, .v 256 0x80000000 false, .v 257 5 false]
    let f : Fields := { F with d := 3, a := 4, et := 2, fc := 2, bk := 3 }
    let g : Fields := { F with d := 1, a := 4, ak := 2, et := 3 }
    (thr (.vfrom { f with b := 1 }) s).vReg 3 63 = 0x11223344 ∧ (thr (.vfrom f) s).vReg 3 0 = 0x55667788 ∧
    (thr (.sfrom g) s).sReg 1 = 0xFFFFFFFF80000000 ∧ (thr (.sfrom { g with et := 7 }) s).sReg 1 = 0x80000000 ∧
    cause (.sfromChk g) s = 0x17 ∧ (thr (.sfromChk g) (s.modThr (fun t => { t with m0 := 2 }))).sReg 1 = 5 := by decide +kernel
/-- 07 R138-R140: lanes of `v4` hold 10, 11, 12 and so on. -/
theorem test_cross_lane :
    let x := (List.range 64).map (fun l => BitVec.ofNat 32 (10 + l))
    let g : Fields := { V with et := 0 }
    let i : Fields := { g with bk := 3 }
    lane .shfl x [63, 64] 0 g = 73 ∧ lane .shfl x [63, 64] 1 g = 11 ∧ lane .shflup x [] 5 { i with b := 2 } = 13 ∧
    lane .shflup x [] 1 { i with b := 2 } = 11 ∧ lane .shfldn x [] 5 { i with b := 2 } = 17 ∧ lane .shflx x [] 5 { i with b := 3 } = 16 ∧
    lane .qswap x [] 5 { i with b := 3 } = 16 ∧ lane .qbcast x [] 7 { i with b := 2 } = 16 ∧
    lane .matchV [7, 8, 7, 8] [] 3 { V with b := 0, bk := 0, et := 2 } = 1 ∧
    lane .vscan [1, 2, 3] [] 2 { V with b := 0, bk := 3 } = 6 ∧ lane .vred [1, 2, 3] [] 9 { V with b := 0, bk := 3 } = 6 ∧
    lane .vred [1, 2, 3] [] 9 { V with b := 2, bk := 3 } = 3 := by decide +kernel
/-- 08 R159, R160. -/
theorem test_index :
    lane .xsect [7, 9] [1, 7] 0 { V with et := 0 } = 1 ∧ lane .xsect [7, 9] [1, 7] 1 { V with et := 0 } = 0xFFFFFFFF ∧
    lane .xsect ((List.replicate 16 (0 : LaneWord)) ++ [5]) ((List.replicate 18 (1 : LaneWord)) ++ [5]) 16 { V with et := 0 } = 2 ∧
    lane .nzscan [0, 4, 0, 6] [] 1 { V with b := 0, bk := 0 } = 3 ∧ lane .nzscan [0, 4, 0, 6] [] 2 { V with b := 0, bk := 0 } = 0xFFFFFFFF ∧
    lane .nzscan [0x80000000, 4] [] 0 { V with b := 0, bk := 0, et := 8 } = 1 := by decide +kernel
/-- Poison (17 R346): a poisoned source is cause 0x60 for its lanes, and no cause in a lane that is not selected. -/
theorem test_poison :
    cause (.iadd U) (P [.s 2 1 true]) = 0x60 ∧ (thr (.iadd V) (P [.v 257 1 true])).trap.mask = 2 ∧
    cause (.iadd { V with pm := 1 }) (P [.v 256 1 true, .m 1 (BitVec.allOnes 64) 2]) = 0 := by decide +kernel
/-- Lookahead (03 R57, R58): a source that a pending instruction still writes is cause 0x08, and waits are over before a window
of 0 slots closes. -/
theorem test_lookahead :
    cause (.iadd { U with a := 1 }) (match exec (.frcp { U1 with et := 8, ahead := 3 }) (P [.s 2 0x40000000 false]) with
      | .next t => t | _ => {}) = 0x08 ∧
    (thr (.iadd { U with a := 1, b := 2 }) (match exec (.frcp { U1 with et := 8 }) (P [.s 2 0x40000000 false]) with
      | .next t => t | _ => {})).sReg 1 = 0x7F000000 := by decide +kernel
/-- Shorts (03 R50, R51, R60): the destination is the first source; an immediate; a float immediate; both halves of a pair read
before either writes. -/
theorem test_shorts :
    let s := P [.s 3 5 false, .s 2 7 false, .v 192 0x40000000 false, .a 3 ⟨1, 2⟩ false, .a 2 ⟨8, 1⟩ false]
    let u (i : ShortFields → Instr) (f : ShortFields := H) : Word := (thr (i f) s).sReg 3
    let v (i : ShortFields → Instr) (hi : BitVec 16) : LaneWord := (thr (i { H with hi := hi, bf := 3, df := 2 }) s).vReg 3 0
    let a (i : ShortFields → Instr) (f : ShortFields) : Affine := (thr (i f) s).aReg 3
    (u .iaddShort = 12 ∧ u .isubShort = 0xFFFFFFFFFFFFFFFE ∧ u .imulShort = 35 ∧ u .iminShort = 5 ∧ u .imaxShort = 7 ∧
      u .andShort = 5 ∧ u .orShort = 7 ∧ u .xorShort = 2 ∧ u .shlShort = 640 ∧ u .shrShort = 0 ∧ u .sarShort = 0 ∧ u .rolShort = 640) ∧
    (u .iaddShort { H with bf := 3, hi := 0xFFFE } = 3 ∧ u .iaddsShort = 12 ∧ u .isubsShort = 0xFFFFFFFFFFFFFFFE ∧
      u .inegShort = 0xFFFFFFFFFFFFFFF9 ∧ u .notShort = 0xFFFFFFFFFFFFFFF8 ∧ u .popcShort = 3 ∧ u .clzShort = 61) ∧
    (v .faddShort 0x3F80 = 0x40400000 ∧ v .fsubShort 0x3F80 = 0x3F800000 ∧ v .fmulShort 0x4040 = 0x40C00000 ∧
      v .fminShort 0x3F80 = 0x3F800000 ∧ v .fmaxShort 0x3F80 = 0x40000000) ∧
    (a .aaddShort { H with df := 1, bf := 1 } = ⟨9, 3⟩ ∧ a .asubShort { H with df := 1, bf := 1 } = ⟨0xFFFFFFFFFFFFFFF9, 1⟩ ∧
      a .amulShort { H with df := 1 } = ⟨7, 14⟩ ∧ a .ashlShort { H with df := 1, bf := 3 } = ⟨4, 8⟩ ∧
      a .amovShort { H with df := 1, bf := 1 } = ⟨8, 1⟩) ∧
    (thr (.nopShort ⟨false, 0, 0, 0, 0, 0⟩) s).pc = 0x4000000004 ∧
    ((thr (.iaddShort ⟨true, 2, 0, 3, 0, 0x00030404⟩) s).sReg 3 = 12 ∧ (thr (.iaddShort ⟨true, 2, 0, 3, 0, 0x00030404⟩) s).sReg 2 = 12 ∧
      (thr (.iaddShort ⟨true, 2, 0, 3, 0, 0x00030404⟩) s).pc = 0x4000000008) := by decide +kernel

/-! ### Control (04), traps (17) and system instructions -/


/-- 04 R78-R80, R86, R87; 03 R63: where the program counter goes. -/
theorem test_branches :
    let j : Fields := { F with bk := 3 }
    (thr (.bra { j with c := 127, b := 126 }) (P [])).pc = 0x3FFFFFFFF8 ∧ (thr (.bra { j with ext := true, lit := 4 }) (P [])).pc = 0x4000000010 ∧
    (thr (.brc { j with b := 4, a := 11, ak := 3 }) (P [])).pc = 0x4000000010 ∧ (thr (.brc { j with b := 4, a := 3, ak := 3 }) (P [])).pc = 0x4000000008 ∧
    (thr (.brc { j with b := 4, a := 2 }) (P [.s 2 8 false])).pc = 0x4000000010 ∧
    ((thr (.loop { j with b := 4, d := 2 }) (P [.s 2 2 false])).pc = 0x4000000010 ∧ (thr (.loop { j with b := 4, d := 2 }) (P [.s 2 2 false])).sReg 2 = 1 ∧
      (thr (.loop { j with b := 4, d := 2 }) (P [.s 2 1 false])).pc = 0x4000000008) ∧
    (thr (.jtab { j with b := 5, a := 2 }) (P [.s 2 3 false])).pc = 0x4000000020 ∧ (thr (.jtab { j with b := 5, a := 2 }) (P [.s 2 0xFFFFFFFFFF false])).pc = 0x4000000030 ∧
    (thr (.uput { U with a := 0, bk := 3, b := 127, c := 127 }) (withT (P []) (fun t => { t with m0 := 1 }))).sReg 1 = 0xFFFFFFFFFFFFFFFF ∧
    (thr (.nop F) (P [])).pc = 0x4000000008 ∧ (thr (.yield F) (P [])).pc = 0x4000000008 := by decide +kernel
/-- 04 R81, R82: the return address and the windows are saved, slid and restored. -/
theorem test_calls :
    let e : Fields := { F with ext := true, lit := 0x00020408, a := 1, ak := 2, b := 2, c := 3, ck := 1, fc := 2 }
    let fr : State := withT (P []) (fun t => { t with stack := [.frame 0x4000000040 ⟨1, 2, 3, 4, 5, 6⟩] })
    (thr (.call { F with bk := 3, b := 4 }) (P [])).stack = [.frame 0x4000000008 ⟨0, 64, 0, 32, 0, 128⟩] ∧
    (thr (.call { F with bk := 3, b := 4 }) (P [])).pc = 0x4000000010 ∧
    (thr (.calli { F with a := 2 }) (P [.s 2 0x4000000100 false])).pc = 0x4000000100 ∧ cause (.calli { F with a := 2 }) (P [.s 2 2 false]) = 0x07 ∧
    (thr (.ret F) fr).pc = 0x4000000040 ∧ (thr (.ret F) fr).wins.bases = ⟨1, 2, 3, 4, 5, 6⟩ ∧ cause (.ret F) (P []) = 0x14 ∧
    (thr (.enter e) (P [])).wins.bases = ⟨2, 4, 3, 2, 1, 8⟩ ∧ cause (.enter { e with lit := 0x00020400 }) (P []) = 0x15 := by decide +kernel
/-- 04 R74, R83-R85: the class of the lowest lane, the least key, the lanes whose mask bit is 1; the end of a loop; leaving. -/
theorem test_classes :
    let s := withT (P [.v 256 9 false, .v 257 5 false, .v 258 9 false]) (fun t => { t with m0 := 7, real := 7 })
    let k : Fields := { F with d := 1, a := 4, ak := 2, bk := 3, b := 8 }
    let e : ClassEntry := ⟨.first, 7, 2, .slot 4, 0x4000000008, 0x4000000020, 1⟩
    ((thr (.classFirst k) s).m0 = 5 ∧ (thr (.classFirst k) s).sReg 1 = 9 ∧ (thr (.classFirst k) s).stack = [.cls e] ∧
      (thr (.classFirst k) s).pc = 0x4000000008) ∧
    ((thr (.classAsc k) s).m0 = 2 ∧ (thr (.classAsc k) s).sReg 1 = 5) ∧
    ((thr (.classM { k with a := 1, ak := 3 }) (withT s (fun t => t.writes [.m 1 7 2]))).m0 = 2) ∧
    ((thr (.nextc F) (withT s (fun t => { t with m0 := 5, stack := [.cls e] }))).m0 = 2) ∧
    ((thr (.nextc F) (withT s (fun t => { t with m0 := 2, stack := [.cls { e with pend := 0 }] }))).pc = 0x4000000020 ∧
      (thr (.nextc F) (withT s (fun t => { t with m0 := 2, stack := [.cls { e with pend := 0 }] }))).m0 = 7) ∧
    cause (.nextc F) s = 0x12 ∧ cause (.leave { F with bk := 3 }) s = 0x12 ∧
    (thr (.leave { F with bk := 3, pm := 1 }) (withT s (fun t => { t with stack := [.cls e] }.writes [.m 1 7 1]))).m0 = 6 ∧
    (thr (.exit { F with pm := 1 }) (withT s (fun t => { t with stack := [.cls e] }.writes [.m 1 7 1]))).stack = [.cls { e with outer := 6 }] := by
  decide +kernel
/-- `EXIT` of every lane ends the group (04 R85). -/
theorem test_exit : (thr (.exit F) (P [])).status = .retiring := by decide +kernel
/-- 17 R323-R334: a trap that TRAPVEC enables, its registers, and the return past it; one that is not enabled ends the group. -/
theorem test_traps :
    let s := withT (P []) (fun t => { t with trap := { t.trap with vec := 0x1000004000000100 } })
    let t := thr (.trap { F with bk := 3, b := 44, c := 2 }) s
    (t.trap.cause = 0x72 ∧ t.trap.tpc = 0x4000000000 ∧ t.trap.info = 0x012C0002 ∧ t.pc = 0x4000000100 ∧ t.trap.mask = BitVec.allOnes 64) ∧
    (thr (.sret { F with bk := 3, b := 1 }) { s with thr := t }).pc = 0x4000000008 ∧ (thr (.sret { F with bk := 3 }) { s with thr := t }).stack = [] ∧
    cause (.sret { F with bk := 3 }) s = 0x14 ∧
    ((thr (.trap { F with bk := 3 }) (P [])).status = .retiring ∧ (thr (.trap { F with bk := 3 }) (P [])).trap.cause = 0x72) := by decide +kernel
/-- 17 R335-R338; 06 R110, R111. -/
theorem test_system :
    let r (n : Nat) : Fields := { F with d := 1, bk := 3, b := BitVec.ofNat 7 n, c := BitVec.ofNat 7 (n / 128) }
    let w (n : Nat) : Fields := { r n with d := 0, a := 2 }
    let super := withT (P [.s 2 0x4000010000 false]) (fun t => { t with stack := [.trap { mode := .supervisor, savedM0 := 1, tpc := 0, tlen := 2, bases := {} }] })
    (thr (.csrr (r 0x001)) (withT (P []) (fun t => { t with fpstat := 9 }))).sReg 1 = 9 ∧ cause (.csrr (r 0x003)) (P []) = 0x71 ∧
    (thr (.csrw (w 0x002)) (P [.s 2 0xFFFF false])).fpmode = 0x7F ∧ cause (.csrw (w 0x004)) (P []) = 0x71 ∧
    (thr (.csrw (w 0x002)) (withT (P [.s 2 0xFFFF false]) (fun t => { t with name := { t.name with hail := true } }))).fpmode = 3 ∧
    (thr (.trapvec { F with a := 1, ak := 3, bk := 3, b := 64 }) (P [])).trap.vec = 0x0100004000000100 ∧
    cause (.mappg { F with a := 2, c := 1, ck := 3 }) (P []) = 0x70 ∧ cause (.tlbinv { F with a := 2, bk := 3 }) (P []) = 0x70 ∧
    (thr (.tlbinv { F with a := 2, bk := 3 }) super).pc = 0x4000000008 ∧
    (thr (.mappg { F with a := 2, c := 1, ck := 3 }) (withC super (fun c => { c with poolFrames := [5], leaf := [(0x400000, 1), (0x400001, 0x20)] }))).cond 1 = true ∧
    (thr (.mark { F with a := 2, bk := 3 }) (P [])).pc = 0x4000000008 := by decide +kernel

/-! ### Memory (09) and tiles (08) -/


/-- 09 R167, R175, R178: little-endian, extended by its type; alignment, aperture and size checks with TADDR. -/
theorem test_load :
    let s := withM (P [.s 2 0x40 false, .a 4 ⟨0x40, 4⟩ false]) (sharedKey 0 0 0x40) [0x80, 0x01, 0x02, 0x03, 0xFF, 0, 0, 0]
    let f : Fields := { F with d := 1, a := 2, bk := 3 }
    (thr (.ld f) s).sReg 1 = 0xFFFFFFFFFFFFFF80 ∧ (thr (.ld { f with et := 6 }) s).sReg 1 = 0x03020180 ∧
    (thr (.ld { f with et := 3 }) s).sReg 1 = 0x000000FF03020180 ∧ (thr (.ld { f with et := 3, fc := 1 }) s).aReg 1 = ⟨0xFF03020180, 0⟩ ∧
    (thr (.ld { f with et := 6, fc := 2, a := 4, ak := 1 }) s).vReg 1 1 = 0xFF ∧
    cause (.ld { f with et := 6, b := 2, bk := 0 }) (P [.s 2 0x21 false]) = 0x33 ∧ (thr (.ld { f with et := 6 }) (P [.s 2 0x41 false])).trap.addr = 0x41 ∧
    cause (.ld f) (P [.s 2 0x100000 false]) = 0x32 ∧ cause (.ld f) (P [.s 2 0x10000 false]) = 0x34 ∧ cause (.ld f) (P [.s 2 0x4000000000 false]) = 0x30 ∧
    cause (.ld f) (P [.s 2 (0x0080000000000000) false]) = 0x31 := by decide +kernel
/-- 09 R176: the highest lane wins, and a thread sees its own store before it is performed (R172). -/
theorem test_store :
    let s := P ([.s 2 0x40 false, .s 3 0xAABBCCDD false] ++ (List.range 64).map (fun l => .v (256 + l) (BitVec.ofNat 32 l) false))
    let k := sharedKey 0 0 0x40
    byteAt (.st { F with d := 3, a := 2, bk := 3, et := 6 }) s k = 0xDD ∧ byteAt (.st { F with d := 3, a := 2, bk := 3, et := 6 }) s (k + 3) = 0xAA ∧
    byteAt (.st { F with d := 3, a := 2, bk := 3, et := 4 }) s (k + 1) = 0 ∧
    byteAt (.st { F with d := 4, ck := 2, a := 2, bk := 3, et := 4, fc := 2 }) s k = 63 ∧
    (thr (.ld { F with d := 1, a := 2, bk := 3, et := 6 }) (out (.st { F with d := 3, a := 2, bk := 3, et := 6 }) s)).sReg 1 = 0xAABBCCDD := by
  decide +kernel
/-- 09 R177, R178: an access through a handle, past its length, and without its permission; PUBL flips BANK (10 R213). -/
theorem test_handle :
    let s := handled (withM (P [.s 3 0xFC false, .s 4 0xFD false]) (sharedKey 0 0 0x1FC) [1, 2, 3, 4])
    let f : Fields := { F with d := 1, ak := 3, b := 3, et := 6 }
    (thr (.ldh f) s).sReg 1 = 0x04030201 ∧ cause (.ldh { f with b := 4 }) s = 0x34 ∧ cause (.ldh { f with a := 1 }) s = 0x37 ∧
    byteAt (.sth { F with d := 4, ak := 3, b := 3, et := 6 }) s (sharedKey 0 0 0x1FC) = 0xFD ∧
    cause (.sth { F with d := 4, ak := 3, b := 3, et := 6 }) (handled (P []) 3) = 0x37 ∧
    mget 0 ((out (.publ { F with ak := 3 }) (handled (P []) 0xF)).ctx 0).handles 39 = 0x1F ∧ cause (.publ { F with ak := 3 }) s = 0x37 := by
  decide +kernel
/-- 09 R180; 16 R300: a tag stored and read back; TAGW is needed. -/
theorem test_tag :
    let s := withC (P [.s 2 0x5000004000001000 false]) (fun c => { c with word := 0x4000 })
    (thr (.ltag { F with d := 1, a := 2, bk := 3 }) (out (.stag { F with a := 2, bk := 3 }) s)).sReg 1 = 5 ∧
    cause (.stag { F with a := 2, bk := 3 }) (P [.s 2 0x5000004000001000 false]) = 0x40 := by decide +kernel
/-- 10 R203-R205: each lane sees the one before it; exchange, compare and minimum; the unit that does not exist. -/
theorem test_atomic :
    let s := withM (P [.s 2 0x40 false, .s 3 5 false, .s 1 7 false]) (sharedKey 0 0 0x40) [7, 0, 0, 0]
    let f (o : Nat) : Fields := { F with ext := true, lit := BitVec.ofNat 32 (o * 2 ^ 24), d := 1, a := 2, bk := 3, c := 3, et := 6 }
    ((thr (.atom (f 0)) s).sReg 1 = 7 ∧ byteAt (.atom (f 0)) s (sharedKey 0 0 0x40) = 12) ∧ byteAt (.atom (f 1)) s (sharedKey 0 0 0x40) = 5 ∧
    byteAt (.atom (f 6)) s (sharedKey 0 0 0x40) = 5 ∧ byteAt (.atom (f 7)) s (sharedKey 0 0 0x40) = 5 ∧
    byteAt (.atom (f 7)) (s.modThr (fun t => t.write (.s 1 8 false))) (sharedKey 0 0 0x40) = 7 ∧
    (thr (.atom { f 0 with fc := 2 }) s).vReg 1 63 = 322 ∧
    (thr (.atomh { F with ext := true, d := 1, ak := 3, b := 3, c := 3, et := 6 }) (handled (withM (P [.s 3 4 false]) (sharedKey 0 0 0x104) [9]))).sReg 1 = 9 := by
  decide +kernel
/-- 08 R147-R151, R156: a shape, rows loaded and stored, rows cleared, a column moved. -/
theorem test_tile :
    let sh : Word := 0x00800000 ||| (32 <<< 11) ||| (2 <<< 4) ||| 11
    let s := withM (withT (P [.s 2 0x40 false, .v 256 77 false]) (fun t => { t with m0 := 3, tiles := { t.tiles with shape := [(1, sh)] } }))
      (sharedKey 0 0 0x40) ((List.range 64).map (fun n => BitVec.ofNat 8 (n + 1)))
    let f : Fields := { F with d := 1, a := 2, bk := 3, fc := 2 }
    let z := out (.tzrow { F with d := 1, a := 4, ak := 2, bk := 3, b := 19, fc := 2 }) s
    (thr (.tshape { F with d := 1, b := 3 }) (P [.s 3 sh false])).shape 1 = sh ∧ cause (.tshape { F with d := 1, b := 3 }) (P []) = 0x25 ∧
    ((thr (.tload f) s).tileByte 1 1 0 = 33 ∧ (thr (.tload f) s).tileByte 1 0 31 = 32) ∧
    byteAt (.tstore { f with c := 8 }) (out (.tload f) s) (sharedKey 0 0 (0x40 + 128 + 33)) = 34 ∧
    (thr (.tzero { F with d := 1, bk := 3, fc := 2 }) (out (.tload f) s)).tileByte 1 1 0 = 0 ∧
    z.thr.accElem 1 0 3 = 77 ∧ (thr (.tzrow { F with d := 5, a := 1, ak := 3, bk := 3, b := 3, fc := 2 }) z).vReg 5 0 = 77 ∧
    (thr (.tzload { f with d := 2 }) s).accElem 2 0 1 = 0x08070605 ∧ byteAt (.tzstore { f with c := 8 }) z (sharedKey 0 0 (0x40 + 128 + 12)) = 77 := by
  decide +kernel

theorem witness_decode_of_encode :
    (wellFormed (.iadd V) = true ∧ (longOf (.iadd V)).isSome = true) ∧
    (wellFormed (.inegShort ⟨true, 2, 2, 3, 2, 0x00010864⟩) = true ∧ (shortOf (.inegShort ⟨true, 2, 2, 3, 2, 0x00010864⟩)).isSome = true) ∧
    (wellFormed (.bra { F with ext := true, bk := 3, lit := 0xFFFFFFFE }) = true) := by decide +kernel
/-- What decodes, as an equation. -/
theorem witness_encode_of_decode : decode [0x82, 0x00, 0x68, 0x00, 0x03, 0x09, 0x16, 0x00, 0xFF] = .ok (.iadd V, [0xFF]) :=
  ok_of (by decide +kernel)
theorem witness_command_round_trip :
    (commandOf (.queryDevice E0) = some (0x08, some 0, E0) ∧ wellFormed (.queryDevice E0) = true) ∧
    (commandOf (.destroyCtx E0) = some (0x02, none, E0) ∧ wellFormed (.destroyCtx E0) = true) ∧
    decodeCommand 0x02 = .ok (.destroyCtx E0) := ⟨by decide +kernel, by decide +kernel, ok_of (by decide +kernel)⟩
theorem witness_length_from_low_bits :
    (decode [0x82, 0x00, 0x68, 0x00, 0x03, 0x09, 0x16, 0x00] = .ok (.iadd V, []) ∧ (parcelOf 0x82 0 0x68 0).getLsbD 1 = true) ∧
    (decode [0x04, 0x06, 0x02, 0x00] = .ok (.iaddShort H, []) ∧ (parcelOf 0x04 0x06 0x02 0).getLsbD 1 = false) :=
  ⟨⟨ok_of (by decide +kernel), by decide +kernel⟩, ok_of (by decide +kernel), by decide +kernel⟩

theorem witness_integer_operations :
    ∀ x ∈ [(0x20, V), (0x21, { U with bk := 3 }), (0x22, { V with ov := true }), (0x23, V), (0x24, { V with c := 6, ck := 2 }), (0x25, V), (0x26, U),
        (0x27, { V with b := 0, bk := 0, et := 2 }), (0x28, { U1 with ov := true }), (0x29, { V with ov := true }), (0x2A, { U with ov := true }),
        (0x36, V), (0x37, { V with c := 6, ck := 2 }), (0x38, { V with et := 0, c := 2, ck := 3 }), (0x39, { V with rs := 5 }), (0x39, { U with d := 0 }),
        (0x3A, { V with c := 6, ck := 2, ov := true }), (0x3A, { V with c := 6, ck := 2, et := 8, rs := 1 })],
      ∀ fl, Meets x.1 x.2 (P []) (fun u => NoFlagTrap x.2 u.thr fl) := lanes_meet (by decide +kernel)
theorem witness_logic_and_shifts :
    ∀ x ∈ [(0x2B, V), (0x2C, U), (0x2D, V), (0x2E, { V with b := 0, bk := 0 }), (0x2F, { U with bk := 3, b := 64 }), (0x30, V), (0x31, V), (0x32, U),
        (0x33, U1), (0x34, { V with b := 0, bk := 0 }), (0x35, U1)],
      ∀ fl, Meets x.1 x.2 (P []) (fun u => NoFlagTrap x.2 u.thr fl) := lanes_meet (by decide +kernel)
theorem witness_float_arithmetic :
    ∀ x ∈ [(0x40, { V with et := 8 }), (0x41, { V with et := 9, rs := 5 }), (0x42, { U with et := 10 }), (0x43, { V with et := 8, c := 6, ck := 2 }),
        (0x44, { V with et := 8 }), (0x45, { U with et := 8 }), (0x46, { V with et := 8, rs := 7 }), (0x47, { V with b := 0, bk := 0, et := 8, ahead := 15 }),
        (0x48, { U1 with et := 8 }), (0x49, { U1 with et := 8 }), (0x4A, { U1 with et := 8 }), (0x4B, { U1 with et := 8 }), (0x4C, { U1 with et := 8 }),
        (0x4D, { U1 with et := 8 }), (0x4E, { V with et := 9, c := 6, ck := 2 })],
      ∀ fl, Meets x.1 x.2 (P []) (fun u => NoFlagTrap x.2 u.thr fl) := lanes_meet (by decide +kernel)
/-- Flags are trapped by FPMODE's enables alone: with all of them set, an operation that raises none still completes. -/
theorem witness_flag_trap : Meets 0x40 { U with et := 8 } (withT (P []) (fun t => { t with fpmode := 0x7C })) (fun u =>
    NoFlagTrap { U with et := 8 } u.thr (fun l => (fAdd 8 0 (u.thr.opA { U with et := 8 } l).toNat (u.thr.opB { U with et := 8 } l).toNat).2)) :=
  meets (by decide +kernel) (by unfold NoFlagTrap; decide +kernel)
/-- 1.0, 2.0 and −1.0, of FP32 and of FP16, and an E4M3 rounding toward −∞ that does not overflow. -/
theorem witness_float_rounding :
    ((decEt 8 0x3F800000).finite ∧ (decEt 8 0x40000000).finite ∧ (decEt 8 0xBF800000).finite) ∧
    ((decEt 9 0x3C00).finite ∧ (decEt 10 0x0001).finite ∧ (decEt 9 0x7BFF).finite) ∧
    (∀ m ∈ [0, 1, 2, 3], ((fmtOf 11).round m 0 ⟨true, 5, -3, false⟩).2.getLsbD 2 = false) ∧
    (∀ et ∈ [8, 9, 10, 11, 12], ((fmtOf et).round 0 0 ⟨false, 1, -200, false⟩).2.getLsbD 2 = false) :=
  ⟨⟨trivial, trivial, trivial⟩, ⟨trivial, trivial, trivial⟩, by decide +kernel, by decide +kernel⟩
theorem witness_float_min_max :
    ((decEt 8 0x7FC00000).isNan = true ∧ (decEt 8 0x3F800000).isNan = false ∧ 0x7FC00000 < 2 ^ (8 * etBytes 8)) ∧
    ((decEt 9 0x3C00).finite ∧ (decEt 9 0x4000).finite ∧ (decEt 9 0x3C00).rat < (decEt 9 0x4000).rat ∧ 0x4000 < 2 ^ (8 * etBytes 9)) :=
  ⟨by decide +kernel, trivial, trivial, by decide +kernel, by decide +kernel⟩
theorem witness_conversion :
    (∀ x ∈ [(0x60, { V with b := 2, bk := 3, et := 4, ov := true }), (0x60, { V with b := 8, bk := 3, et := 2, rs := 1 }),
        (0x60, { V with b := 8, bk := 3, et := 13 }), (0x60, { V with b := 8, bk := 3, et := 9 }),
        (0x60, { V with b := 8, bk := 3, et := 11, rs := 4, c := 6, ck := 0 }), (0x60, { U1 with b := 3, bk := 3, et := 8 })],
      ∀ fl, Meets x.1 x.2 (P []) (fun u => NoFlagTrap x.2 u.thr fl)) ∧
    (etIsInt 2 = true ∧ etIsInt 4 = true ∧ etIsInt 8 = false ∧ etIsFlt 11 = true) := ⟨lanes_meet (by decide +kernel), by decide +kernel⟩

/-- An affine row that fits its result, and one that does not. -/
def A3 : Fields := { F with d := 3, a := 4, ak := 1, b := 5, et := 3, fc := 1 }
theorem witness_affine_arithmetic :
    let fits (k : Int) : Prop := -(2 ^ 31) ≤ k ∧ k ≤ 2 ^ 31 - 1
    let s := P [.a 4 ⟨1, 0x7FFFFFFF⟩ false, .a 5 ⟨1, 1⟩ false, .a 6 ⟨0, 0xFFFFFFFF⟩ false, .s 5 2 false]
    let st (a : Thread) (n : Nat) : Int := (a.aReg n).stride.toInt
    (Meets 0x50 { A3 with bk := 1, b := 6 } s (fun u => fits (st u.thr 4 + st u.thr 6)) ∧ Meets 0x50 { A3 with bk := 1 } s (fun u => ¬ fits (st u.thr 4 + st u.thr 5))) ∧
    (Meets 0x51 { A3 with bk := 1 } s (fun u => fits (st u.thr 4 - st u.thr 5)) ∧ Meets 0x51 { A3 with bk := 1, b := 6 } s (fun u => ¬ fits (st u.thr 4 - st u.thr 6))) ∧
    (Meets 0x52 A3 (P []) (fun u => fits (st u.thr 4 * 0)) ∧ Meets 0x52 A3 s (fun u => ¬ fits (st u.thr 4 * (u.thr.sReg 5).toInt))) ∧
    (Meets 0x53 A3 (P []) (fun u => fits (st u.thr 4 * 2 ^ (u.thr.sReg 5).toNat)) ∧ Meets 0x53 A3 s (fun u => ¬ fits (st u.thr 4 * 2 ^ (u.thr.sReg 5).toNat))) ∧
    Meets 0x54 { A3 with b := 0 } s (fun u => fits (st u.thr 4)) := by
  refine ⟨⟨meets ?_ ?_, meets ?_ ?_⟩, ⟨meets ?_ ?_, meets ?_ ?_⟩, ⟨meets ?_ ?_, meets ?_ ?_⟩, ⟨meets ?_ ?_, meets ?_ ?_⟩, meets ?_ ?_⟩ <;>
    decide +kernel
theorem witness_mask_operations :
    ∀ x ∈ [(0x58, { F with d := 1, a := 0, ak := 3, b := 7, bk := 3, fc := 2 }), (0x59, { F with d := 7, a := 2, ak := 3, b := 3, bk := 3, fc := 2 }),
        (0x5A, { F with d := 1, a := 2, ak := 3, b := 3, bk := 3, fc := 2 }), (0x5B, { F with d := 1, a := 2, ak := 3, fc := 2 }),
        (0x5C, { F with d := 1, ak := 3 }), (0x5D, { F with d := 1, ak := 3 }), (0x5E, { F with d := 7, a := 7, ak := 3 }), (0x5F, { F with d := 63, ak := 3 })],
      ∀ fl, Meets x.1 x.2 (P []) (fun u => NoFlagTrap x.2 u.thr fl) := lanes_meet (by decide +kernel)
theorem witness_promotion :
    let g : Fields := { F with d := 1, a := 4, ak := 2, et := 3 }
    let inT (a : Thread) (l : Nat) : Prop := l < 64 ∧ a.m0.getLsbD l = true ∧ a.help.getLsbD l = false
    let one := withT (P []) (fun t => { t with m0 := 1 })
    Meets 0x61 { F with d := 3, a := 4, et := 2, fc := 2, bk := 3, b := 1 } (P []) (fun u => u.thr.fpmode = 0) ∧ Meets 0x62 g one (fun u => inT u.thr 0) ∧
    Meets 0x63 g (P []) (fun u => inT u.thr 0 ∧ inT u.thr 63 ∧ ∀ l, l < 64 → u.thr.vReg 4 l = 0) ∧ Meets 0x63 g (P [.v 257 5 false]) (fun u => inT u.thr 0 ∧ inT u.thr 1 ∧ u.thr.vReg 4 0 ≠ u.thr.vReg 4 1) := by
  refine ⟨meets ?_ ?_, meets ?_ ?_, meets ?_ ?_, meets ?_ ?_⟩ <;> decide +kernel
theorem witness_lanes :
    (∀ x ∈ [(0x68, { V with et := 0 }), (0x69, { V with et := 0, bk := 3, b := 2 }), (0x6A, { V with et := 0, bk := 0, rs := 1 }), (0x6B, { V with et := 0, bk := 3 }),
        (0x6C, { V with et := 0, bk := 3, b := 3, rs := 7 }), (0x6D, { V with et := 0, bk := 3, b := 0 }), (0x6E, { V with b := 0, bk := 0, et := 2, rs := 2 })],
      ∀ fl, Meets x.1 x.2 (P []) (fun u => NoFlagTrap x.2 u.thr fl)) := lanes_meet (by decide +kernel)
theorem witness_scan_and_reduce :
    (∀ x ∈ [(0x6F, { V with b := 5, bk := 3 }), (0x6F, { V with b := 0, bk := 3, et := 8, rs := 5 }), (0x70, { V with b := 3, bk := 3 }), (0x70, { U with a := 4, ak := 2, b := 0, bk := 3, et := 8 })],
      ∀ fl, Meets x.1 x.2 (P []) (fun u => NoFlagTrap x.2 u.thr fl)) := lanes_meet (by decide +kernel)
theorem witness_index_instructions :
    (∀ x ∈ [(0x90, { V with et := 0, rs := 1 }), (0x91, { V with b := 0, bk := 0 }), (0x91, { V with b := 0, bk := 0, et := 9, rs := 7 })],
      ∀ fl, Meets x.1 x.2 (P []) (fun u => NoFlagTrap x.2 u.thr fl)) := lanes_meet (by decide +kernel)

theorem witness_branches :
    ∀ x ∈ [(0x00, F), (0x01, { F with bk := 3, b := 127, c := 127 }), (0x02, { F with bk := 3, a := 15, ak := 3 }), (0x02, { F with bk := 3, a := 63 }),
        (0x03, { F with bk := 3, d := 63 }), (0x04, { F with bk := 3, a := 2, b := 127, c := 63 }), (0x0F, { U with a := 0 }), (0x10, F)],
      ∀ fl, Meets x.1 x.2 (P []) (fun u => NoFlagTrap x.2 u.thr fl) := lanes_meet (by decide +kernel)

/-- `ENTER` with windows of 8 `v`, 4 `s` and 2 `a`. -/
def En : Fields := { F with ext := true, lit := 0x00020408, a := 1, ak := 2, b := 2, c := 3, ck := 1, fc := 2 }
/-- A stack of 1,024 frames, more than a spill area of 32 KiB holds. -/
def deep (s : State) : State := withT s (fun t => { t with stack := List.replicate 1024 (.frame 0 {}) })
theorem witness_calls_and_windows :
    let framed (a : Thread) : Thread := { a with stack := .frame (a.pc + 8) a.wins.bases :: a.stack }
    let target (a : Thread) : Pc := (a.sReg 2).setWidth 55
    let j : Fields := { F with bk := 3, b := 4 }
    let sizes (a : Thread) : Prop := 8 ≤ a.wins.v.alloc ∧ 4 ≤ a.wins.s.alloc ∧ 2 ≤ a.wins.a.alloc
    let one (e : Entry) : State := withT (P []) (fun t => { t with stack := [e] })
    Meets 0x05 j (P []) (fun u => (framed u.thr).spillFits = true) ∧ Meets 0x05 j (deep (P [])) (fun u => (framed u.thr).spillFits = false) ∧
    Meets 0x06 { F with a := 2 } (P []) (fun u => (target u.thr).toNat % 4 = 0 ∧ (framed u.thr).spillFits = true) ∧
    Meets 0x06 { F with a := 2 } (P [.s 2 2 false]) (fun u => (target u.thr).toNat % 4 ≠ 0) ∧
    Meets 0x06 { F with a := 2 } (deep (P [])) (fun u => (target u.thr).toNat % 4 = 0 ∧ (framed u.thr).spillFits = false) ∧
    Meets 0x07 F (one (.frame 64 {})) (fun u => u.thr.stack = [.frame 64 {}]) ∧ Meets 0x07 F (P []) (fun u => u.thr.stack = []) ∧
    Meets 0x07 F (one (.cls ⟨.first, 7, 2, .slot 4, 8, 32, 1⟩)) (fun u => u.thr.stack = [.cls ⟨.first, 7, 2, .slot 4, 8, 32, 1⟩]) ∧
    Meets 0x08 En (P []) (fun u => sizes u.thr ∧ u.thr.wins.s.low = 0 ∧ u.thr.wins.a.low = 0 ∧ u.thr.wins.v.low = 0 ∧
      u.thr.wins.s.wb + 2 + 4 ≤ u.thr.wins.s.alloc ∧ u.thr.wins.a.wb + 3 + 2 ≤ u.thr.wins.a.alloc ∧
      u.thr.wins.v.wb + 1 + 8 ≤ u.thr.wins.v.alloc ∧ u.thr.stack.length ≤ 16) ∧
    Meets 0x08 { En with lit := 0x00020400 } (P []) (fun u => ¬ (0 < 0 ∧ sizes u.thr)) := by
  refine ⟨meets ?_ ?_, meets ?_ ?_, meets ?_ ?_, meets ?_ ?_, meets ?_ ?_, meets ?_ ?_, meets ?_ ?_, meets ?_ ?_, meets ?_ ?_, meets ?_ ?_⟩ <;> decide +kernel

/-- A class loop's `v4`, into s1, over 32 bytes. -/
def Cl : Fields := { F with d := 1, a := 4, ak := 2, bk := 3, b := 8 }
theorem witness_class_loops :
    let e (k : Key) (a : Thread) : ClassEntry := ⟨.first, a.m0, a.m0, k, a.pc + 8, a.pc + 32, a.wins.s.wb + 1⟩
    let spills (k : Key) (a : Thread) : Bool := ({ a with stack := .cls (e k a) :: a.stack } : Thread).spillFits
    let x : ClassEntry := ⟨.first, 7, 2, .slot 4, 8, 32, 9⟩
    let inLoop := withT (P []) (fun t => { t with stack := [.cls x] })
    let rows : List (Nat × Fields) := [(0x09, Cl), (0x0A, Cl), (0x09, { Cl with ak := 0 }), (0x0A, { Cl with ak := 1 }), (0x0B, { Cl with a := 1, ak := 3 })]
    (∀ y ∈ rows, Meets y.1 y.2 (P []) (fun u => u.thr.stack = [] ∧ u.thr.active ≠ 0 ∧ ∀ k ∈ [Key.slot 4, .uni 0, .mask 0], spills k u.thr = true)) ∧
    (∀ y ∈ rows, Meets y.1 y.2 inLoop (fun u => Entry.cls x ∈ u.thr.stack ∧ ¬ x.dest ≤ u.thr.wins.s.wb + 1)) ∧
    (∀ y ∈ rows, Meets y.1 y.2 (deep (P [])) (fun u => u.thr.stack = List.replicate 1024 (.frame 0 {}) ∧
      ∀ k ∈ [Key.slot 4, .uni 0, .mask 0], spills k u.thr = false)) ∧
    Meets 0x0C F inLoop (fun u => u.thr.stack = .cls x :: [] ∧ x.pend &&& ~~~ u.thr.help ≠ 0) ∧
    Meets 0x0C F (withT (P []) (fun t => { t with stack := [.cls { x with pend := 0 }] }))
      (fun u => u.thr.stack = .cls { x with pend := 0 } :: [] ∧ (0 : Word) &&& ~~~ u.thr.help = 0) ∧
    Meets 0x0C F (P []) (fun u => u.thr.stack.head? = none) ∧
    Meets 0x0C F (withT (P []) (fun t => { t with stack := [.frame 0 {}] })) (fun u => u.thr.stack.head? = some (.frame 0 {})) := by
  refine ⟨all_meet ?_, all_meet ?_, all_meet ?_, meets ?_ ?_, meets ?_ ?_, meets ?_ ?_, meets ?_ ?_⟩ <;> decide +kernel
theorem witness_leave_and_exit :
    let x : ClassEntry := ⟨.first, 7, 2, .slot 4, 8, 32, 9⟩
    let inLoop := withT (P []) (fun t => { t with stack := [.cls x] })
    let opened (a : Thread) : Nat := ((a.stack.takeWhile (fun e => match e with | .trap _ => false | _ => true)).filter
      (fun e => match e with | .cls _ => true | _ => false)).length
    (Meets 0x0E F (P []) (fun u => u.thr.m0 &&& ~~~ u.thr.sel F = 0) ∧ Meets 0x0E { F with pm := 1 } (P []) (fun u => u.thr.m0 &&& ~~~ u.thr.sel { F with pm := 1 } ≠ 0)) ∧
    Meets 0x0D { F with bk := 3 } inLoop (fun u => 0 < opened u.thr) ∧ Meets 0x0D { F with bk := 3, b := 1 } inLoop (fun u => opened u.thr ≤ 1) := by
  refine ⟨⟨meets ?_ ?_, meets ?_ ?_⟩, meets ?_ ?_, meets ?_ ?_⟩ <;> decide +kernel

theorem witness_trap_delivery :
    let u (vec : Word) (st : List Entry) : State := withT (P []) (fun t => { t with trap := { t.trap with vec := vec }, stack := st })
    let spills (m : Mode) (t : Thread) : Bool := ({ t with stack := .trap { mode := m, savedM0 := 0, tpc := 0, tlen := 0, bases := {} } :: t.stack } : Thread).spillFits
    let user : Entry := .trap { mode := .user, savedM0 := 1, tpc := 0, tlen := 2, bases := {} }
    let super : Entry := .trap { mode := .supervisor, savedM0 := 1, tpc := 0, tlen := 2, bases := {} }
    let clear (s : State) (tr : TrapInfo) : Prop := PlainTrap s tr ∧ s.thr.name.hail = false ∧ ¬ (0x78 ≤ tr.cause ∧ tr.cause ≤ 0x7B)
    (∀ x ∈ [(1, 56), (0x1F, 56), (0x20, 57), (0x2F, 57), (0x30, 58), (0x4F, 58), (0x50, 59), (0x65, 59), (0x72, 60)],
      let s := u (2 ^ x.2) []
      clear s { cause := x.1 } ∧ s.thr.supervisor = false ∧ s.thr.firstFetch = false ∧ s.thr.trap.vec.getLsbD x.2 = true ∧ s.thr.holds .user = false ∧
        spills .user s.thr = true) ∧
    (clear (u 0 []) { cause := 0x3A } ∧ (u 0 []).thr.supervisor = false ∧ spills .supervisor { (u 0 []).thr with wins := (u 0 []).thr.wins.handler } = true) ∧
    (clear (u 0 []) { cause := 0x72 } ∧ (u 0 []).thr.supervisor = false ∧ (u 0 []).thr.trap.vec.getLsbD 60 = false ∧ (u 0 []).thr.firstFetch = false) ∧
    (clear (u 0 [super]) { cause := 0x30 } ∧ (u 0 [super]).thr.supervisor = true) ∧
    (clear (u (2 ^ 58) [user]) { cause := 0x30 } ∧ (u (2 ^ 58) [user]).thr.holds .user = true ∧ (u (2 ^ 58) [user]).thr.firstFetch = false) := by
  unfold PlainTrap; decide +kernel
/-- A group in its supervisor routine. -/
def super (s : State) : State := withT s (fun t => { t with stack := [.trap { mode := .supervisor, savedM0 := 1, tpc := 0, tlen := 2, bases := {} }] })
/-- A hail thread. -/
def hailed (s : State) : State := withT s (fun t => { t with name := { t.name with hail := true } })
theorem witness_trap_and_return :
    let f (n : BitVec 7) : Fields := { F with bk := 3, b := n }
    let e : TrapEntry := { mode := .user, savedM0 := 1, tpc := 0x4000000000, tlen := 2, bases := {} }
    let s := withT (P []) (fun t => { t with trap := { t.trap with vec := 2 ^ 60 } })
    let u := (s.waited 0xE0 (f 5)).completeAll
    let one (e : Entry) : State := withT (P []) (fun t => { t with stack := [e] })
    (Meets 0xE0 (f 5) s (fun _ => u.thr.supervisor = false ∧ u.thr.routine = none ∧
        solderPick u u.thr.name.ctx true (BitVec.ofNat 64 0x72) = none ∧ u.thr.name.hail = false ∧ u.thr.firstFetch = false ∧
        u.thr.trap.vec.getLsbD 60 = true ∧ u.thr.holds .user = false ∧
        ({ u.thr with stack := .trap { mode := .user, savedM0 := 0, tpc := 0, tlen := 0, bases := {} } :: u.thr.stack } : Thread).spillFits = true)) ∧
    (Meets 0xE0 (f 0) (super (P [])) (fun w => w.thr.supervisor = true ∧ (f 0).uimm = 0) ∧
      Meets 0xE0 { f 0 with c := 1 } (super (P [])) (fun w => w.thr.supervisor = true ∧ 0x7F < ({ f 0 with c := 1 } : Fields).uimm) ∧
      Meets 0xE0 (f 127) (super (P [])) (fun w => w.thr.supervisor = true ∧ 1 ≤ (f 127).uimm ∧ (f 127).uimm ≤ 0x7F)) ∧
    (Meets 0xE1 (f 0) (one (.trap e)) (fun w => w.thr.stack = .trap e :: [] ∧ (f 0).uimm ≤ 1) ∧ Meets 0xE1 (f 1) (one (.trap e)) (fun w => w.thr.stack = .trap e :: [] ∧ (f 1).uimm ≤ 1) ∧
      Meets 0xE1 (f 2) (one (.trap e)) (fun w => w.thr.stack = .trap e :: [] ∧ 1 < (f 2).uimm)) ∧
    Meets 0xE1 (f 0) (P []) (fun w => w.thr.stack = []) ∧ Meets 0xE1 (f 0) (one (.frame 0 {})) (fun w => w.thr.stack = .frame 0 {} :: []) := by
  refine ⟨meets ?_ ?_, ⟨meets ?_ ?_, meets ?_ ?_, meets ?_ ?_⟩, ⟨meets ?_ ?_, meets ?_ ?_, meets ?_ ?_⟩, meets ?_ ?_, meets ?_ ?_⟩ <;> decide +kernel
theorem witness_control_registers :
    let r (n : Nat) : Fields := { F with d := 1, bk := 3, b := BitVec.ofNat 7 n, c := BitVec.ofNat 7 (n / 128) }
    let w (n : Nat) : Fields := { r n with d := 0, a := 2 }
    let v : Fields := { F with bk := 3, a := 31, ak := 3 }
    (∀ x ∈ [1, 2, 4, 0x10, 0x20, 0x30, 0x40, 0x41, 0x42, 0x43, 0x44, 0x45, 0x46, 0x50, 0x51, 0x52].map (fun n => (0xE2, r n)),
      Meets x.1 x.2 (P []) (fun _ => x.2.uimm ≠ 0xFFF)) ∧
    Meets 0xE2 (r 0xFFF) (P []) (fun _ => (r 0xFFF).uimm = 0xFFF) ∧
    Meets 0xE3 (w 1) (P []) (fun _ => (w 1).uimm = 1) ∧ Meets 0xE3 (w 2) (P []) (fun u => (w 2).uimm = 2 ∧ u.thr.name.hail = false) ∧
    Meets 0xE3 (w 2) (hailed (P [])) (fun u => (w 2).uimm = 2 ∧ u.thr.name.hail = true) ∧ Meets 0xE3 (w 0) (P []) (fun _ => (w 0).uimm ≠ 1 ∧ (w 0).uimm ≠ 2) ∧
    Meets 0xE4 v (P []) (fun u => u.thr.name.hail = false) ∧ Meets 0xE4 { v with a := 0 } (hailed (P [])) (fun u => u.thr.name.hail = true) := by
  refine ⟨all_meet (G := fun x _ => x.2.uimm ≠ 0xFFF) ?_, meets ?_ ?_, meets ?_ ?_, meets ?_ ?_, meets ?_ ?_, meets ?_ ?_, meets ?_ ?_, meets ?_ ?_⟩ <;>
    decide +kernel
theorem witness_supervisor_instructions :
    let m : Fields := { F with a := 2, c := 1, ck := 3 }
    let i : Fields := { F with a := 2, bk := 3 }
    let page (u : State) : Nat := ((u.thr.sReg 2).extractLsb' 0 55).toNat / 65536 * 65536
    let s := super (withC (P [.s 2 0x4000010000 false]) (fun c => { c with poolFrames := [5], leaf := [(0x400000, 1), (0x400001, 0x20)] }))
    Meets 0xE5 m (P []) (fun u => u.thr.name.hail = false ∧ u.thr.supervisor = false) ∧ Meets 0xE5 m (hailed (P [])) (fun u => u.thr.name.hail = true) ∧
    (∃ b w, Meets 0xE5 m s (fun u => u.thr.name.hail = false ∧ u.thr.supervisor = true ∧ u.mapPage u.thr.name.ctx (page u) = .ok (b, w))) ∧
    (∃ c, Meets 0xE5 m (super (P [])) (fun u => u.thr.name.hail = false ∧ u.thr.supervisor = true ∧ u.mapPage u.thr.name.ctx (page u) = .error c)) ∧
    Meets 0xE6 i (P []) (fun u => u.thr.name.hail = false ∧ u.thr.supervisor = false) ∧ Meets 0xE6 i (hailed (P [])) (fun u => u.thr.name.hail = true) ∧
    Meets 0xE6 { i with b := 1 } (super (P [])) (fun u => u.thr.name.hail = false ∧ u.thr.supervisor = true) ∧
    Meets 0xE7 i (P []) (fun u => (u.ctx u.thr.name.ctx).obs.word.getLsbD 2 = false) ∧
    Meets 0xE7 i (withC (P []) (fun c => { c with obs := { c.obs with word := 4, buf := 0x4000001000, cap := 4 } }))
      (fun u => (u.ctx u.thr.name.ctx).obs.word.getLsbD 2 = true ∧ (u.ctx u.thr.name.ctx).conf = false) := by
  refine ⟨meets ?_ ?_, meets ?_ ?_, ⟨_, _, meets ?_ ⟨?_, ?_, rfl⟩⟩, ⟨_, meets ?_ ⟨?_, ?_, rfl⟩⟩, meets ?_ ?_, meets ?_ ?_, meets ?_ ?_, meets ?_ ?_, meets ?_ ?_⟩ <;>
    decide +kernel

theorem allReach_of {u : State} {f : Fields} {k : AccKind} {n : Nat} {lanes : Bool}
    (h : (addressed lanes f u.thr).all (fun l => !countsIn u.thr l ||
      ((laneAccess u f k n l).2.toOption.isSome && (watchHits u u.thr k (laneAccess u f k n l).1 n).isEmpty)) = true) : AllReach u f k n lanes := by
  intro l hl hc
  have := List.all_eq_true.mp h l hl
  simp only [hc, Bool.not_true, Bool.false_or, Bool.and_eq_true, List.isEmpty_iff] at this
  refine ⟨?_, this.2⟩
  cases hr : (laneAccess u f k n l).2 with
  | ok key => exact ⟨key, rfl⟩
  | error c => rw [hr] at this; exact absurd this.1 (by simp [Except.toOption])
/-- A load of `s2`, and of 64 lanes 4 bytes apart from `a4` on. -/
def L0 : Fields := { F with d := 1, a := 2, bk := 3, et := 6 }
def L2 : Fields := { F with d := 1, a := 4, ak := 1, bk := 3, et := 6, fc := 2, ahead := 15 }
/-- `s2` at 0x40 and `a4` from 0x80 on, at 4 bytes a lane. -/
def addrs : List RegWrite := [.s 2 0x40 false, .a 4 ⟨0x80, 4⟩ false, .s 3 0x20 false]
theorem witness_loads :
    let s := (P addrs).roomForLoad
    let h := (handled (P addrs)).roomForLoad
    let tagged := withC (P [.s 2 0x5000004000001000 false]) (fun c => { c with word := 0x4000 })
    Meets 0xA0 L0 s (fun u => AllReach u L0 .load 4 false) ∧ Meets 0xA0 L2 s (fun u => AllReach u L2 .load 4 true) ∧
    Meets 0xA0 { L0 with et := 3, fc := 1 } s (fun u => AllReach u { L0 with et := 3, fc := 1 } .load 8 false) ∧
    Meets 0xA2 { L0 with a := 0, ak := 3 } h (fun u => AllReach u { L0 with a := 0, ak := 3 } .load 4 false) ∧
    Meets 0xA5 { L0 with et := 0 } tagged.roomForLoad (fun u => AllReach u { L0 with et := 0 } .ltag 32 false) := by
  refine ⟨meets ?_ (allReach_of ?_), meets ?_ (allReach_of ?_), meets ?_ (allReach_of ?_), meets ?_ (allReach_of ?_), meets ?_ (allReach_of ?_)⟩ <;> decide +kernel
theorem witness_stores :
    let tagged := withC (P [.s 2 0x5000004000001000 false]) (fun c => { c with word := 0x4000 })
    let f : Fields := { F with d := 3, a := 2, bk := 3, et := 6 }
    let g : Fields := { f with a := 4, ak := 1, ck := 2, d := 5, fc := 2 }
    let h : Fields := { f with a := 0, ak := 3 }
    Meets 0xA1 f (P addrs) (fun u => AllReach u f .store 4 false) ∧ Meets 0xA1 g (P addrs) (fun u => AllReach u g .store 4 true) ∧
    Meets 0xA3 h (handled (P addrs)) (fun u => AllReach u h .store 4 false) ∧ Meets 0xA4 { f with d := 0, et := 0 } tagged (fun u => AllReach u { f with d := 0, et := 0 } .stag 32 false) := by
  refine ⟨meets ?_ (allReach_of ?_), meets ?_ (allReach_of ?_), meets ?_ (allReach_of ?_), meets ?_ (allReach_of ?_)⟩ <;> decide +kernel
/-- A lane, or the one access, that fails: the first of lanes 0 to 63 whose place stands past the team's memory, and each uniform form. -/
theorem witness_access_traps :
    let bad := [RegWrite.s 2 0x41 false, .a 4 ⟨0xFFFC, 4⟩ false]
    let f : Fields := { F with d := 3, a := 2, bk := 3, et := 6 }
    let h : Fields := { f with a := 1, ak := 3 }
    let fails (u : State) (f : Fields) (k : AccKind) (n : Nat) (l : Option Nat) (c : Nat) : Prop :=
      why (laneAccess u f k n l).2 = some c
    Meets 0xA0 L2 (P bad).roomForLoad (fun u => some 1 ∈ addressed true L2 u.thr ∧ countsIn u.thr (some 1) = true ∧ fails u L2 .load 4 (some 1) 0x34 ∧
      ∀ j ∈ addressed true L2 u.thr, countsIn u.thr j = true → j.getD 0 < 1 → (laneAccess u L2 .load 4 j).2.toOption.isSome = true) ∧
    Meets 0xA0 L0 (P bad).roomForLoad (fun u => none ∈ addressed false L0 u.thr ∧ countsIn u.thr none = true ∧ fails u L0 .load 4 none 0x33) ∧
    Meets 0xA2 h (P bad).roomForLoad (fun u => none ∈ addressed false h u.thr ∧ fails u h .load 4 none 0x37) ∧
    Meets 0xA1 f (P bad) (fun u => none ∈ addressed false f u.thr ∧ fails u f .store 4 none 0x33) ∧ Meets 0xA3 h (P bad) (fun u => fails u h .store 4 none 0x37) ∧
    Meets 0xA4 { f with d := 0, et := 0 } (P bad) (fun u => fails u { f with d := 0, et := 0 } .stag 32 none 0x30) ∧
    Meets 0xA5 { L0 with et := 0 } (P bad).roomForLoad (fun u => fails u { L0 with et := 0 } .ltag 32 none 0x30) := by
  refine ⟨meets ?_ ?_, meets ?_ ?_, meets ?_ ?_, meets ?_ ?_, meets ?_ ?_, meets ?_ ?_, meets ?_ ?_⟩ <;> decide +kernel
/-- Every boundary of the apertures that the second clause of `AccessTrapsAndChecks` tells apart. -/
theorem witness_access_checks :
    let sound (p o : Word) : Prop := p.extractLsb' 55 5 = 0 ∧ (p + o).extractLsb' 55 5 = 0 ∧ (p + o).extractLsb' 60 4 = p.extractLsb' 60 4
    let at_ (p : Word) : Nat := (p.extractLsb' 0 55).toNat
    let s := { P [] with owners := [(scratchUnit 0 0, { who := 2 }), (scratchUnit 0 0x10000, { who := 3 }), (scratchUnit 0 (2 ^ 23 - 65536), { who := 2 })] }
    (¬ sound 0x0080000000000000 0 ∧ ¬ sound 0 (0x0080000000000000) ∧ ¬ sound 0x5000000000000000 0x1000000000000000) ∧
    (∀ p ∈ [0, 0xFFFFF, 0x100000, 0x7FFFFFF, 0x8000000, 0x8007FFF, 0x8008000, 0x800FFFF, 0x8010000, 0xFFFFFFF, 0x10000000, 0x23FFFFFF, 0x24000000, 0x3FFFFFFF, 0x40000000,
      0x8FFFFFFF, 0x90000000, 0x3FFFFFFFFF, 0x4000000000, 0x5000004000000000, 0x7FFFFFFFFFFFFF], sound (BitVec.ofNat 64 p) 0) ∧
    (at_ 0x41 % 4 ≠ 0 ∧ at_ 0x40 % 4 = 0) ∧
    ((s.team s.thr.name.uid).kernel.shared < at_ 0x10000 + 1 ∧ ¬ (s.team s.thr.name.uid).kernel.shared < at_ 0xFFFC + 4) ∧
    (s.thr.name.hail = false ∧ 0x8000000 + (s.ctx s.thr.name.ctx).spillSize < 0x8008000 + 4 ∧
      ¬ 0x8000000 + (withC s (fun c => { c with word := 0x1000 }) |>.ctx 0).spillSize < 0x8008000 + 4) ∧
    ((scratchOwner s 0 0x10000).who ≠ s.thr.name.ctx + 2 ∧ (scratchOwner s 0 0).who = s.thr.name.ctx + 2 ∧
      2 ^ 23 - 64 * (s.ctx 0).spillSize ≤ (2 ^ 23 - 64) % 2 ^ 23 ∧ (scratchOwner s 0 (2 ^ 23 - 64)).who = s.thr.name.ctx + 2) := by decide +kernel
theorem witness_atomics :
    let f : Fields := { F with ext := true, d := 1, a := 2, bk := 3, c := 3, et := 6 }
    let g : Fields := { f with fc := 2, lit := 0x06000000, ck := 2, mo := 3, rs := 5, ahead := 3 }
    let h : Fields := { f with a := 0, ak := 3 }
    let ok (u : State) (f : Fields) (l : Nat) : Prop :=
      why (access u u.thr .atomic (baseOf u.thr f l) ((f.lit.extractLsb' 0 24).signExtend 64) 4 4).2 = none ∧
      watchHits u u.thr .atomic (access u u.thr .atomic (baseOf u.thr f l) ((f.lit.extractLsb' 0 24).signExtend 64) 4 4).1 4 = []
    (Meets 0xC0 f (P addrs).roomForLoad (fun u => ok u f 0) ∧ Meets 0xC0 g (P addrs).roomForLoad (fun u => ∀ l, l < 64 → ok u g l) ∧
      Meets 0xC1 h (handled (P addrs)).roomForLoad (fun u => ok u h 0)) ∧
    ((P addrs).poisonMem = [] ∧ (P addrs).parked = [] ∧ (P addrs).thr.status = .ready) := by
  refine ⟨⟨meets ?_ ?_, meets ?_ ?_, meets ?_ ?_⟩, ?_⟩ <;> decide +kernel
/-- A pending load, older than what comes next. -/
def loading (s : State) : State := withT s (fun t => { t with memOrd := 1, pending := [⟨.load 9 0 6 [], 15, [], [.s 9], 0, 0, 0⟩] })
/-- A store in the queue. -/
def storing (s : State) : State := withT s (fun t => { t with memOrd := 1, queue := [⟨0, [], []⟩] })
theorem witness_fences_and_waits :
    let w (n : BitVec 7) : Fields := { F with bk := 3, b := n }
    let fe (m : BitVec 2) : Fields := { F with mo := m }
    let v : Fields := { F with a := 2, b := 3, c := 0, ck := 3, et := 2 }
    let out (u : State) : List Pend := u.thr.pending.filter Pend.loads
    let found (u : State) (b : Bool) : Prop := u.thr.name.hail = false ∧ (access u u.thr .watch (.ptr (u.thr.sReg 2)) 0 4 4).2.toOption.isSome = true ∧
      (ofBytes ((List.range 4).map (fun i => loadByte u.finishAll u.finishAll.thr u.finishAll.thr.memOrd (sharedKey 0 0 (0x40 + i)))) = (u.thr.sReg 3).toNat) = (b = true)
    let far := P [.s 2 0x40000000 false]
    Meets 0xA6 (w 1) (loading (P [])) (fun u => (out u).length ≤ 1) ∧ Meets 0xA6 (w 0) (loading (P [])) (fun u => 0 < (out u).length) ∧
    Meets 0xC2 (fe 3) (P []) (fun u => out u = [] ∧ u.thr.queue = [] ∧ u.cmds = []) ∧ Meets 0xC2 (fe 1) (storing (P [])) (fun u => out u = []) ∧
    Meets 0xC2 (fe 2) (storing (P [])) (fun u => ∃ e ∈ u.thr.queue, e.ord < u.thr.memOrd) ∧ Meets 0xC2 (fe 1) (loading (P [])) (fun u => ∃ p ∈ out u, p.ord < u.thr.memOrd) ∧
    Meets 0xC5 v (P [.s 2 0x40 false]) (fun u => found u true) ∧ Meets 0xC5 v (P [.s 2 0x40 false, .s 3 1 false]) (fun u => found u false) ∧
    Meets 0xC5 v far (fun u => u.thr.name.hail = false ∧ why (access u u.thr .watch (.ptr (u.thr.sReg 2)) 0 4 4).2 = some 0x30) := by
  refine ⟨meets ?_ ?_, meets ?_ ?_, meets ?_ ?_, meets ?_ ?_, meets ?_ ?_, meets ?_ ?_, meets ?_ ?_, meets ?_ ?_, meets ?_ ?_⟩ <;> decide +kernel

/-- Two groups of a team in a launch of span 2, of which the second stands parked. -/
def two (s : State) (st : Status) (phase : Nat) : State :=
  { s with
    parked := [{ s.thr with id := 9, status := st }], teamBars := [(teamBarKey 1 3, { phase := phase, count := if st = .ready then 0 else 1 })]
    teams := s.teams.map (fun p => (p.1, { p.2 with live := 2, kernel := { p.2.kernel with span := 2 } })) }
theorem witness_phase_barriers :
    let f : Fields := { F with bk := 3, b := 3 }
    let no (u : State) : Nat := (u.release.team 1).index / (u.release.team 1).kernel.span
    let team (u : State) (j : Nat) : PhaseBar := mget {} u.release.teamBars (teamBarKey 1 j)
    let span (u : State) (j : Nat) : PhaseBar := mget {} u.release.spanBars (spanBarKey (u.release.team 1).launch (no u) j)
    let live (u : State) : Nat := liveSpan u.release (u.release.team 1).launch (no u)
    let others (u : State) : Prop := u.thr.name.hail = false ∧ u.thr.name.uid = 1 ∧ (∀ j, j < 16 → j ≠ 3 → (team u j).count = 0) ∧ (∀ j, j < 4 → j ≠ 3 → (span u j).count = 0)
    let spanned (n : Nat) (st : Status) : State := { two (P []) st 0 with teamBars := [], spanBars := [(spanBarKey 1 0 3, { phase := 5, count := n })] }
    Meets 0xC3 f (two (P []) .ready 0) (fun u => others u ∧ (span u 3).count = 0 ∧ (team u 3).count + 1 < (u.release.team 1).live) ∧
    Meets 0xC3 f (two (P []) (.waiting (.bar 3 7)) 7) (fun u => others u ∧ (span u 3).count = 0 ∧ (u.release.team 1).live ≤ (team u 3).count + 1) ∧
    Meets 0xC4 f (spanned 0 .ready) (fun u => others u ∧ (team u 3).count = 0 ∧ 1 < (u.team 1).kernel.span ∧ (span u 3).count + 1 < live u) ∧
    Meets 0xC4 f (spanned 1 (.waiting (.sbar 3 5))) (fun u => others u ∧ (team u 3).count = 0 ∧ 1 < (u.team 1).kernel.span ∧ live u ≤ (span u 3).count + 1) ∧
    Meets 0xC4 f (P []) (fun u => u.thr.name.hail = false ∧ (u.team 1).kernel.span ≤ 1) := by
  refine ⟨meets ?_ ?_, meets ?_ ?_, meets ?_ ?_, meets ?_ ?_, meets ?_ ?_⟩ <;> decide +kernel

/-- A barrier of core 0 that the group's team holds: number 3 of the pool, generation 1, and its reference. -/
def barred (s : State) (pend : Nat) (refs : Nat := 1) : State :=
  { s with cores := [(0, { serves := some 0, bars := [(3, { gen := 1, owner := 1, pend := pend, refs := refs, held := true })] })] }
def ref3 : Word := 0x100000003
theorem witness_transaction_barriers :
    let al : Fields := { F with d := 1, c := 2, ck := 3 }
    let full := { P [] with cores := [(0, { serves := some 0, bars := (List.range 256).map (fun i => (i, { refs := 1 })) })] }
    let b (u : State) : TxBar := u.bar u.thr.place.core 3
    let r (u : State) : Word := u.thr.sReg 2
    let valid (u : State) : Prop := (r u).extractLsb' 8 8 = 0 ∧ (r u).extractLsb' 24 8 = 0 ∧ (r u).extractLsb' 0 8 = 3 ∧ ((r u).extractLsb' 16 8).toNat = u.thr.place.core ∧
      ((r u).extractLsb' 32 32).toNat = (b u).gen ∧ (b u).refs ≠ 0 ∧ (b u).owner = u.thr.name.uid ∧ (b u).held = true
    let ok (u : State) : Prop := u.thr.status = .ready ∧ valid u ∧ u.parked = []
    let f : Fields := { F with a := 2 }
    let n (k : BitVec 7) : Fields := { f with bk := 3, b := k }
    let q (pend : Nat) : State := barred (P [.s 2 ref3 false, .s 3 0 false, .s 4 0x1000000 false]) pend
    let stale : State := barred (P [.s 2 0x200000003 false]) 4
    (Meets 0xC6 al (P []) (fun u => (u.bar u.thr.place.core 0).refs = 0) ∧ Meets 0xC6 al full (fun u => ∀ j, j < 256 → (u.bar u.thr.place.core j).refs ≠ 0)) ∧
    (Meets 0xC7 (n 1) (q 16777214) (fun u => ok u ∧ (b u).pend + 1 ≤ 16777215) ∧ Meets 0xC7 (n 1) (q 16777215) (fun u => valid u ∧ 16777215 < (b u).pend + 1)) ∧
    (Meets 0xC8 (n 3) (q 4) (fun u => ok u ∧ 3 < (b u).pend) ∧ Meets 0xC8 (n 4) (q 4) (fun u => ok u ∧ 4 = (b u).pend) ∧ Meets 0xC8 (n 5) (q 4) (fun u => valid u ∧ (b u).pend < 5)) ∧
    (Meets 0xC9 f (q 0) (fun u => u.thr.name.hail = false ∧ valid u ∧ (b u).pend = 0) ∧ Meets 0xC9 f (q 1) (fun u => u.thr.name.hail = false ∧ valid u ∧ (b u).pend ≠ 0)) ∧
    Meets 0xCA f (q 0) ok ∧
    (∀ x ∈ [(0xC7, { f with b := 3 }), (0xC8, { f with b := 4 })], Meets x.1 x.2 (q 4) (fun u => ¬ (1 ≤ (u.thr.sReg x.2.b.toNat).toNat ∧ (u.thr.sReg x.2.b.toNat).toNat ≤ 16777215))) ∧
    (∀ x ∈ [(0xC7, n 1), (0xC8, n 1), (0xC9, f), (0xCA, f)], Meets x.1 x.2 stale (fun u => u.thr.name.hail = false ∧ ¬ valid u)) := by
  refine ⟨⟨meets ?_ ?_, meets ?_ ?_⟩, ⟨meets ?_ ?_, meets ?_ ?_⟩, ⟨meets ?_ ?_, meets ?_ ?_, meets ?_ ?_⟩, ⟨meets ?_ ?_, meets ?_ ?_⟩, meets ?_ ?_, all_meet ?_, all_meet ?_⟩ <;>
    decide +kernel
theorem witness_publishing :
    let f : Fields := { F with ak := 3 }
    let word (u : State) (w : Nat) : Word := mget 0 (u.ctx 0).handles (36 + w)
    let pair (u : State) : Prop := u.thr.name.ctx = 0 ∧ (u.team u.thr.name.uid).ctx = 0 ∧ u.hasCtx 0 = true ∧ (u.team u.thr.name.uid).binds[0]? = some 9 ∧
      (word u 3).getLsbD 0 = true ∧ (word u 3).getLsbD 2 = true ∧ (word u 3).getLsbD 3 = true
    Meets 0xCB f (handled (P []) 0xF) (fun u => pair u ∧ u.thr.queue = [] ∧ u.thr.pending = [] ∧ u.cmds = []) ∧
    Meets 0xCB f (storing (handled (P []) 0xF)) (fun u => pair u ∧ ∃ x ∈ u.thr.queue, x.ord < u.thr.memOrd) ∧
    Meets 0xCB f (handled (P []) 0x7) (fun u => (u.team u.thr.name.uid).ctx = u.thr.name.ctx ∧ (word u 3).getLsbD 3 = false) ∧
    Meets 0xCB { f with a := 1 } (handled (P []) 0xF) (fun u => (u.team u.thr.name.uid).ctx = u.thr.name.ctx ∧ (u.team u.thr.name.uid).binds[1]? = none) := by
  refine ⟨meets ?_ ?_, meets ?_ ?_, meets ?_ ?_, meets ?_ ?_⟩ <;> decide +kernel

/-- The checks of a barrier reference as one condition. -/
theorem barrier_checks {u : State} {bar addr : Word}
    (h : (bar = 0 ∨ (bar.extractLsb' 8 8 = 0 ∧ bar.extractLsb' 24 8 = 0 ∧ (bar.extractLsb' 16 8).toNat = u.thr.place.core ∧
      let b := u.bar u.thr.place.core (bar.extractLsb' 0 8).toNat
      (bar.extractLsb' 32 32).toNat = b.gen ∧ b.refs ≠ 0 ∧ b.owner = u.thr.name.uid ∧ b.held = true)) ∧
      (bar = 0 ∨ (u.bar u.thr.place.core (bar.extractLsb' 0 8).toNat).pend ≠ 16777215)) : ∀ c ∈ barrierChecks u bar addr, c.1 :=
  List.forall_mem_cons.mpr ⟨h.1, List.forall_mem_cons.mpr ⟨h.2, fun _ x => nomatch x⟩⟩
/-- The checks of a copy as one condition. -/
theorem copy_checks {u : State} {dst src : Word} {w : List Word} {bar : Word} {entry : Option Nat}
    (h : let d := copySpan w (layDS w) dst
      let r := copySpan w (laySS w) src
      d.layoutOk = true ∧ r.layoutOk = true ∧ layoutValid w dst src = true ∧ d.aperture = none ∧ r.aperture = none ∧
      entry.all (fun e => decide (d.hi - ((dst.extractLsb' 0 55).toNat : Int) ≤ handleLength u u.thr.name.ctx e)) = true ∧ d.owned u u.thr = none ∧
      r.owned u u.thr = none ∧ (laySwz w = 0 ∨ (dst.extractLsb' 0 55).toNat < 0x100000 ∨ (src.extractLsb' 0 55).toNat < 0x100000) ∧
      copyTags u (u.team u.thr.name.uid) w (layDS w) dst true = false ∧ copyTags u (u.team u.thr.name.uid) w (laySS w) src false = false)
    (b : ∀ c ∈ barrierChecks u bar 0, c.1) : ∀ c ∈ copyChecks u dst src w bar entry, c.1 := by
  obtain ⟨h1, h2, h3, h4, h5, h6, h7, h8, h9, h10, h11⟩ := h
  have e : ∀ e, entry = some e → (copySpan w (layDS w) dst).hi - ((dst.extractLsb' 0 55).toNat : Int) ≤ handleLength u u.thr.name.ctx e := by
    rintro e rfl
    simpa using h6
  intro c hc
  simp only [copyChecks, List.mem_append, List.mem_cons, List.not_mem_nil, or_false] at hc
  rcases hc with (rfl | rfl | rfl | rfl | rfl | rfl | rfl | rfl | rfl | rfl) | hc
  · exact h1
  · exact h2
  · exact h3
  · exact h4
  · exact h5
  · exact e
  · exact h7
  · exact h8
  · exact h9
  · exact ⟨h10, h11⟩
  · exact b c hc

/-- A context whose layouts stand in registers (09 R184), and one row of 16 words of 4 bytes from VA 0x40_0000_1000 to shared memory
0x100, with barrier 3. -/
def copying (s : State) : State :=
  withC (barred (s.modThr (fun t => t.writes [.s 1 0x100 false, .s 2 0x4000001000 false, .s 4 ref3 false, .s 8 2 false, .s 9 0x0001000100010010 false]))
    0) (fun c => { c with word := 0x2000 })
/-- The same layout sealed in a record at shared memory 0x200 (09 R184), in a context of that form. -/
def sealed (s : State) : State :=
  let body := toBytes 8 2 ++ toBytes 8 0x0001000100010010 ++ List.replicate 48 0
  withC (withM ((copying s).modThr (fun t => t.writes [.s 3 0x200 false])) (sharedKey 0 0 0x200) (toBytes 4 1 ++ toBytes 4 (crc32c body) ++ body))
    (fun c => { c with word := 0 })
theorem witness_copy_and_block_store_issue :
    let w : List Word := [2, 0x0001000100010010, 0, 0, 0, 0, 0, 0]
    let r : Fields := { F with d := 1, a := 2, b := 8, c := 4, rs := 2 }
    let e : Fields := { F with d := 3, a := 2, b := 10, bk := 2, c := 4, et := 6, fc := 2 }
    let st := copying (P [.s 2 0x4000001000 false])
    let ok (s : State) (w : List Word) (dst src bar : Word) (h : Option Nat) : Prop := ∀ c ∈ copyChecks s dst src w bar h, c.1
    (Meets 0xA9 r (copying (P [])) (fun u => u.thr.name.hail = false ∧ (u.ctx u.thr.name.ctx).regLayout = true ∧
      (List.range 8).map (fun i => u.thr.sReg (8 + i)) = w ∧ ok u w (u.thr.sReg 1) (u.thr.sReg 2) (u.thr.sReg 4) none)) ∧
    (Meets 0xA8 { r with b := 3 } (sealed (P [])) (fun u => u.thr.name.hail = false ∧ (u.ctx u.thr.name.ctx).regLayout = false ∧
      readRecord u (u.thr.sReg 3) = .ok w ∧ ok u w (u.thr.sReg 1) (u.thr.sReg 2) (u.thr.sReg 4) none)) ∧
    (Meets 0xAA { r with d := 0 } (copying (handled (P []) 0xF)) (fun u => u.thr.name.hail = false ∧ (u.team u.thr.name.uid).binds[0]? = some 9 ∧
      (handleWord u 0 9 3).getLsbD 0 = true ∧ (handleWord u 0 9 3).getLsbD 3 = true ∧ (handleWord u 0 9 3).getLsbD 2 = true ∧
      ok u w 0x200 (u.thr.sReg 2) (u.thr.sReg 4) (some 9))) ∧
    (Meets 0xAB { e with d := 2, a := 1 } st (fun u => u.thr.name.hail = false ∧ (cmdBase u u.thr { e with d := 2, a := 1 } 0 512 2).2 = (none, none) ∧
      ({ p := 0x100, lo := 0x100, hi := 0x300 } : Span).aperture = none ∧ (({ p := 0x100, lo := 0x100, hi := 0x300 } : Span).owned u u.thr) = none ∧
      ∀ c ∈ barrierChecks u (u.thr.sReg 4) 0x100, c.1)) := by
  refine ⟨meets ?_ ⟨?_, ?_, ?_, ?_⟩, meets ?_ ⟨?_, ?_, ok_of ?_, ?_⟩, meets ?_ ⟨?_, ?_, ?_, ?_, ?_, ?_⟩, meets ?_ ⟨?_, ?_, ?_, ?_, ?_⟩⟩
  all_goals first
    | decide +kernel
    | exact copy_checks (by decide +kernel) (barrier_checks (by decide +kernel))
    | exact barrier_checks (by decide +kernel)
/-- Each copy's traps at their first, a middle and their last check: the causes recorded. -/
theorem test_copy_checks :
    let r : Fields := { F with d := 1, a := 2, b := 8, c := 4, rs := 2 }
    let s (ws : List RegWrite) : State := (copying (P [])).modThr (fun t => t.writes ws)
    cause (.bcopyR r) (withC (s []) (fun c => { c with word := 0 })) = 0x53 ∧ cause (.bcopyR r) (s [.s 1 0x0080000000000000 false]) = 0x31 ∧
    cause (.bcopyR r) (s [.s 8 0x22 false]) = 0x52 ∧ cause (.bcopyR r) (s [.s 2 0x100000 false]) = 0x32 ∧ cause (.bcopyR r) (s [.s 1 0x8000000 false]) = 0x30 ∧
    cause (.bcopyR r) (s [.s 1 0xFFF0 false]) = 0x34 ∧ cause (.bcopyR r) (s [.s 1 0x10000000 false]) = 0x3C ∧ cause (.bcopyR r) (s [.s 8 6 false]) = 0x28 ∧
    cause (.bcopyR r) (s [.s 4 5 false]) = 0x59 ∧ cause (.bcopyR r) (barred (s []) 16777215) = 0x5A ∧
    cause (.bcopyS r) (copying (handled (P []) 7)) = 0x37 ∧ cause (.bcopy { r with b := 3 }) (withM (sealed (P [])) (sharedKey 0 0 0x210) [9]) = 0x51 ∧
    ((out (.bcopyR r) (s [])).cmd 2).seq = 0 ∧ ((out (.bcopyR r) (s [])).bar 0 3).pend = 1 ∧ ((out (.bcopyR r) (s [])).bar 0 3).refs = 2 := by decide +kernel
/-- 09 R184: the check value of CRC-32C for the digits 1 to 9. -/
theorem test_crc : crc32c [0x31, 0x32, 0x33, 0x34, 0x35, 0x36, 0x37, 0x38, 0x39] = 0xE3069283 := by decide +kernel

/-- An image with a handler 64 bytes behind the group's kernel, and a read of 600 bytes at VA 0x40_0000_1000. -/
def reading (s : State) : State :=
  withC (barred (s.modThr (fun t => t.writes [.s 1 ref3 false, .s 2 0x4000001000 false, .s 3 600 false, .s 4 77 false])) 0)
    (fun c => { c with images := [{ number := 1, base := 0x4000000000, frames := [0], kernels := [probeKernel, { kind := 1, entry := 64, codeBytes := 64 }] }] })
def Hr : Fields := { F with ext := true, lit := 16, d := 1, a := 2, b := 3, c := 4, rs := 1 }
theorem witness_hail_reads :
    let v : Fields := { Hr with b := 5, bk := 2, c := 2, fc := 2 }
    let span (p : Word) (n : Nat) : Span := { p := p, lo := (p.extractLsb' 0 55).toNat, hi := (p.extractLsb' 0 55).toNat + n }
    let ok (u : State) (f : Fields) (p : Word) (n : Nat) : Prop := u.thr.name.hail = false ∧
      (handlerAt (u.ctx 0) u.thr.pc.toNat (u.thr.pc + 64).toNat).isSome = true ∧ cmdLayout u.thr f (span p n) = none ∧ (span p n).hailAperture = none ∧ n % 4 = 0
    (Meets 0xAC Hr (reading (P [])) (fun u => ok u Hr 0x4000001000 600 ∧ ∀ c ∈ barrierChecks u (u.thr.sReg 1) 0x4000001000, c.1)) ∧
    (Meets 0xAD v (reading (P [.s 3 64 false])) (fun u => ok u v 0x4000001000 64 ∧ (u.thr.sReg 3).toNat = 600 ∧
      ∀ c ∈ barrierChecks u (u.thr.sReg 1) 0, c.1)) ∧
    Meets 0xAE F (hailed (P [])) (fun u => u.thr.name.hail = true ∧ u.finishAll.parked = []) ∧
    Meets 0xAE F (hailed (withT { P [] with cmds := [(0, { id := 0, running := 1 })] } (fun t => { t with fpstat := 3 })))
      (fun u => u.hasCmd u.finishAll.thr.name.cmd = true ∧ u.finishAll.parked = []) := by
  refine ⟨meets ?_ ⟨?_, ?_⟩, meets ?_ ⟨?_, ?_, ?_⟩, meets ?_ ?_, meets ?_ ?_⟩
  all_goals first
    | decide +kernel
    | exact barrier_checks (by decide +kernel)
/-- What a hail thread may not execute (09 R193), with its operands well formed, and its 513th instruction. -/
theorem witness_hail_restrictions :
    let j : Fields := { F with bk := 3 }
    let c3 : Fields := { F with a := 2, b := 3, c := 4 }
    (∀ x ∈ [(0xC3, j), (0xC4, j), (0xC5, { F with a := 2, b := 3, ck := 3, et := 2 }), (0xC9, { F with a := 2 }), (0xAC, Hr), (0xAD, { Hr with b := 5, bk := 2, fc := 2 }), (0xA8, c3), (0xA9, c3), (0xAA, c3),
        (0xAB, { F with d := 1, a := 2, b := 5, bk := 2, c := 4, et := 6, fc := 2 }), (0xD4, { c3 with ck := 3 }), (0xD0, { F with a := 2, c := 4, ck := 3 }), (0xD1, { c3 with ck := 3 }),
        (0xD2, { F with a := 2 }), (0xE5, { F with a := 2, c := 1, ck := 3 }), (0xE6, { j with a := 2 })], Meets x.1 x.2 (hailed (P [])) (fun u => u.thr.name.hail = true)) ∧
    Meets 0xAE F (P []) (fun u => u.thr.name.hail = false) ∧
    (longOf (.iadd U) = some (0x20, U) ∧ ((hailed (withT (P []) (fun t => { t with hailCount := 512 }))).waited 0x20 U).thr.name.hail = true ∧
      512 < ((hailed (withT (P []) (fun t => { t with hailCount := 512 }))).waited 0x20 U).thr.hailCount + 1) := by
  refine ⟨all_meet ?_, meets ?_ ?_, ?_⟩ <;> decide +kernel
theorem test_hail :
    ((out (.hread Hr) (reading (P []))).cmd 2).work =
      .hread [(0x4000001000, 256, 0, 0), (0x4000001100, 256, 1, 0), (0x4000001200, 88, 2, 0)] 77 0x4000000040 ∧
    cause (.hread Hr) (reading (P [])|>.modThr (fun t => t.writes [.s 3 601 false])) = 0x52 ∧ cause (.hread { Hr with lit := 17 }) (reading (P [])) = 0x58 ∧
    (match ((out (.hreadV { Hr with b := 5, bk := 2, c := 2, fc := 2 }) (reading (P [.v 321 0x400 false]))).cmd 2).work with
      | .hread bs _ _ => bs.length == 64 * 3 && bs.getD 3 (0, 0, 0, 0) == (0x4000001400, 256, 0, 1) | _ => false) = true ∧
    (thr (.hret F) (hailed (P []))).status = .absent ∧ cause (.hret F) (P []) = 0x56 := by decide +kernel
theorem test_block_store :
    let e : Fields := { F with d := 2, a := 1, b := 10, bk := 2, c := 4, et := 4, fc := 2, pm := 1 }
    (match ((out (.bstore e) (copying (P [.v 641 5 false, .v 705 0xABCD false, .m 1 (BitVec.allOnes 64) 2]))).cmd 2).work with
      | .bstore p bs _ => p == 0x100 && bs == [(1, 5), (65, 0xCD)] | _ => false) = true := by decide +kernel

/-- A descriptor of an event node with barrier 3 at shared memory 0x300, and one of a copy at 0x400. -/
def graphed (s : State) : State :=
  let copy := [1, 2] ++ List.replicate 6 (0 : Byte) ++ toBytes 8 0x100 ++ toBytes 8 0x4000001000 ++ List.replicate 40 0 ++ toBytes 8 2 ++ toBytes 8 0x0001000100010010 ++ List.replicate 48 0
  withM (withM (barred (s.modThr (fun t => t.writes [.s 2 0x300 false, .s 3 0x400 false])) 0) (sharedKey 0 0 0x300) (List.replicate 0x18 0 ++ toBytes 8 ref3.toNat ++ List.replicate 96 0))
    (sharedKey 0 0 0x400) copy
/-- Nodes 0 to 2 of die 0: an event with a copy after it, and references to them of their generations. -/
def edged (s : State) (kind : Nat) (x y : Node) : State :=
  { s.modThr (fun t => t.writes [.s 2 0x100000000 false, .s 3 0x200000001 false]) with
    nodes := [(0, { x with gen := 1, kind := some kind }), (1, { y with gen := 2, kind := some 0 })] }
/-- Every node of die 0 is allocated. -/
def filled (s : State) : State := { s with nodes := (List.range 4096).map (fun n => (n, { kind := some 0 })) }
theorem mget_range {α : Type} (d x : α) (n k : Nat) (h : k < n) : mget d ((List.range n).map (fun m => (m, x))) k = x := by
  have : ∀ l : List Nat, k ∈ l → mget d (l.map (fun m => (m, x))) k = x := by
    intro l hl
    induction l with
    | nil => cases hl
    | cons a l ih =>
      rw [List.map_cons, mget_cons]
      split
      · rfl
      · exact ih ((List.mem_cons.mp hl).resolve_left (fun e => by subst e; contradiction))
  exact this _ (List.mem_range.mpr h)
theorem kind_of_nodes {u s : State} (h : u.nodes = (filled s).nodes) (m : Nat) (hm : m < 4096) : (u.node m).kind ≠ none := by
  unfold State.node
  rw [h, filled, mget_range _ _ _ _ hm]
  simp
set_option maxRecDepth 100000 in
theorem nodes_kept : ((filled (graphed (P []))).issued 0xD0 { F with d := 1, a := 2, c := 4, ck := 3 }).finishAll.nodes = (filled {}).nodes := by
  decide +kernel
theorem witness_graph_unit :
    let g : Fields := { F with d := 1, a := 2, c := 4, ck := 3 }
    let bs (o : Nat) : List Byte := rdBytes (graphed (P [])).mem (sharedKey 0 0 o) 128
    let read (u : State) (o : Nat) : Prop := u.thr.name.hail = false ∧ (slotRead u.finishAll (u.finishAll.thr.sReg (if o = 0x300 then 2 else 3)) 8 16).toOption = some (bs o) ∧
      (slotRead u.finishAll (BitVec.ofNat 64 (ofBytes (((bs o).drop 0x28).take 8))) 2 0).toOption = some [] ∧ nodeShape (bs o) = true
    (Meets 0xD0 g (graphed (P [])) (fun u => read u 0x300 ∧ (∀ c ∈ barrierChecks u.finishAll ref3 0, c.1) ∧ (u.finishAll.node 0).kind = none)) ∧
    (Meets 0xD0 { g with a := 3 } (graphed (P [])) (fun u => read u 0x400 ∧ nodeCopyOk u.finishAll u.finishAll.thr false (bs 0x400) = true ∧ (u.finishAll.node 0).kind = none)) ∧
    Meets 0xD0 g (filled (graphed (P []))) (fun u => read u 0x300 ∧ (∀ c ∈ barrierChecks u.finishAll ref3 0, c.1) ∧ ∀ m, m < 4096 → (u.finishAll.node m).kind ≠ none) ∧
    (Meets 0xD0 g (withM (graphed (P [])) (sharedKey 0 0 0x300) [3]) (fun u => nodeShape (3 :: (bs 0x300).drop 1) = false ∧
      (slotRead u.finishAll (u.finishAll.thr.sReg 2) 8 16).toOption = some (3 :: (bs 0x300).drop 1))) := by
  refine ⟨meets ?_ ⟨?_, ?_, ?_⟩, meets ?_ ?_, meets ?_ ⟨?_, ?_, kind_of_nodes (s := {}) nodes_kept⟩, meets ?_ ?_⟩
  all_goals first
    | decide +kernel
    | exact barrier_checks (by decide +kernel)
theorem witness_graph_edges :
    let e : Fields := { F with a := 2, b := 3, c := 4, ck := 3 }
    let ra (u : State) : Word := u.thr.sReg 2
    let rb (u : State) : Word := u.thr.sReg 3
    let die (r : Word) : Nat := (r.extractLsb' 12 3).toNat
    let key (r : Word) : Nat := die r * 4096 + (r.extractLsb' 0 12).toNat
    let sound (r : Word) : Prop := r.extractLsb' 15 17 = 0 ∧ die r ≤ 3
    let live (u : State) (r : Word) : Prop := (u.node (key r)).kind ≠ none ∧ (u.node (key r)).gen = (r.extractLsb' 32 32).toNat ∧ (u.node (key r)).ctx = u.thr.name.ctx
    let good (u : State) : Prop := u.thr.name.hail = false ∧ sound (ra u) ∧ sound (rb u) ∧ live u (rb u) ∧ die (ra u) = die (rb u) ∧ (u.node (key (rb u))).armed = false ∧ ra u ≠ rb u
    let armable (u : State) : Prop := u.thr.name.hail = false ∧ sound (ra u) ∧ live u (ra u) ∧ (u.node (key (ra u))).armed = false
    let g : Fields := { F with a := 2 }
    Meets 0xD1 e (edged (P []) 0 {} {}) (fun u => good u ∧ live u (ra u) ∧ (u.node (key (ra u))).succ.length < 16) ∧
    Meets 0xD1 e (edged (P []) 0 { succ := List.range 16 } {}) (fun u => good u ∧ live u (ra u) ∧ 16 ≤ (u.node (key (ra u))).succ.length) ∧
    Meets 0xD1 e ((edged (P []) 0 {} {}).modThr (fun t => t.write (.s 2 0x900000000 false))) (fun u => good u ∧ ¬ live u (ra u)) ∧
    Meets 0xD1 e (edged (P []) 0 {} { armed := true }) (fun u => u.thr.name.hail = false ∧ ¬ good u) ∧
    Meets 0xD2 g (edged (P []) 0 { armed := true } {}) (fun u => u.thr.name.hail = false ∧ ¬ armable u) ∧
    Meets 0xD2 g (edged (P []) 0 { cnt := 1 } {}) (fun u => armable u ∧ (u.node (key (ra u))).cnt ≠ 0) ∧
    Meets 0xD2 g (edged (P []) 1 {} {}) (fun u => armable u ∧ (u.node (key (ra u))).cnt = 0 ∧ (u.node (key (ra u))).kind = some 1) ∧
    Meets 0xD2 g (edged (P []) 0 {} {}) (fun u => armable u ∧ (u.node (key (ra u))).cnt = 0 ∧ (u.node (key (ra u))).kind = some 0 ∧
      (u.node (key (ra u))).cmd.bar = 0 ∧ (u.node (key (ra u))).succ = [] ∧ u.parked = [] ∧ u.thr.status = .ready) := by
  refine ⟨meets ?_ ?_, meets ?_ ?_, meets ?_ ?_, meets ?_ ?_, meets ?_ ?_, meets ?_ ?_, meets ?_ ?_, meets ?_ ?_⟩ <;> decide +kernel
theorem test_graph :
    let g : Fields := { F with d := 1, a := 2, c := 4, ck := 3 }
    let s := out (.gnode g) (graphed (P []))
    s.thr.sReg 1 = 0x100000000 ∧ s.thr.cond 4 = true ∧ (s.node 0).kind = some 0 ∧ (s.bar 0 3).pend = 1 ∧ (s.bar 0 3).refs = 2 ∧
    ((out (.gedge { g with d := 0, b := 3 }) (edged (P []) 0 {} {})).node 0).succ = [1] ∧ ((out (.gedge { g with d := 0, b := 3 }) (edged (P []) 0 {} {})).node 1).cnt = 1 ∧
    ((out (.garm { F with a := 2 }) (edged (P []) 1 {} {})).node 0).started = true ∧ ((out (.garm { F with a := 2 }) (edged (P []) 0 {} {})).node 0).gen = 2 := by decide +kernel

/-- A collective descriptor at shared memory 0x300: the sum of one FP32 element at VA 0x40_0000_1000, to every member of group 0,
which is this device. -/
def collBytes : List Byte := [0, 0, 8, 0, 0, 0, 0xFF, 0xFF] ++ toBytes 4 1 ++ [0, 0, 0, 0] ++ toBytes 8 0x4000001000 ++ toBytes 8 0x4000001010 ++ List.replicate 32 0
def collected (s : State) : State :=
  withC (withM (barred (s.modThr (fun t => t.writes [.s 2 0x300 false, .s 3 ref3 false])) 0) (sharedKey 0 0 0x300) collBytes) (fun c => { c with comms := [(0, [0])] })
/-- The group's team holds ticket 77 of a collective. -/
def ticketed (s : State) (done : Bool) : State :=
  { s.modThr (fun t => t.write (.s 2 77 false)) with
    colls := [(7, { id := 7, ticket := 77, done := done })], teams := s.teams.map (fun p => (p.1, { p.2 with tickets := [77] })) }
theorem witness_collectives :
    let f : Fields := { F with d := 1, a := 2, b := 3, c := 4, ck := 3 }
    let w : Fields := { f with b := 0 }
    let read (u : State) : Prop := u.thr.name.hail = false ∧ (slotRead u.finishAll (u.finishAll.thr.sReg 2) 8 8).toOption = some collBytes
    let sound (u : State) : Prop := collOk u.finishAll 0 collBytes = true ∧ (∀ x ∈ collSpans u.finishAll 0 collBytes, x.collective = none)
    let full := { collected (P []) with colls := (List.range 256).map (fun i => (i, { ticket := i + 1 })) }
    let ticket (u : State) : Nat := (u.thr.sReg 2).toNat
    let holds (u : State) : Prop := ticket u ∈ (u.team u.thr.name.uid).tickets ∧ ticket u ≠ 0
    let mine (u : State) (p : Nat × Coll) : Prop := p.2.ctx = u.thr.name.ctx ∧ p.2.ticket = ticket u
    Meets 0xD4 f (collected (P [])) (fun u => read u ∧ sound u ∧ (∀ c ∈ barrierChecks u.finishAll ref3 0, c.1) ∧ (ticketsUsed u.finishAll 0).length < 256 ∧
      u.finishAll.hasCtx 0 = true ∧ u.finishAll.teams.any (fun p => p.1 == u.finishAll.thr.name.uid) = true ∧ ∀ p ∈ u.finishAll.colls, p.1 ≠ u.finishAll.nextId) ∧
    Meets 0xD4 f full (fun u => read u ∧ sound u ∧ (∀ c ∈ barrierChecks u.finishAll ref3 0, c.1) ∧ 256 ≤ (ticketsUsed u.finishAll 0).length) ∧
    Meets 0xD4 f (withC (collected (P [])) (fun c => { c with comms := [] })) (fun u => read u ∧ collOk u.finishAll 0 collBytes = false) ∧
    Meets 0xD5 w (ticketed (P []) false) (fun u => holds u ∧ u.colls = [(7, { id := 7, ticket := 77, done := false })] ∧ mine u (7, { id := 7, ticket := 77 })) ∧
    Meets 0xD5 w (ticketed (P []) true) (fun u => holds u ∧ u.colls = [(7, { id := 7, ticket := 77, done := true })] ∧ mine u (7, { id := 7, ticket := 77, done := true }) ∧
      u.teams.any (fun p => p.1 == u.thr.name.uid) = true) ∧
    Meets 0xD5 w (P [.s 2 77 false]) (fun u => ticket u ∉ (u.team u.thr.name.uid).tickets) := by
  refine ⟨meets ?_ ⟨?_, ?_, ?_, ?_⟩, meets ?_ ⟨?_, ?_, ?_, ?_⟩, meets ?_ ?_, meets ?_ ?_, meets ?_ ?_, meets ?_ ?_⟩
  all_goals first
    | decide +kernel
    | exact barrier_checks (by decide +kernel)
theorem test_collective :
    let f : Fields := { F with d := 1, a := 2, b := 3, c := 4, ck := 3 }
    let s := out (.coll f) (collected (P []))
    (s.team 1).tickets.length = 1 ∧ s.thr.cond 4 = true ∧ (s.bar 0 3).pend = 1 ∧
    (thr (.collw { f with b := 0 }) (ticketed (P []) false)).sReg 1 = 0x100 ∧ (thr (.collw { f with b := 0 }) (ticketed (P []) false)).cond 4 = false ∧
    (out (.collw { f with b := 0 }) (ticketed (P []) true)).colls = [] ∧ cause (.collw { f with b := 0 }) (P []) = 0x5E := by decide +kernel

theorem noWait_of {s : State} (h : s.threads.all (fun t => match t.status with | .waiting _ => false | _ => true) = true) : NoWait s := by
  intro t ht w hw
  have := List.all_eq_true.mp h t ht
  rw [hw] at this
  cases this
/-- Port 2 leads to device 1, and a window of the fence lets context 0 reach it. -/
def linked (s : State) : State := { s with hub := { s.hub with
  ports := [(2, { state := 2, peer := 1 })]
  fence := [(fenceKey 2 0 0, 0x80001001), (fenceKey 2 0 1, 1), (fenceKey 2 0 3, 0x3FFFFFFFFFF)] } }
/-- A collective of this device and device 1, which contributed 2.0, over 1.0 at VA 0x40_0000_1000. -/
def joint : Coll := { id := 7, ticket := 77, desc := collBytes, cmd := { bar := ref3, ctx := 0, uid := 1 } }
def joined (there : Bool) : State :=
  withM { withC (linked (barred (P []) 1 2)) (fun c => { c with comms := [(0, [0, 1])] }) with
    colls := [(7, joint)]
    contribs := if there then [{ dev := 1, desc := collBytes, data := toBytes 4 0x40000000 }] else [] } 0x1000 (toBytes 4 0x3F800000)
theorem witness_collective_completion :
    let me := (joined true).hub.devnum.toNat
    let members := commOf (joined true) 0 0
    ((joined false).colls = [] ++ (7, joint) :: [] ∧ (∃ dev ∈ members, dev ≠ (joined false).hub.devnum.toNat ∧ contribution? (joined false) joint dev = none)) ∧
    ((joined true).colls = [] ++ (7, joint) :: [] ∧ NoWait (joined true) ∧ me ∈ members ∧
     (∀ dev ∈ members, dev ≠ me → linkFailed (joined true).hub dev = false ∧ (contribution? (joined true) joint dev).any (fun c =>
       collMatch collBytes c.desc && !c.poison && c.data.length == 4) = true ∧
       fencePasses (joined true).hub (portTo (joined true).hub dev) (some 0) dev (((collDst collBytes).extractLsb' 0 55).toNat % 2 ^ 42) 4 = true) ∧
     earlierDone (joined true) joint.cmd.tid joint.cmd.ord = true ∧ collResidual collBytes = false ∧ collOpn collBytes ≤ 3 ∧
     (∀ j, j < 4 → (engineByte (joined true) joint.cmd 0 (collSrc collBytes + BitVec.ofNat 64 j) 7).toOption = some ((toBytes 4 0x3F800000).getD j 0, false)) ∧
     (∀ j, j < 4 → (engineKey (joined true) joint.cmd 0 (collDst collBytes + BitVec.ofNat 64 j)).toOption = some (some (0x1010 + j))) ∧
     joint.done = false ∧ ((joined true).core joint.cmd.core).serves = some joint.ctx) ∧
    List.Perm [1, 2] [2, 1] ∧ ((∀ x ∈ [0x3F800000, 0xC0000000], (decEt 8 x).finite) ∧
      (([0x3F800000, 0xC0000000].map (fun x => (toFix (-20) (decEt 8 x)).1)).foldr (· + ·) 0).natAbs ≤ 2 ^ 127 - 1) ∧
    (FVal.fin true 3 (-22)).finite ∧ (toFix (-20) (FVal.fin true 3 (-22))).2.getLsbD 2 = false := by
  refine ⟨⟨?_, ?_⟩, ⟨?_, noWait_of ?_, ?_, ?_, ?_, ?_, ?_, ?_, ?_, ?_⟩, List.Perm.swap 2 1 [], ⟨?_, ?_⟩, trivial, ?_⟩
  all_goals first
    | decide +kernel
    | (intro x hx; rcases List.mem_cons.mp hx with rfl | hx; trivial; rcases List.mem_cons.mp hx with rfl | hx; trivial; cases hx)
/-- 06 R119: 1.0 + 2.0 = 3.0 at both, the ticket's status, the arrival; an exact sum rounded to 2^EXP, and a saturated integer sum. -/
theorem test_collective_completion :
    let s := out (.collCompletion 7 []) (joined true)
    rdBytes s.mem 0x1010 4 = toBytes 4 0x40400000 ∧ s.colls.map (fun p => (p.2.done, p.2.code)) = [(true, 0)] ∧ (s.bar 0 3).pend = 0 ∧
    exactSum 8 (-2) [0x3F900000, 0x3F900000] = (0x40000000, fNX) ∧ intSum [0x7FFFFFFF, 1] = (0x7FFFFFFF, fOF) ∧
    (exactSum 8 0 [0x7F800000]).2 = fIV := by decide +kernel

/-! ### Tiles (08) -/

/-- A shape: pitch in bytes, swizzle, columns, rows, type. -/
def shape (pitch swz cols rows et : Nat) : Word := BitVec.ofNat 64 (pitch / 16 * 2 ^ 22 + swz * 2 ^ 19 + cols * 2 ^ 11 + rows * 2 ^ 4 + et)
/-- Tiles t1 to t3 of three shapes, and rows 0 and 1 selected. -/
def tiled (s : State) (a b c : Word) (m0 : Word := 3) : State :=
  withT s (fun t => { t with m0 := m0, tiles := { t.tiles with shape := [(1, a), (2, b), (3, c)] } })
theorem noFlag_of_zero {f : Fields} {t : Thread} (h : t.fpmode = 0) (fl : Option Nat → BitVec 5) : NoFlagTrap f t fl := by
  intro i _ _
  rw [h]
  exact BitVec.getLsbD_zero
theorem witness_tile_registers :
    let f : Fields := { F with d := 1, b := 3 }
    let field (w : Word) (lo n : Nat) : Nat := (w.extractLsb' lo n).toNat
    let bits (w : Word) : Nat := field w 11 7 * (if field w 0 4 = 14 then 4 else 8 * etBytes (field w 0 4))
    let valid (w : Word) : Prop :=
      field w 0 4 ∈ [8, 9, 10, 11, 12, 14] ∧ 1 ≤ field w 4 7 ∧ field w 4 7 ≤ 64 ∧ 1 ≤ field w 11 7 ∧ field w 11 7 ≤ 64 ∧ bits w ≤ 256 ∧
      (field w 0 4 = 14 → field w 11 7 = 32 ∨ field w 11 7 = 64) ∧ (if bits w ≤ 128 then 16 else 32) ≤ 16 * field w 22 10 ∧ field w 18 1 = 0 ∧ field w 32 32 = 0
    let z : Fields := { F with d := 1, bk := 3, fc := 2 }
    (∀ w ∈ ([shape 32 0 8 64 8, shape 16 7 1 1 10, shape 1024 0 64 16 14, shape 16 0 16 64 12] : List Word).map BitVec.toNat,
      Meets 0x80 f (P [.s 3 (BitVec.ofNat 64 w) false]) (fun u => valid (u.thr.sReg 3))) ∧
    (∀ w ∈ ([shape 32 0 9 64 8, shape 16 0 32 64 11, shape 32 0 16 64 14, shape 32 0 8 65 8, shape 32 0 8 0 8, shape 32 0 8 64 7, shape 32 0 8 64 8 + 0x40000] : List Word).map BitVec.toNat,
      Meets 0x80 f (P [.s 3 (BitVec.ofNat 64 w) false]) (fun u => ¬ valid (u.thr.sReg 3))) ∧
    (∀ x ∈ [(0x81, { z with b := 1 }), (0x81, z)], Meets x.1 x.2 (P []) (fun _ => True)) ∧
    Meets 0x88 { F with d := 5, a := 1, ak := 3, bk := 3, b := 15, fc := 2 } (P []) (fun u => u.thr.poison.z = []) ∧
    Meets 0x88 { F with d := 1, a := 4, ak := 2, bk := 3, b := 31, fc := 2 } (P []) (fun _ => True) := by
  refine ⟨each_meets ?_, each_meets ?_, all_meet ?_, meets ?_ ?_, meets ?_ ?_⟩
  all_goals decide +kernel

/-- A tile transfer on t1 at `s2`. -/
def Tt : Fields := { F with d := 1, a := 2, bk := 3, fc := 2 }
/-- Row `i` of a transfer, its `n` bytes from `off` on: the access it makes. -/
def rowAt (u : State) (k : AccKind) (n pitch i off : Nat) : Word × Except Nat Nat :=
  access u u.thr k (baseOf u.thr Tt 0) (indexOf u.thr Tt 16 0 + BitVec.ofNat 64 (i * pitch + off)) n n
def rowAddr (u : State) (k : AccKind) (n pitch i off : Nat) : Nat := ((rowAt u k n pitch i off).1.extractLsb' 0 55).toNat
/-- Shared memory unit 1 is of swizzle form 5 (08 R150). -/
def swizzled (s : State) : State := { s with swz := [(swzKey (s.team 1) 1, 5)] }
/-- What a row meets so that a transfer goes on: its checks, no watch point, and the tag of its unit. -/
def rowReached (u : State) (k : AccKind) (n pitch swz i off : Nat) : Bool :=
  (rowAt u k n pitch i off).2.toOption.isSome && (watchHits u u.thr k (rowAt u k n pitch i off).1 n).isEmpty &&
  (swz == 0 || rowAddr u k n pitch i off < 0x100000) &&
  (0x100000 ≤ rowAddr u k n pitch i off || (mget 0 u.swz (swzKey (u.team u.thr.name.uid) (rowAddr u k n pitch i off / 1024))).toNat == swz)
/-- The real rows of S below a bound. -/
def rowsOf (u : State) (m : Nat) : List Nat := (lanesOf (u.thr.sel Tt &&& ~~~ u.thr.help)).filter (· < m)
/-- t1 of a shape, at an address. -/
def tileAt (a w : Word) (m0 : Word := 3) : State := tiled (P [.s 2 a false]) w 0 0 m0
theorem witness_tile_loads :
    let W (u : State) : Word := u.thr.shape 1
    (∀ x ∈ [(tileAt 0x40 (shape 32 0 32 2 11)), (swizzled (tileAt 0x400 (shape 48 5 16 64 12))), (tileAt 0x200 (shape 32 0 16 64 9)),
        withT (tileAt 0xFFE0 (shape 32 0 8 64 8)) (fun t => { t with help := 2 })],
      Meets 0x82 Tt x.roomForLoad (fun u => shapeOk (W u) = true ∧
        (rowsOf u (shRows (W u))).all (fun i => rowReached u .load (shRB (W u)) (shPitch (W u)) (shSwz (W u)) i 0) = true)) ∧
    Meets 0x82 Tt (P [.s 2 0x40 false]).roomForLoad (fun u => shapeOk (W u) = false) ∧
    Meets 0x84 Tt (tileAt 0x40 0).roomForLoad (fun u => (rowsOf u 64).all (fun i => rowReached u .load 32 64 0 i 0 && rowReached u .load 32 64 0 i 32) = true) := by
  refine ⟨each_meets ?_, meets ?_ ?_, meets ?_ ?_⟩ <;> decide +kernel
/-- Every unit that a store of another form touches it writes whole; and a poisoned row of t1, and of z1. -/
theorem witness_tile_stores :
    let W (u : State) : Word := u.thr.shape 1
    let inUnit (u : State) (n pitch q : Nat) (xs : List (Nat × Nat)) : Nat := (xs.filter (fun x =>
      rowAddr u .store n pitch x.1 x.2 < 0x100000 && rowAddr u .store n pitch x.1 x.2 / 1024 == q)).length
    let good (u : State) (n pitch swz : Nat) (xs : List (Nat × Nat)) : Bool := xs.all (fun x =>
      (rowAt u .store n pitch x.1 x.2).2.toOption.isSome && (watchHits u u.thr .store (rowAt u .store n pitch x.1 x.2).1 n).isEmpty &&
      (swz == 0 || rowAddr u .store n pitch x.1 x.2 < 0x100000) &&
      (0x100000 ≤ rowAddr u .store n pitch x.1 x.2 ||
        (mget 0 u.swz (swzKey (u.team u.thr.name.uid) (rowAddr u .store n pitch x.1 x.2 / 1024))).toNat == swz ||
        1024 ≤ n * inUnit u n pitch (rowAddr u .store n pitch x.1 x.2 / 1024) xs))
    let rows (u : State) (m : Nat) (offs : List Nat) : List (Nat × Nat) := (rowsOf u m).flatMap (fun i => offs.map (fun off => (i, off)))
    let poisoned := withT (tileAt 0x40 (shape 32 0 32 2 11)) (fun t => { t with poison := { t.poison with t := [65], z := [65] } })
    (∀ x ∈ [(tileAt 0x40 (shape 32 0 32 2 11)), (tileAt 0x400 (shape 32 5 32 32 12) (BitVec.allOnes 64)), (swizzled (tileAt 0x400 (shape 32 5 16 2 9))),
        withT (tileAt 0xFFE0 (shape 32 0 8 64 8)) (fun t => { t with help := 2 })],
      Meets 0x83 Tt x (fun u => shapeOk (W u) = true ∧ u.thr.poison.t = [] ∧
        good u (shRB (W u)) (shPitch (W u)) (shSwz (W u)) (rows u (shRows (W u)) [0]) = true)) ∧
    Meets 0x83 Tt (tileAt 0x40 0) (fun u => shapeOk (W u) = false) ∧
    Meets 0x85 Tt (tileAt 0x40 0) (fun u => u.thr.poison.z = [] ∧ good u 32 64 0 (rows u 64 [0, 32]) = true) ∧
    Meets 0x83 Tt poisoned (fun u => shapeOk (W u) = true ∧ ∃ r ∈ rowsOf u (shRows (W u)), 64 + r ∈ u.thr.poison.t) ∧
    Meets 0x85 Tt poisoned (fun u => ∃ r ∈ rowsOf u 64, 64 + r ∈ u.thr.poison.z) := by
  refine ⟨each_meets ?_, meets ?_ ?_, meets ?_ ?_, meets ?_ ?_, meets ?_ ?_⟩ <;> decide +kernel
/-- 08 R150: bytes of a swizzled unit stand where the form says, a whole unit takes it, and a tile of another form is cause 0x28. -/
theorem test_swizzle :
    let s := tileAt 0x400 (shape 32 1 32 32 12) (BitVec.ofNat 64 (2 ^ 32 - 1))
    let s := withT s (fun t => { t with tiles := { t.tiles with t := [(tileKey 1 8 0, 0x5A)] } })
    let u := out (.tstore Tt) s
    mget 0 u.swz (swzKey (s.team 1) 1) = 1 ∧ byteAt (.tstore Tt) s (sharedKey 0 0 (phys 1 (0x400 + 256))) = 0x5A ∧
    (thr (.tload Tt) (withT u.release (fun t => { t with tiles := { t.tiles with t := [] } }))).tileByte 1 8 0 = 0x5A ∧
    cause (.tload Tt) s = 0x28 ∧ cause (.tstore Tt) (withT s (fun t => { t with m0 := 1 })) = 0x28 := by decide +kernel

/-- Tiles of one row of `n` elements in t1 and t2: the byte `x` in each place. -/
def mats (n et : Nat) (x y : Byte) (w : Word := 0) : State :=
  withT (tiled (P [.v (64 * 6) (w.setWidth 32) false]) (shape 32 0 n 1 et) (shape 32 0 n 1 et) 0 1) (fun t =>
    { t with tiles := { t.tiles with t := (List.range 32).map (fun j => (tileKey 1 0 j, x)) ++ (List.range 32).map (fun j => (tileKey 2 0 j, y)) } })
def Tm : Fields := { F with d := 1, a := 1, ak := 3, b := 2, bk := 3, fc := 2 }
theorem witness_matrix_multiply :
    let sa (u : State) : Word := u.thr.shape 1
    let sb (u : State) : Word := u.thr.shape 2
    let eight (et : Nat) : Prop := et = 11 ∨ et = 12 ∨ et = 14
    let pair (fb : Bool) (x y : Nat) : Prop := (eight x ∧ eight y) ∨ (fb = false ∧ x = y ∧ (x = 8 ∨ x = 9 ∨ x = 10))
    let fits (fb : Bool) (u : State) : Prop := shCols (sa u) = shCols (sb u) ∧ shRows (sb u) ≤ 16 ∧ pair fb (shEt (sa u)) (shEt (sb u))
    let good (fb : Bool) (u : State) : Prop := shapeOk (sa u) = true ∧ shapeOk (sb u) = true ∧ fits fb u ∧ u.thr.poison = {} ∧ u.thr.fpmode = 0
    let g : Fields := { Tm with c := 6, ck := 2 }
    let one (a b : Word) : State := tiled (P []) a b 0
    (∀ x ∈ [mats 32 11 0x38 0x40, one (shape 32 0 16 64 9) (shape 32 0 16 16 9), one (shape 32 0 64 64 14) (shape 32 0 64 16 14),
        one (shape 32 0 32 1 12) (shape 16 0 32 1 14), one (shape 32 0 8 1 8) (shape 32 0 8 1 8)], Meets 0x86 Tm x (good false)) ∧
    (∀ x ∈ [mats 32 11 0x38 0x40, one (shape 32 0 32 64 12) (shape 16 0 32 16 14)], Meets 0x87 g x (good true)) ∧
    (∀ x ∈ [one 0 (shape 32 0 16 16 9), one (shape 32 0 16 16 9) 0], Meets 0x86 Tm x (fun u => ¬ (shapeOk (sa u) = true ∧ shapeOk (sb u) = true))) ∧
    Meets 0x87 g (P []) (fun u => shapeOk (sa u) = false) ∧
    (∀ x ∈ [one (shape 32 0 16 1 9) (shape 32 0 8 1 9), one (shape 32 0 16 1 9) (shape 32 0 16 17 9), one (shape 32 0 16 1 9) (shape 32 0 16 1 10)],
      Meets 0x86 Tm x (fun u => shapeOk (sa u) = true ∧ shapeOk (sb u) = true ∧ ¬ fits false u)) ∧
    Meets 0x87 g (one (shape 32 0 16 1 9) (shape 32 0 16 1 9)) (fun u => shapeOk (sa u) = true ∧ shapeOk (sb u) = true ∧ ¬ fits true u) ∧
    ((decEt 11 0x38).finite ∧ (decEt 11 0x40).finite ∧ (e8m0Dec 0x80).finite) := by
  refine ⟨each_meets ?_, each_meets ?_, each_meets ?_, meets ?_ ?_, each_meets ?_, meets ?_ ?_, trivial, trivial, trivial⟩ <;> decide +kernel
/-- 06 R117, 08 R154: 32 products 1.0 × 2.0; scaled by 2^1; the products counted; a NaN scale raises no flag. -/
theorem test_matrix :
    let g : Fields := { Tm with c := 6, ck := 2 }
    (thr (.tmma Tm) (mats 32 11 0x38 0x40)).accElem 1 0 0 = 0x42800000 ∧ (thr (.tmma Tm) (mats 32 11 0x38 0x40)).counts.prod = 32 ∧
    (thr (.tmmaFb g) (mats 32 11 0x38 0x40 0x007F0080)).accElem 1 0 0 = 0x43000000 ∧
    (thr (.tmmaFb g) (mats 32 11 0x38 0x40 0x00FF0080)).accElem 1 0 0 = 0x7FC00000 ∧
    (thr (.tmmaFb g) (mats 32 11 0x38 0x40 0x00FF0080)).fpstat = 0 ∧
    (thr (.tmma Tm) (mats 8 8 0 0)).accElem 1 0 0 = 0 ∧ (thr (.tmma Tm) (mats 32 11 0x38 0x40)).accElem 1 0 1 = 0 := by decide +kernel

/-- Block 0 of t1, of the values of 08 R158's example in z1 and z2 of row 0 with scale 0x7E in v6. -/
def packed (x3 : Word) : State :=
  withT (tiled (P [.v 384 0x7E false]) (shape 32 0 64 1 14) 0 0 1) (fun t => { t with tiles := { t.tiles with
    z := [(accKey 1 0 0, 0x3FC00000), (accKey 1 0 1, 0xBF800000), (accKey 1 0 2, 0x41400000), (accKey 1 0 3, x3.setWidth 32), (accKey 1 0 5, 0x40600000)] } })
def Qp : Fields := { F with d := 1, a := 1, ak := 3, b := 6, bk := 2, fc := 2 }
theorem witness_q4x_instructions :
    let fits (w : Word) (h : Nat) : Prop := shapeOk w = true ∧ shEt w = 14 ∧ (shCols w = 64 ∨ h = 0)
    let one (w : Word) : State := tiled (P []) w 0 0
    (∀ fl, Meets 0x89 Qp (packed 0) (fun u => fits (u.thr.shape 1) 0 ∧ NoFlagTrap Qp u.thr fl ∧ u.thr.poison.z = [])) ∧
    (∀ fl, Meets 0x89 { Qp with d := 9 } (packed 0) (fun u => fits (u.thr.shape 1) 1 ∧ NoFlagTrap { Qp with d := 9 } u.thr fl ∧ u.thr.poison.z = [])) ∧
    Meets 0x89 Qp (one 0) (fun u => shapeOk (u.thr.shape 1) = false) ∧
    (∀ x ∈ [one (shape 32 0 32 1 11), one (shape 16 0 32 1 14)], Meets 0x89 { Qp with d := 9 } x (fun u => shapeOk (u.thr.shape 1) = true ∧ ¬ fits (u.thr.shape 1) 1)) ∧
    (∀ fl, Meets 0x8A Qp (packed 0) (fun u => fits (u.thr.shape 1) 0 ∧ NoFlagTrap Qp u.thr fl ∧ u.thr.poison.t = [])) ∧
    ((∀ q ∈ List.replicate 16 (-7) ++ List.replicate 16 (7 : Int), -7 ≤ q ∧ q ≤ 7) ∧ (∀ n ∈ List.replicate 31 15 ++ [0], n < 16 ∧ n ≠ 8) ∧
      (FVal.fin false 3 0).finite ∧ (q4xScaled (.fin false 3 0) 252).2 = 0 ∧ 252 < 255) := by
  refine ⟨fun fl => meets ?_ ⟨?_, noFlag_of_zero ?_ _, ?_⟩, fun fl => meets ?_ ⟨?_, noFlag_of_zero ?_ _, ?_⟩, meets ?_ ?_, each_meets ?_,
    fun fl => meets ?_ ⟨?_, noFlag_of_zero ?_ _, ?_⟩, ?_, ?_, trivial, ?_⟩ <;> decide +kernel
/-- The example of 08 R158, with and without room for its outlier. -/
theorem test_q4x :
    let bytes (s : State) : List Byte := (List.range 16).map (fun k => (thr (.qpack Qp) s).tileByte 1 0 k)
    let back := thr (.qunpk { Qp with d := 2 }) (out (.qpack Qp) (packed 0))
    bytes (packed 0) = [0xE3, 0xC8, 0x75] ++ List.replicate 13 0 ∧ (thr (.qpack Qp) (packed 0)).fpstat = 0 ∧
    bytes (packed 0x3ECCCCCD) = [0xE3, 0x17, 0x70] ++ List.replicate 13 0 ∧ (thr (.qpack Qp) (packed 0x3ECCCCCD)).fpstat = fOF ||| fNX ∧
    (back.accElem 2 0 0 = 0x3FC00000 ∧ back.accElem 2 0 1 = 0xBF800000 ∧ back.accElem 2 0 2 = 0x41400000 ∧ back.accElem 2 0 5 = 0x40600000) := by decide +kernel

/-! ### Shorts, and the host's commands (19 R375) -/

/-- A follower's word. -/
def fol (sop d df hi bf : Nat) : BitVec 32 := BitVec.ofNat 32 (hi * 2 ^ 16 + bf * 2 ^ 14 + d * 2 ^ 9 + df * 2 ^ 7 + sop * 4)
/-- A short passes its checks of issue as the slot's `k`th instruction. -/
def shortClearB (sop : Nat) (f : ShortFields) (k : Nat) (t : Thread) : Bool := (issueCheck t (shortUses sop f) k t.m0 0 false false).isNone
theorem shortClear_of {sop : Nat} {f : ShortFields} {k : Nat} {t : Thread} (h : shortClearB sop f k t = true) : ShortClear sop f k t :=
  (issueCheck_eq_none _ _ _ _ _ _ _).mp (Option.isNone_iff_eq_none.mp h)
theorem shortRuns_of {sop : Nat} {f : ShortFields} {t : Thread} (h : t.fpmode = 0)
    (g : 0x14 ≤ sop ∧ sop ≤ 0x18 → -(2 ^ 31) ≤ (shortAff sop f t).2 ∧ (shortAff sop f t).2 ≤ 2 ^ 31 - 1) : ShortRuns sop f t := by
  unfold ShortRuns
  split
  · exact g ‹_›
  · exact .inr (noFlag_of_zero h _)
/-- Every short alone: uniform, or varying, or affine with an immediate of 3. -/
def alone : List (Nat × ShortFields) :=
  (([0x00] : List Nat).map (fun o => (o, ⟨false, 0, 0, 0, 0, 0⟩))) ++ ([1, 2, 3, 4, 5, 6, 7, 8, 9, 10, 11, 12, 13, 14].map (fun o => (o, H))) ++
  ([15, 16, 17, 18, 19].map (fun o => (o, { H with df := 2, bf := 2 }))) ++ ([0x14, 0x15, 0x16, 0x17, 0x18].map (fun o => (o, { H with df := 1, bf := 3, hi := 3 }))) ++
  ([0x19, 0x1A, 0x1B, 0x1C].map (fun o => (o, { H with df := 2, bf := 2 })))
/-- `a3` with the largest stride and `a2` with stride 1. -/
def steep : State := P [.a 3 ⟨0, 0x7FFFFFFF⟩ false, .a 2 ⟨0, 1⟩ false]
def A1 : ShortFields := { H with df := 1, bf := 1 }
theorem witness_shorts_and_pairs :
    let tooSteep (f : ShortFields) (s : State) (sop : Nat) (a : Thread) : Prop := 2 ^ 31 - 1 < (shortAff sop f a).2 ∧ shortClearB sop f 1 (s.shortWaited sop f).thr = true
    (alone.map (·.1) = List.range 29 ∧ ∀ x ∈ alone, checkShort x.1 x.2 = none ∧ ShortClear x.1 x.2 1 ((P []).shortWaited x.1 x.2).thr ∧
      ShortRuns x.1 x.2 ((P []).shortWaited x.1 x.2).thr) ∧
    (∀ x ∈ [(0x14, A1), (0x17, { H with df := 1, bf := 3, hi := 1 })], checkShort x.1 x.2 = none ∧ tooSteep x.2 steep x.1 (steep.shortWaited x.1 x.2).thr) ∧
    (∀ x ∈ alone, ∀ g ∈ [fol 0x01 9 0 0xFFFF 3, fol 0x0F 9 2 0x3F80 3, fol 0x14 9 1 4 3],
      let f : ShortFields := { x.2 with lead := true, fol := g }
      let a := ((P []).shortWaited x.1 f).thr
      let q := shortParts g
      checkPair (x.1, f) q = none ∧ ShortClear x.1 f 1 a ∧ ShortClear q.1 q.2 2 a ∧ ShortRuns x.1 f a ∧ ShortRuns q.1 q.2 a) ∧
    (let f : ShortFields := { H with lead := true, fol := fol 0x14 3 1 2 1 }
     let a := (steep.shortWaited 0x01 f).thr
     checkPair (0x01, f) (shortParts f.fol) = none ∧ ShortClear 0x01 f 1 a ∧ ShortClear 0x14 (shortParts f.fol).2 2 a ∧ ShortRuns 0x01 f a ∧
      2 ^ 31 - 1 < (shortAff 0x14 (shortParts f.fol).2 a).2) ∧
    (let f : ShortFields := { A1 with lead := true, fol := fol 0x01 9 0 0 3 }
     ShortClear 0x14 f 1 (steep.shortWaited 0x14 f).thr ∧ 2 ^ 31 - 1 < (shortAff 0x14 f (steep.shortWaited 0x14 f).thr).2) := by
  have h : ∀ x ∈ alone, checkShort x.1 x.2 = none ∧ shortClearB x.1 x.2 1 ((P []).shortWaited x.1 x.2).thr = true ∧
      ((P []).shortWaited x.1 x.2).thr.fpmode = 0 ∧ ((0x14 ≤ x.1 && x.1 ≤ 0x18) = true →
        -(2 ^ 31) ≤ (shortAff x.1 x.2 ((P []).shortWaited x.1 x.2).thr).2 ∧ (shortAff x.1 x.2 ((P []).shortWaited x.1 x.2).thr).2 ≤ 2 ^ 31 - 1) := by
    decide +kernel
  have p : ∀ x ∈ alone, ∀ g ∈ ([fol 0x01 9 0 0xFFFF 3, fol 0x0F 9 2 0x3F80 3, fol 0x14 9 1 4 3] : List (BitVec 32)).map BitVec.toNat,
      let f : ShortFields := { x.2 with lead := true, fol := BitVec.ofNat 32 g }
      let a := ((P []).shortWaited x.1 f).thr
      let q := shortParts (BitVec.ofNat 32 g)
      checkPair (x.1, f) q = none ∧ shortClearB x.1 f 1 a = true ∧ shortClearB q.1 q.2 2 a = true ∧ a.fpmode = 0 ∧
      ((0x14 ≤ x.1 && x.1 ≤ 0x18) = true → -(2 ^ 31) ≤ (shortAff x.1 f a).2 ∧ (shortAff x.1 f a).2 ≤ 2 ^ 31 - 1) ∧
      ((0x14 ≤ q.1 && q.1 ≤ 0x18) = true → -(2 ^ 31) ≤ (shortAff q.1 q.2 a).2 ∧ (shortAff q.1 q.2 a).2 ≤ 2 ^ 31 - 1) := by
    decide +kernel
  have c {P : Prop} {a : Nat} (h : (0x14 ≤ a && a ≤ 0x18) = true → P) : 0x14 ≤ a ∧ a ≤ 0x18 → P := fun x => h (by simpa using x)
  refine ⟨⟨by decide +kernel, fun x hx => ⟨(h x hx).1, shortClear_of (h x hx).2.1, shortRuns_of (h x hx).2.2.1 (c (h x hx).2.2.2)⟩⟩, by decide +kernel,
    fun x hx g hg => ?_, ⟨by decide +kernel, shortClear_of (by decide +kernel), shortClear_of (by decide +kernel),
      shortRuns_of (by decide +kernel) (fun h => absurd h.1 (by decide)), by decide +kernel⟩, shortClear_of (by decide +kernel), by decide +kernel⟩
  have q := p x hx g.toNat (List.mem_map_of_mem hg)
  simp only [BitVec.ofNat_toNat, BitVec.setWidth_eq] at q
  exact ⟨q.1, shortClear_of q.2.1, shortClear_of q.2.2.1, shortRuns_of q.2.2.2.1 (c q.2.2.2.2.1), shortRuns_of q.2.2.2.1 (c q.2.2.2.2.2)⟩
/-- 07 R133 on shorts: cause 0x16, with HALF and two parcels where the follower raises it, and the leader has not written. -/
theorem test_short_overflow :
    let t := thr (.iaddShort { H with lead := true, fol := fol 0x14 3 1 2 1 }) steep
    (thr (.aaddShort A1) steep).trap.info = 1 ∧ cause (.aaddShort A1) steep = 0x16 ∧ t.trap.cause = 0x16 ∧ t.trap.info = 0x12 ∧ t.sReg 3 = 0 := by
  decide +kernel

/-- A command entry: operand values by byte offset. -/
def ent (l : List (Nat × Nat)) (ctx : Nat := 0) (flags : Nat := 0) : CmdEntry :=
  ⟨BitVec.ofNat 8 ctx, BitVec.ofNat 16 flags, 7, BitVec.ofNat 448 (l.foldl (fun a p => a + p.2 * 2 ^ (8 * p.1)) 0)⟩
/-- The fence lets Zephyr reach all of the host's memory (16 R303). -/
def fenced (s : State) : State := { s with hub := { s.hub with fence := [(fenceKey 12 0 0, 0xA0000000), (fenceKey 12 0 3, 0xFFFFFFFFFFFFFFFF)] } }
/-- The completion of a command: STATUS, REASON, RESULT0. -/
def reply (i : Instr) (s : State) : Nat × Nat × Word :=
  match exec i s with
  | .next t => let c := mget 0 t.hub.cpl s.hub.cplTail; ((c.extractLsb' 32 8).toNat, (c.extractLsb' 40 8).toNat, c.extractLsb' 64 64)
  | _ => (9, 9, 0)
theorem clear_of {e : CmdEntry} {used : List (Nat × Nat)}
    (h : (List.range 56).all (fun i => used.any (fun u => decide (u.1 ≤ i ∧ i < u.1 + u.2)) || entryNum e i 1 == 0) = true) : entryClear e used := by
  intro i hi hu
  have := List.all_eq_true.mp h i (List.mem_range.mpr hi)
  simp only [Bool.or_eq_true, List.any_eq_true, decide_eq_true_eq, beq_iff_eq] at this
  rcases this with ⟨u, hm, hx⟩ | h
  · exact absurd hx (hu u hm)
  · exact h
/-- A byte outside the operands is set. -/
theorem not_clear_of {e : CmdEntry} {used : List (Nat × Nat)}
    (h : (List.range 56).any (fun i => !used.any (fun u => decide (u.1 ≤ i ∧ i < u.1 + u.2)) && entryNum e i 1 != 0) = true) : ¬ entryClear e used := by
  intro hc
  obtain ⟨i, hi, h⟩ := List.any_eq_true.mp h
  simp only [Bool.and_eq_true, Bool.not_eq_true', List.any_eq_false, decide_eq_true_eq, bne_iff_ne, ne_eq] at h
  exact h.2 (hc i (List.mem_range.mp hi) h.1)
theorem witness_completions_and_refusals :
    (∀ used ∈ [[(0, 2), (2, 4), (6, 4), (10, 20), (30, 8), (38, 4)], [(0, 2), (2, 2)], [(0, 2), (8, 8), (16, 4)], [(0, 8), (8, 4)]], ¬ entryClear (ent [(55, 1)]) used) ∧
    (∀ used ∈ [[], [(0, 8), (8, 4), (12, 1), (13, 1)], [(0, 8), (8, 4)], [(0, 8), (8, 8)], [(0, 1), (8, 8), (16, 2), (24, 8), (32, 2)], [(0, 2), (8, 8), (16, 4)],
        [(0, 2), (8, 32)], [(0, 8), (8, 4), (12, 1)], [(0, 8), (8, 8), (16, 8)], [(0, 1), (8, 8), (16, 2)], [(0, 1), (8, 8), (16, 8)], [(0, 1), (8, 8)],
        [(0, 1), (8, 8), (16, 1), (18, 2)]], (P []).hasCtx (ent [] 1).ctx.toNat = false ∧ ¬ entryClear (ent [(55, 1)]) used) := by
  refine ⟨fun used h => not_clear_of ?_, fun used h => ⟨by decide +kernel, not_clear_of ?_⟩⟩
  · revert used; decide +kernel
  · revert used; decide +kernel
theorem test_refusals :
    reply (.mapPages (ent [(0, 0x4000010000), (8, 1)] 1)) (P []) = (1, 0x10, 0) ∧ reply (.launch (ent [] 63)) (P []) = (1, 0x10, 0) ∧
    reply (.createCtx (ent [(42, 1)])) (P []) = (1, 0x10, 0) ∧ reply (.setBudget (ent [(2, 257)])) (P []) = (1, 0x10, 0) := by decide +kernel

theorem witness_setting_commands :
    let s := fenced (P [])
    let members := withM s (hostKey 0x1000) [0, 0, 0xFF, 0x0F]
    (entryClear (ent [(0, 0xFFFF), (2, 256)]) [(0, 2), (2, 2)] ∧ entryClear (ent [(0, 159)]) [(0, 2), (2, 2)]) ∧
    (s.hasCtx 0 = true ∧ entryClear (ent [(0, 4095), (8, 0x4000001000), (24, 16), (32, 7)]) [(0, 2), (8, 32)] ∧
      handleOk 0x4000001000 0 16 7 = true ∧ ¬ ((∃ p ∈ s.launches, p.2.ctx = 0 ∧ p.2.finished = false ∧ 4095 ∈ p.2.binds) ∨ ∃ p ∈ s.nodes, p.2.ctx = 0 ∧ p.2.kind = some 2 ∧ 4095 ∈ p.2.binds)) ∧
    (∃ p ∈ [(1, ({ binds := [9] } : Launch))], p.2.ctx = 0 ∧ p.2.finished = false ∧ 9 ∈ p.2.binds) ∧
    (entryClear (ent [(0, 0x4000001000), (8, 2), (12, 15)]) [(0, 8), (8, 4), (12, 1)] ∧ (0x4000001000 % 32 = 0 ∧ 15 ≤ 15) ∧
      ∀ i, i < 2 → (granuleKey s 0 (0x4000001000 + 32 * i)).isSome = true) ∧
    (entryClear (ent [(0, 255), (8, 0x1000), (16, 2)]) [(0, 1), (8, 8), (16, 2)] ∧ hostOk members 0x1000 4 = true ∧
      indexList (rdBytes members.mem (hostKey 0x1000) 4) = [0, 4095]) ∧
    (entryClear (ent [(0, 15), (8, 0x4000000000), (16, 64)]) [(0, 1), (8, 8), (16, 8)] ∧ (s.ctx 0).word.getLsbD 15 = false ∧ 0x4000000000 + 64 ≤ 2 ^ 54) ∧
    (entryClear (ent [(0, 0x148), (8, 0x4000001000), (16, 48)]) [(0, 8), (8, 8), (16, 8)] ∧
      ((0x148 : Word).extractLsb' 9 55 = 0 ∧ 8 ≤ ((0x148 : Word).extractLsb' 4 5).toNat) ∧ pagesOwned s 0 0x4000001000 48 = true) := by
  refine ⟨⟨clear_of ?_, clear_of ?_⟩, ⟨?_, clear_of ?_, ?_, ?_⟩, ?_, ⟨clear_of ?_, ?_, ?_⟩, ⟨clear_of ?_, ?_, ?_⟩, ⟨clear_of ?_, ?_, ?_⟩, ⟨clear_of ?_, ?_, ?_⟩⟩ <;>
    decide +kernel
theorem test_setting_commands :
    let s := fenced (P [])
    (((out (.setBudget (ent [(0, 0xFFFF), (2, 40)])) s).core 159).budget = 40 ∧ reply (.setBudget (ent [(0, 160)])) s = (1, 0x10, 0)) ∧
    (mget 0 ((out (.setHandle (ent [(0, 9), (8, 0x4000001000), (24, 16), (32, 7)])) s).ctx 0).handles 38 = 16 ∧
      reply (.setHandle (ent [(0, 4096)])) s = (1, 0x10, 0)) ∧
    (mget 0 (out (.setTag (ent [(0, 0x4000001020), (8, 1), (12, 5)])) s).tags (mainKey 0x1020 / 32) = 5 ∧ reply (.setTag (ent [(0, 0x4000001001)])) s = (1, 0x10, 0)) ∧
    (mget [] ((out (.setComm (ent [(0, 3), (8, 0x1000), (16, 2)])) (withM s (hostKey 0x1000) [0, 0, 5, 0])).ctx 0).comms 3 = [0, 5] ∧
      reply (.setComm (ent [(0, 3), (8, 0x1000), (16, 2)])) (P []) = (1, 0x30, 0) ∧ reply (.setComm (ent [(8, 0x1000)])) s = (1, 0x10, 0)) ∧
    (mget (9, 9, 9) (out (.hostWindow (ent [(0, 2), (8, 0x4000000000), (16, 64)])) s).hub.windows 2 = (0, 0x4000000000, 64) ∧
      reply (.hostWindow (ent [(0, 16), (8, 0x4000000000)])) s = (1, 0x10, 0)) ∧
    (((out (.observe (ent [(0, 5), (8, 0x4000001000), (16, 96)])) s).ctx 0).obs.cap = 2 ∧ reply (.observe (ent [(0, 5), (8, 0x4000001000), (16, 95)])) s = (1, 0x10, 0)) := by
  decide +kernel

/-- An image of one kernel of one instruction, with its digest, worked out by another program. -/
def tinyImage : List Byte :=
  let kernel := toBytes 8 240 ++ toBytes 4 8 ++ toBytes 4 248 ++ [0, 64, 7, 0] ++ toBytes 4 64 ++ toBytes 4 1 ++ toBytes 4 0 ++ [0, 0, 0, 0, 1, 0, 3, 2] ++ List.replicate 24 0
  let bs : List Byte := toBytes 4 0x46524F47 ++ [2, 0, 0, 0, 0, 0, 0, 0] ++ toBytes 4 128 ++ toBytes 8 256 ++ toBytes 4 1 ++ toBytes 4 128 ++ toBytes 4 2 ++ toBytes 4 192 ++
    List.replicate 88 0 ++ kernel ++ (toBytes 4 0 ++ toBytes 4 8 ++ toBytes 8 240 ++ toBytes 8 8) ++ (toBytes 4 2 ++ toBytes 4 4 ++ toBytes 8 248 ++ toBytes 8 8) ++ List.replicate 16 0
  bs.take 0x40 ++ toBytes 64 0xbd95d67fcd3d6dfbce692e73e817fe75f659f21e0870e3e6b98ed489801430161f0f777042857ccc4627505478a2c2802ba212abec57328bcfb067c0668dffee ++ bs.drop 0x80
/-- Host memory 0x1000 holds the image. -/
def hosting (s : State) : State := withM (fenced s) (hostKey 0x1000) tinyImage
/-- The group's context has a kernel with 8 argument bytes, and the first unit of die 0's scratchpad. -/
def argued (s : State) : State :=
  withC { fenced s with owners := mset {} s.owners (scratchUnit 0 0) { who := 2 } } (fun c =>
    { c with images := [{ number := 1, base := 0x4000000000, frames := [0], kernels := [{ probeKernel with args := 8 }] }] })
theorem witness_context_commands :
    let s := fenced (P [])
    let p := 0x4000010000 / 65536
    let zero : List Byte := List.replicate 128 0
    let busy := withT (P []) (fun t => { t with routine := some { pc := 0, len := 2 } })
    let e := ent [(0, 1), (8, 1), (12, 3), (13, 1), (14, 127)]
    let a := ent [(0, 1), (8, 1), (13, 1), (24, 8), (16, 0x3000), (40, 0x10000000)]
    (s.hub.mode = false ∧ s.ctxs.length < 64 ∧ entryClear (ent [(0, 0x7000), (2, 1024), (10, 1), (38, 0)]) [(0, 2), (2, 4), (6, 4), (10, 20), (30, 8), (38, 4)] ∧
      0x7000 % 4096 = 0 ∧ takeFrames s [0] 0 (s.tick * 2 ^ 32) [] ≠ none) ∧
    (s.hasCtx 0 = true ∧ entryClear (ent []) [] ∧ ctxQuiet s 0 = true ∧ ctxQuiet busy 0 = false) ∧
    (entryClear (ent [(0, 0x4000010000), (8, 2), (12, 0x32)]) [(0, 8), (8, 4), (12, 1), (13, 1)] ∧ 0x4000010000 % 65536 = 0 ∧ 0x32 &&& 0xC1 = 0 ∧
      (∀ k ∈ [p, p + 1], (mget 0 (s.ctx 0).leaf k).getLsbD 0 = false) ∧ (∀ k ∈ [p, p + 1], ((mget 0 (s.ctx 0).l2 (k / 2 ^ 13)).extractLsb' 1 3).toNat = 0) ∧ Nat.testBit 0x32 5 = true) ∧
    (entryClear (ent [(0, 0x4000000000), (8, 1)]) [(0, 8), (8, 4)] ∧ 0x4000000000 % 65536 = 0) ∧
    (entryClear (ent [(0, 0x1000), (8, 256)]) [(0, 8), (8, 8)] ∧ hostOk (hosting (P [])) 0x1000 256 = true ∧
      (rdBytes (hosting (P [])).mem (hostKey 0x1000) 256 = tinyImage ∧ imageCheck (hosting (P [])) 0 tinyImage = none) ∧ imageCheck s 0 [] = some 0x01) ∧
    ((∃ im, (s.ctx 0).images.find? (fun x => x.number == 1) = some im ∧ im.kernels[0]? = some probeKernel ∧ needsMet s 0 im.minor im.needs = true) ∧
      entryClear e [(0, 4), (4, 4), (8, 4), (12, 1), (13, 1), (14, 1), (16, 8), (24, 2), (32, 8), (40, 8)] ∧ blockTaken s 0 1 0 0 = false ∧
      hostOk s 0 0 = true ∧ spanFits s 0 1 probeKernel = true) ∧
    ((∃ im, ((argued (P [])).ctx 0).images.find? (fun x => x.number == 1) = some im ∧ (im.kernels[0]?.map (·.args)) = some 8) ∧
      entryClear a [(0, 4), (4, 4), (8, 4), (12, 1), (13, 1), (14, 1), (16, 8), (24, 2), (32, 8), (40, 8)] ∧ blockTaken (argued (P [])) 0 1 0x10000000 8 = false ∧
      blockOwned (argued (P [])) 0 0 0x10000000 8 = true ∧ hostOk (argued (P [])) 0x3000 8 = true ∧ spanFits (argued (P [])) 0 1 { probeKernel with args := 8 } = true) ∧
    (let g := withM s (hostKey 0x2000) [0, 0, 1, 0]
     let ds : List (List Byte × List Nat) := [(zero, []), (zero, [])]
     entryClear (ent [(8, 0x1000), (16, 2), (24, 0x2000), (32, 1)]) [(0, 1), (8, 8), (16, 2), (24, 8), (32, 2)] ∧ hostOk g 0x1000 256 = true ∧ hostOk g 0x2000 4 = true ∧
      ds.map (·.1) = tableOf (rdBytes g.mem (hostKey 0x1000) 256) 0 2 128 ∧ ((submitBinds g zero).toOption = some [] ∧ submitOk g 0 0 zero [] = true) ∧
      (match g.fillNodes 0 0 ds [] with | some (u, ks) => (u.linkNodes ks [(0, 1)]).isSome | none => false) = true) := by
  refine ⟨⟨?_, ?_, clear_of ?_, ?_, ?_⟩, ⟨?_, clear_of ?_, ?_, ?_⟩, ⟨clear_of ?_, ?_, ?_, ?_, ?_, ?_⟩, ⟨clear_of ?_, ?_⟩, ⟨clear_of ?_, ?_, ?_, ?_⟩,
    ⟨⟨_, rfl, ?_, ?_⟩, clear_of ?_, ?_, ?_, ?_⟩, ⟨⟨_, rfl, ?_⟩, clear_of ?_, ?_, ?_, ?_, ?_⟩, ⟨clear_of ?_, ?_, ?_, ?_, ?_, ?_⟩⟩ <;> decide +kernel
/-- Reasons and effects: a context without a pool, pages of first touch, an image that fails its first check, a launch of a routine, of no
team, and of one, and a graph of two nodes. -/
theorem test_context_commands :
    let s := fenced (P [])
    let launch (l : List (Nat × Nat)) (s : State) := reply (.launch (ent l)) s
    (reply (.createCtx (ent [(0, 1)])) s = (1, 0x10, 0) ∧ reply (.createCtx (ent [(2, 1023)])) s = (1, 0x10, 0)) ∧
    (mget 0 ((out (.mapPages (ent [(0, 0x4000010000), (8, 1), (12, 0x20)])) s).ctx 0).leaf 0x400001 = 0x20 ∧
      reply (.mapPages (ent [(0, 0x4000000000), (8, 1), (12, 0x20)])) s = (1, 0x13, 0) ∧ reply (.mapPages (ent [(0, 0x4000000001), (8, 1)])) s = (1, 0x10, 0)) ∧
    (let u := out (.unmapPages (ent [(0, 0x4000000000), (8, 1)])) (withM s 5 [9])
     mget 0 (u.ctx 0).leaf 0x400000 = 0 ∧ rdByte u.mem 5 = 0 ∧ (mget {} u.owners 0).who = 0) ∧
    (reply (.loadImage (ent [(0, 0x1000), (8, 255)])) (hosting (P [])) = (1, 0x01, 0) ∧ reply (.loadImage (ent [(8, 1)])) (P []) = (1, 0x30, 0)) ∧
    (launch [(0, 1), (4, 1), (8, 1), (13, 1)] (reading (fenced (P []))) = (1, 0x0A, 0) ∧ launch [(0, 1), (8, 0), (13, 1)] s = (1, 0x10, 0) ∧
      ((out (.launch (ent [(0, 1), (8, 5), (13, 1)])) s).launch s.nextId).teams = 5 ∧
      launch [(0, 1), (8, 1), (13, 1), (24, 8), (40, 0x10010000)] (argued (P [])) = (1, 0x0A, 0) ∧
      rdByte (out (.launch (ent [(0, 1), (8, 1), (13, 1), (24, 8), (16, 0x3000), (40, 0x10000000)])) (withM (argued (P [])) (hostKey 0x3000) [0x77])).mem (scratchKey 0 0) = 0x77) ∧
    (let u := out (.graphSubmit (ent [(8, 0x1000), (16, 2), (24, 0x2000), (32, 1)])) (withM s (hostKey 0x2000) [0, 0, 1, 0])
     (u.node 1).cnt = 0 ∧ u.nodes.length = 2 ∧ reply (.graphSubmit (ent [(0, 4), (16, 1)])) s = (1, 0x10, 0)) := by decide +kernel

/-- The group halted for the debugger. -/
def halted : State := withT (P []) (fun t => { t with status := .halted })
/-- The operands of a debug sub-operation on the group, and on team 5. -/
def dbg (lane : Nat := 3) (team : Nat := 0) : CmdEntry := ent [(8, 1), (12, team), (16, lane)]
theorem witness_report_commands :
    let s := fenced (P [])
    let q := ent [(8, 0x1000), (16, 65536)]
    let d := ent [(0, 1), (16, 0x1000), (24, 128)]
    (s.hasCtx 0 = true ∧ entryClear q [(0, 2), (8, 8), (16, 4)]) ∧
    (∀ bs ∈ [ringBytes (s.ctx 0), counterBytes (s.ctx 0), solderBytes s.hub, observeBytes (s.ctx 0), wordBytes ((List.range 160).map (coresched s)),
      wordBytes ((List.range 13).map (mget 0 s.hub.refusals)), portBytes s.hub, contextBytes s 0], hostOk s 0x1000 (bs.take 65536).length = true) ∧
    (entryClear (ent [(8, 0x1000)]) [(0, 2), (8, 8), (16, 4)] ∧ hostOk s 0x1000 ((deviceBytes s.hub).take 0).length = true) ∧
    (entryClear (ent [(0, 0x1000), (8, 0x2000)]) [(0, 8), (8, 8)] ∧ hostOk s 0x1000 64 = true) ∧
    ((s.hasCtx 0 = true ∧ 128 ≤ 128 ∧ entryClear d [(0, 1), (1, 1), (2, 8), (10, 2), (16, 8), (24, 8)]) ∧ ctxQuiet s 0 = true ∧
      ctxQuiet (withT s (fun t => { t with routine := some { pc := 0, len := 2 } })) 0 = false) ∧
    (entryClear (ent [(2, 1), (24, 128)]) [(0, 1), (1, 1), (2, 8), (10, 2), (16, 8), (24, 8)] ∧
      ∃ t ∈ s.threads, t.name.hail = false ∧ t.status ≠ .retiring ∧ t.name.ctx = 0 ∧ t.name.launch = 1 ∧ t.name.team = 0 ∧ t.name.group = 0) := by
  refine ⟨⟨?_, clear_of ?_⟩, ?_, ⟨clear_of ?_, rfl⟩, ⟨clear_of ?_, ?_⟩, ⟨⟨?_, ?_, clear_of ?_⟩, ?_, ?_⟩, clear_of ?_, ?_⟩ <;> decide +kernel
/-- A report cut to its buffer, behind the fence; a dump into a buffer that is too short. -/
theorem test_report_commands :
    let s := withC (fenced (P [])) (fun c => { c with ring := [0x50] })
    reply (.queryFaultRing (ent [(8, 0x1000), (16, 2)])) s = (0, 0, 2) ∧ rdByte (out (.queryFaultRing (ent [(8, 0x1000), (16, 2)])) s).mem (hostKey 0x1000) = 0x50 ∧
    reply (.queryFaultRing (ent [(8, 0x1000), (16, 2)])) (withC (P []) (fun c => { c with ring := [0x50] })) = (1, 0x30, 0) ∧
    reply (.dump (ent [(0, 1), (24, 127)])) s = (1, 0x10, 0) ∧ reply (.attest (ent [(0, 0x1000), (8, 0x2000)])) (P []) = (1, 0x30, 0) := by decide +kernel

theorem witness_patch_and_debug :
    let s := fenced (P [])
    let used : List (Nat × Nat) := [(0, 1), (8, 8), (16, 1), (18, 2)]
    let named (t : Thread) (team : Nat) : Prop := t.name.hail = false ∧ t.status ≠ .retiring ∧ t.name.ctx = 0 ∧ t.name.launch = 1 ∧ t.name.team = team ∧ t.name.group = 0
    let plain (s : State) : Prop := s.hasCtx 0 = true ∧ (s.ctx 0).word.getLsbD 15 = false
    let group (s : State) : Prop := s.thr.status ≠ .absent ∧ named s.thr 0 ∧ ∀ u ∈ s.parked, u.id ≠ s.thr.id
    entryClear (ent [(0, 0x1000), (8, 64)]) [(0, 8), (8, 4)] ∧
    (let c := withC s (fun c => { c with word := 0x8000 }); c.hasCtx 0 = true ∧ (c.ctx 0).word.getLsbD 15 = true) ∧
    (plain s ∧ entryClear (ent [(8, 0x1000)]) [(0, 1), (8, 8)] ∧ hostOk s 0x1000 128 = true) ∧
    (entryClear (dbg 3 5) used ∧ ∀ t ∈ s.threads, ¬ named t 5) ∧ entryClear (dbg 3 0xFFFFFFFF) used ∧
    (entryClear (dbg 3) used ∧ group s ∧ s.thr.status ≠ .halted) ∧
    (plain halted ∧ group halted ∧ halted.thr.status = .halted ∧ halted.thr.active.getLsbD 3 = true ∧ halted.thr.stack = [] ∧
      ({ halted.thr with stack := [.focus { lane := 3, pend := halted.thr.m0 &&& ~~~ (8 : Word), fpc := halted.thr.pc }] } : Thread).spillFits = true) ∧
    (group (withT halted (fun t => { t with m0 := 7 })) ∧ (withT halted (fun t => { t with m0 := 7 })).thr.active.getLsbD 3 = false) := by
  refine ⟨clear_of ?_, ?_, ⟨?_, clear_of ?_, ?_⟩, ⟨clear_of ?_, ?_⟩, clear_of ?_, ⟨clear_of ?_, ?_⟩, ?_, ?_⟩ <;> decide +kernel
/-- 18 R363-R366: the slots of breakpoints, and halt, resume, step, focus and end. -/
theorem test_debug :
    let t (i : Instr) (s : State) : Thread := match exec i s with | .next u => u.thr | _ => {}
    (mget 0 ((out (.debugWriteSlots (ent [(8, 0x1000)])) (withM (fenced (P [])) (hostKey 0x1000) [8, 0, 0, 0, 0, 0, 0xFF, 0xFF])).ctx 0).obs.bp 0 = 0x807F000000000008) ∧
    (t (.debugHalt (dbg)) (P [])).haltReq = true ∧ reply (.debugResume (dbg)) (P []) = (1, 0x10, 0) ∧ reply (.debugHalt (dbg 3 5)) (P []) = (1, 0x10, 0) ∧
    ((t (.debugResume (dbg)) halted).status = .ready ∧ (t (.debugResume (dbg)) halted).skipBp = true) ∧ (t (.debugStep (dbg)) halted).step = true ∧
    (t (.debugFocus (dbg)) halted).m0 = 8 ∧ reply (.debugFocus (dbg 64)) halted = (1, 0x10, 0) ∧ (t (.debugEnd (dbg)) halted).status = .retiring := by decide +kernel

theorem witness_hub_writes :
    (∀ x ∈ (P []).launches, x.2.owed = false) ∧ (∀ off ∈ [0, 0x3FF8], off < 0x4000) ∧
    ∀ off ∈ [0x4000, 0x6008, 0x60F8, 0x6108, 0xFFF8], 0x4000 ≤ off ∧ off ≠ 0x6000 ∧ off ≠ 0x6018 ∧ off ≠ 0x6020 ∧ off ≠ 0x6100 := by decide +kernel
/-- 19 R372, R382, R384; 16 R303: the power limit and its lock, a locked window, an entry of the ring, and GO. -/
theorem test_hub_writes :
    let h (i : Instr) (s : State := P []) : Hub := (out i s).hub
    let at_ (n : Nat) (s : State) : State := { s with hub := { s.hub with state := n } }
    (h (.pwrctlWrite 0x1258)).pwrLimit = 600 ∧ (h (.pwrctlWrite 0x1258)).pwrLock = true ∧ (h (.pwrctlWrite 0x257)).pwrLimit = 2400 ∧
    (h (.pwrctlWrite 700) (out (.pwrctlWrite 0x1258) (P []))).pwrLimit = 600 ∧ (h (.registerWrite 0x6100 2400)).pwrLimit = 2400 ∧
    fenceReg (h (.fenceWindowWrite 12 1 0 0xFFFFFFFFFFFFFFFF)) 12 1 0 = 0xE0000000 ∧ fenceReg (h (.fenceWindowWrite 12 0 2 5)) 12 0 2 = 5 ∧
    fenceReg (h (.fenceWindowWrite 12 1 2 5) (out (.fenceWindowWrite 12 1 0 0x40000000) (P []))) 12 1 2 = 0 ∧
    mget 0 (h (.registerWrite 0x48 9)).cq 9 = 9 ∧ (h (.registerWrite 0x6000 0x105)).cqTail = 5 ∧ (h (.registerWrite 0x6018 3)).cplHead = 3 ∧
    (h (.devstatGo true) (at_ 1 (P []))).state = 2 ∧ (mget {} (h (.devstatGo true) (at_ 1 (P []))).ports 11).state = 1 ∧ (h (.devstatGo true)).state = 3 ∧
    (h (.registerWrite 0x6020 0x60) (at_ 1 (P []))).mode = true ∧ (h (.devstatMode true) (at_ 1 (P []))).mode = true ∧ (h (.devstatMode true)).mode = false ∧
    (h (.devnumWrite 7)).devnum = 7 := by decide +kernel

theorem noValueWait_of {s : State} (h : (s.thr :: s.parked).all (fun t => match t.status with | .waiting (.val ..) => false | _ => true) = true) : NoValueWait s := by
  intro t ht key size cc sg v hw
  have := List.all_eq_true.mp h t (List.mem_cons.mpr ht)
  rw [hw] at this
  cases this
/-- Host window 15 shows 64 bytes at VA 0x40_0000_1000. -/
def windowed (s : State) : State := { s with hub := { s.hub with windows := [(15, (0, 0x4000001000, 64))], gts := 100 } }
theorem witness_links_and_host :
    let s := windowed (P [])
    let reach (s : State) (a : Nat) (write : Bool) (tag : Option (BitVec 4)) : Prop :=
      ((translate s 0 a).toOption.any (fun x => x.1 == a - 0x4000000000 && (pageCheck s [] x.2 x.1 1 write tag).isNone)) = true
    let lost := withC s (fun c => { c with leaf := [] })
    ((99 : Word).toNat < s.hub.gts.toNat ∧ s.hub.state = 3 ∧ 0 % 64 = 0 ∧ 0 + 64 ≤ 64 ∧ s.hasCtx 0 = true ∧ (s.ctx 0).word.getLsbD 15 = false ∧ 0x4000001000 + 64 ≤ 2 ^ 54 ∧
      (∀ i, i < 64 → reach s (0x4000001000 + i) true none) ∧ NoValueWait s) ∧
    (why (translate lost 0 0x4000001000)).isSome = true ∧
    (s.hub.state ≠ 2 ∧ (State.reset).hub.state ≠ 3) ∧
    ((∀ b ∈ [(0, (1 : Byte)), (31, 2)], 0x4000001000 + b.1 < 2 ^ 54 ∧ reach s (0x4000001000 + b.1) true (some 5))) ∧
    ((∀ x ∈ s.colls, x.2.done = true) ∧ (∀ x ∈ s.cmds, x.2.remote = false) ∧ (∀ x ∈ s.cmds, x.2.id = x.1)) ∧
    (let c : Cmd := { id := 4, work := .copy 0x4000001000 ((1 <<< 54 ||| 5 <<< 42 : Word)) [2, 0x0001000100010010, 0, 0, 0, 0, 0, 0] none }
     let r := { s with cmds := [(4, c)], hub := { s.hub with ports := [(2, { state := 2, peer := 5 })] } }
     (∀ x ∈ r.cmds, x.2.id = x.1) ∧ r.hasCmd 4 = true ∧ c.failed = false ∧ c.done = false ∧ c.sectorsDone = false ∧ c.device = some 5 ∧ portTo r.hub 5 = 2) := by
  refine ⟨⟨?_, ?_, ?_, ?_, ?_, ?_, ?_, ?_, noValueWait_of ?_⟩, ?_, ?_, ?_, ?_, ?_⟩ <;> decide +kernel
/-- 19 R371, R379, R380, R383; 01 R24: training, a window's read and write, a peer's sector and timestamp, a port that fails. -/
theorem test_links_and_host :
    let s := windowed (withM (P []) 0x1000 [0xAB])
    let t (i : Instr) (s : State := s) : State := match exec i s with | .next u => u | _ => {}
    ((t (.linkTraining 109 3) { s with hub := { s.hub with state := 2 } }).hub.state = 3 ∧ (t (.linkTraining 109 3) { s with hub := { s.hub with state := 2 } }).hub.gts = 109 ∧
      (mget {} (t (.linkTraining 109 3) { s with hub := { s.hub with state := 2 } }).hub.ports 2).state = 0) ∧
    (t (.cxlMemAccess 15 0 none)).hub.cxlData = 0xAB ∧ rdByte (t (.cxlMemAccess 15 0 (some 0x1234))).mem 0x1001 = 0x12 ∧ t (.cxlMemAccess 15 64 none) = s ∧
    t (.remoteTransaction (.write 100 0 0x4000001000 0 [(3, 7)])) = s ∧ rdByte (t (.remoteTransaction (.write 99 0 0x4000001000 0 [(3, 7)]))).mem 0x1003 = 7 ∧
    (mget {} (t (.linkFailure 11)).hub.ports 11).state = 3 := by decide +kernel

theorem witness_limits_and_reset :
    let s := P []
    (s.hasCtx 0 = true ∧ s.thr.status ≠ .absent ∧ (∀ x ∈ s.parked, x.id ≠ s.thr.id) ∧ (s.focus s.thr.id).thr.name.hail = false ∧ DistinctThreads s) ∧
    ({ s with cmds := [(4, { id := 4 })] }.hasCmd 4 = true ∧ ({ s with cmds := [(4, { id := 4 })] }.cmd 4).id = 4) := by
  refine ⟨⟨?_, ?_, ?_, ?_, distinct_of ?_⟩, ?_⟩ <;> decide +kernel
/-- 19 R381, R383; 16 R312; 17 R346: clocks of the dies at their limits, the trip, the update point, budgets, soft errors. -/
theorem test_limits :
    let s := P []
    let hubs (g : Hub → Hub) : State := { s with hub := g s.hub }
    let t (i : Instr) (s : State) : State := match exec i s with | .next u => u | _ => {}
    mget 0 (t .powerThrottle (hubs (fun h => { h with pwrNow := 2401 }))).hub.slowed 3 = 50 ∧ t .powerThrottle (hubs (fun h => { h with pwrNow := 2400 })) = hubs (fun h => { h with pwrNow := 2400 }) ∧
    mget 0 (t (.arithmeticClockRise 1) (hubs (fun h => { h with slowed := [(1, 100)] }))).hub.slowed 1 = 50 ∧
    mget 0 (t (.dieOvertemp 2) (hubs (fun h => { h with temp := [(2, 841)] }))).hub.slowed 2 = 1425 ∧ t (.dieOvertemp 2) (hubs (fun h => { h with temp := [(2, 840)] })) = hubs (fun h => { h with temp := [(2, 840)] }) ∧
    ((t .thermalTrip (hubs (fun h => { h with temp := [(4, 921)] }))).hub.trip = true ∧ (t .thermalTrip (hubs (fun h => { h with temp := [(4, 921)] }))).hub.state = 0 ∧
      (t .thermalTrip (hubs (fun h => { h with temp := [(4, 920)] }))).hub.trip = false) ∧
    ((t .deviceReset s).ctxs = [] ∧ (t .deviceReset s).thr.status = .absent) ∧
    ((mget {} (t .slotUpdatePoint (hubs (fun h => { h with staged := [(31, { mtch := 5 })] }))).hub.solder 31).mtch = 5) ∧
    (((t (.budgetLower 0) (hubs (fun h => { h with hot := [0] }))).core 0).budget = 240 ∧
      ((t (.budgetRaise 0) { s with cores := [(0, { budget := 100, budgetSet := 110 })] }).core 0).budget = 110) ∧
    (((t (.softError (.corrected 0)) s).ctx 0).counters.corrected = 1 ∧ 5 ∈ (t (.softError (.sector 5)) s).poisonMem ∧
      69 ∈ (t (.softError (.laneWord s.thr.id 1 5)) s).thr.poison.v ∧ (t (.softError (.control s.thr.id)) s).thr.status = .retiring) := by decide +kernel

/-! ### Steps of threads, teams and engines -/

def Ld1 : Pend := { work := .load 1 0 6 [{ lane := 0, key := some (sharedKey 0 0 0x40) }], left := 0, reads := [], writes := [] }
def Rs1 : Pend := { work := .result [.s 1 9 false] 0 0, left := 0, reads := [], writes := [] }
/-- The group waits for four bytes at shared memory 0x40 to equal 9. -/
def watching (s : State) : State := withT s (fun t => { t with status := .waiting (.val (sharedKey 0 0 0x40) 4 0 false 9) })
theorem witness_thread_events :
    let tid := (P []).thr.id
    let one (ps : List Pend) : State := (withT (P []) (fun t => { t with pending := ps })).focus tid
    let stored : State := (withT (P []) (fun t => { t with queue := [⟨0, cellsAt 0x1000 [1, 2], [(5, 3)]⟩] })).focus tid
    ((watching (P [])).thr.status = .waiting (.val (sharedKey 0 0 0x40) 4 0 false 9) ∧ (watching (P [])).thr.id = tid ∧ (∀ x ∈ (watching (P [])).parked, x.id ≠ tid) ∧
      ((watching (P [])).team (watching (P [])).thr.name.uid).state = .resident) ∧
    (NoWait (one [{ Rs1 with work := .done }, Ld1]) ∧ (one [{ Rs1 with work := .done }, Ld1]).thr.pending = [{ Rs1 with work := .done }] ++ Ld1 :: [] ∧
      (∀ q ∈ [{ Rs1 with work := .done }], q.work = .done) ∧ Ld1.work ≠ .done ∧ Ld1.loads = true) ∧
    (NoWait (one [Rs1]) ∧ (one [Rs1]).thr.pending = [] ++ Rs1 :: [] ∧ Rs1.work ≠ .done ∧ Rs1.loads = false) ∧
    (NoWait stored ∧ stored.thr.queue = ⟨0, cellsAt 0x1000 [1, 2], [(5, 3)]⟩ :: []) ∧
    ((({ cause := 0x72 } : TrapInfo)).cause ≠ 0x3A ∧ (P []).thr.held = []) ∧
    (DistinctThreads (P []) ∧ ((P []).thread? tid).isSome = true) ∧
    (((P []).core 0).serves = some 0 ∧ (P []).hasCtx 0 = true ∧ mget 7 ((P []).core 0).sampled 0 < 8) := by
  refine ⟨?_, ⟨noWait_of ?_, ?_, ?_, ?_, ?_⟩, ⟨noWait_of ?_, ?_, ?_, ?_⟩, ⟨noWait_of ?_, ?_⟩, ?_, ⟨distinct_of ?_, ?_⟩, ?_⟩ <;> decide +kernel
/-- 10 R209, 09 R172, R193; 14 R269; 16 R311; 17 R323, R340; 18 R361: what each step leaves, and that it waits for its condition. -/
theorem test_thread_events :
    let s := P []
    let tid := s.thr.id
    let t (i : Instr) (s : State) : State := match exec i s with | .next u => u | _ => {}
    let q := withT s (fun t => { t with queue := [⟨0, cellsAt 0x1000 [1], []⟩] })
    let h (n : Nat) := hailed (withT s (fun t => { t with hailCount := n }))
    (t (.waitvReread tid) (withM (watching s) (sharedKey 0 0 0x40) [9])).thr.status = .ready ∧ t (.waitvReread tid) (watching s) = watching s ∧
    ((t (.loadDataReturn tid) (withM (withT s (fun t => { t with pending := [Ld1] })) (sharedKey 0 0 0x40) [7])).thr.sReg 1 = 7 ∧
      (t (.resultWriteback tid) (withT s (fun t => { t with pending := [Rs1] }))).thr.sReg 1 = 9 ∧ (t (.loadDataReturn tid) (withT s (fun t => { t with pending := [Rs1] }))).thr.sReg 1 = 0) ∧
    (rdByte (t (.storePerform tid) q).mem 0x1000 = 1 ∧ (t (.storePerform tid) q).thr.queue = []) ∧
    ((t (.asyncTrapDelivery tid) (withT s (fun t => { t with held := [{ cause := 0x72, async := true }] }))).thr.status = .retiring) ∧
    ((t (.handlerInstructionLimit tid) (h 511)).thr.status ≠ .absent ∧ (t (.handlerInstructionLimit tid) (h 512)).thr.status = .absent) ∧
    ((t (.supervisorWatchdog tid) (withT s (fun t => { t with service := some { count := 65536 } }))).thr.status = .retiring) ∧
    ((t (.starvationGuard 0 0) (withT s (fun t => { t with sched := { t.sched with starve := 64 } }))).thr.sched.starve = 0) ∧
    ((t (.groupSlotFree tid) (withT s (fun t => { t with status := .retiring }))).threads = []) := by decide +kernel

/-- Teams to be placed: the launch's first has not been, with a span. -/
def placing (span teams : Nat) (s : State) : State :=
  { s with
    teams := s.teams.map (fun p => (p.1, { p.2 with units := [] }))
    launches := s.launches.map (fun p => (p.1, { p.2 with next := 0, teams := teams, kernel := { p.2.kernel with span := span, shared := 0 } })) }
/-- The team of the group in a state, with no unit of shared memory; and one that asks for more than a core has. -/
def teamed (st : TeamState) (s : State) : State := { s with teams := s.teams.map (fun p => (p.1, { p.2 with state := st, units := [] })) }
def crowded : State := { teamed .woken (P []) with teams := (teamed .woken (P [])).teams.map (fun p => (p.1, { p.2 with kernel := { p.2.kernel with shared := 1024 * 1025 } })) }
theorem witness_team_events :
    let s := P []
    let tm := s.team 1
    let plain (tm : Team) : Prop := tm.ctx < 64 ∧ tm.core < 160 ∧ tm.kernel.shared ≤ 1048576 ∧ ∀ u ∈ tm.units, u < 1024
    (nextUnit s 0).isNone = true ∧
    ((nextUnit (placing 1 1 s) 0).any (fun x => x.1 == 0 && x.2.1 == 1 && ((placing 1 1 s).launch x.2.1).kernel.span == 1) = true) ∧
    ((nextUnit (placing 2 2 s) 0).any (fun x => ((placing 2 2 s).launch x.2.1).kernel.span == 2) = true) ∧
    s.teams.any (fun p => p.1 == 1) = true ∧
    (plain ((teamed .swapping s).team 1) ∧ (teamed .swapping s).memoryWf ∧ s.hasCtx tm.ctx = true) ∧
    (tm.uid = 1 ∧ DistinctThreads (teamed .woken s) ∧ (admits (teamed .woken s) 0 tm.kernel tm.live false).isSome = true) ∧
    ((crowded.team 1).state = .woken ∧ admits crowded (crowded.team 1).core (crowded.team 1).kernel (crowded.team 1).live false = none) ∧
    ((s.core 0).serves.getD 63 < 64 ∧ (s.core 1).serves.getD 63 < 64 ∧ (s.core 0).serves = some 0 ∧ (s.core 1).serves = none) := by
  refine ⟨?_, ?_, ?_, ?_, ⟨?_, wf_of ?_, ?_⟩, ⟨?_, distinct_of ?_, ?_⟩, ?_, ?_⟩ <;> decide +kernel
/-- 14 R259, R272-R275; 17 R350, R397: a team placed and its group ready, a team that has waited long swapped out, and a core that goes to
another context with work. -/
theorem test_team_events :
    let s := P []
    let t (i : Instr) (s : State) : State := match exec i s with | .next u => u | _ => {}
    let p := t (.placeTeam 0) (placing 1 1 s)
    let w : State := { withC (withT s (fun t => { t with status := .waiting (.tx 3 0) })) (fun c => { c with swapFrames := List.range 64 }) with clock := 20000, cores := (barred s 1).cores }
    let two : State := { s with
      ctxs := s.ctxs ++ [(5, { cores := [0] })], teams := s.teams ++ [(2, { uid := 2, ctx := 5 })], hub := { s.hub with gts := 1000000 } }
    (p.teams.length = 2 ∧ p.parked.length = 1 ∧ (p.launch 1).next = 1 ∧ t (.placeSpan 0) (placing 1 1 s) = placing 1 1 s) ∧
    ((t (.swapOut 1) w).team 1).state = .swapping ∧ t (.swapOut 1) { w with clock := 19999 } = { w with clock := 19999 } ∧
    (((t (.swapOutComplete 1) (teamed .swapping w)).team 1).state = .swapped ∧ ((t (.readmission 1) (teamed .woken s)).team 1).state = .resident) ∧
    (((t (.contextTimeslice 0) two).core 0).switching = some 5 ∧ t (.contextTimeslice 0) { two with hub := { two.hub with gts := 999999 } } = { two with hub := { two.hub with gts := 999999 } }) ∧
    (((t (.contextSwitch 0) { s with cores := [(0, { serves := some 0, switching := some 5 })] }).core 0).serves = none) ∧
    (((t (.contextRestore 0) { s with cores := [(0, { switching := some 5 })] }).core 0).serves = some 5) := by decide +kernel

/-- The engine command 4 of the group. -/
def working (w : Work) (g : Cmd → Cmd := id) (s : State := P []) : State :=
  { s with cmds := [(4, g { id := 4, uid := 1, tid := s.thr.id, work := w, started := true })] }
/-- A copy of 64 bytes from VA 0x40_0000_1000 to shared memory, and a read of one burst of 8 bytes. -/
def copy64 (dst : Word) : Work := .copy dst 0x4000001000 [2, 0x0001000100010010, 0, 0, 0, 0, 0, 0] none
def read8 : Work := .hread [(0x4000001000, 8, 0, 0)] 77 0x4000000040
/-- A burst of 8 bytes has returned, and the image has a handler. -/
def returned : State :=
  { reading (working read8 (fun c => { c with mark := 1 })) with cores := [(0, { serves := some 0, buffer := [{ cmd := 4, addr := 0x4000001000, data := [1, 0, 0, 0, 2, 0, 0, 0] }] })] }
/-- A copy waits for the page at VA 0x40_0001_0000, which is mapped at first touch, with frame 9 in the pool. -/
def suspended : State :=
  withC (working (copy64 0x4000010000) (fun c => { c with suspended := some 0x400001, tid := 99 })) (fun c => { c with leaf := [(0x400001, 0x20)], poolFrames := [9] })
/-- Node 0's copy has ended, and node 1 comes after it. -/
def finished : State :=
  { working (copy64 0x100) (fun c => { c with node := some 0, done := true }) with nodes := [(0, { kind := some 1, started := true, succ := [1] }), (1, { kind := some 0, cnt := 1 })] }
theorem witness_engine_events :
    let c (s : State) : Cmd := s.cmd 4
    let key (s : State) (write : Bool) (p : Word) : Bool := (engineReach s 0 0 1 write 0 p 1).toOption.isSome && (p.extractLsb' 0 55).toNat < 2 ^ 54
    let k := working (copy64 0x100)
    let bad := working (copy64 0x1000000)
    let rd := working read8
    let asked := working read8 (fun c => { c with asked := [(0, [0x1000])] })
    ((c k).id = 4 ∧ NoWait k ∧ (c k).remote = false ∧ ((c k).sectors[0]?).any (fun x => x.2.length == 32 && x.2.all (fun m => key k true m.dst && m.src.all (key k false))) = true) ∧
    ((c bad).remote = false ∧ (nextFailure bad (c bad)).any (fun x => x.2 != 0x3A) = true) ∧
    ((c k).remote = false ∧ nextFailure k (c k) = none) ∧
    ((c rd).work = .hread [(0x4000001000, 8, 0, 0)] 77 0x4000000040 ∧ [((0x4000001000 : Word), 8, 0, 0)][(c rd).mark]? = some (0x4000001000, 8, 0, 0) ∧
      ∀ i, i < 8 → (engineReach rd 0 0 1 false 0 (0x4000001000 + BitVec.ofNat 64 i) 1).toOption = some (0x1000 + i)) ∧
    (c asked).asked.find? (fun a => a.1 == 0) = some (0, [0x1000]) ∧
    ((returned.core 0).buffer.length = 1 ∧ (returned.team 1).state = .resident ∧ freeHailSlot returned 0 = some (0, 0) ∧
      (handlerAt (returned.ctx 0) 0x4000000040 0x4000000040).isSome = true) ∧
    ((c suspended).suspended = some 0x400001 ∧ suspended.hasCmd 4 = true ∧ (c suspended).failed = false ∧ suspended.hasCtx 0 = true ∧
      takesService suspended 99 = false ∧ (suspended.thread? 99).isNone = true ∧ (mget 0 (suspended.ctx 0).leaf 0x400001).getLsbD 5 = true) ∧
    ((∀ x ∈ k.cmds, x.2.node ≠ some 0 ∨ x.2.done = false) ∧ finished.hasCmd 4 = true ∧ (c finished).node = some 0 ∧ (c finished).done = true ∧
      (finished.node 0).succ.Nodup ∧ 0 ∉ (finished.node 0).succ ∧ ∀ j ∈ (finished.node 0).succ, (finished.node j).armed = false) := by
  refine ⟨⟨?_, noWait_of ?_, ?_, ?_⟩, ?_, ?_, ?_, ?_, ?_, ?_, ?_⟩ <;> decide +kernel
/-- The state after an event. -/
def nx (i : Instr) (s : State) : State := match exec i s with | .next u => u | _ => {}
/-- 09 R185, R189-R192; 10 R218; 17 R341, R342: a sector moved, a fault, a burst requested, returned and born, a page mapped, an arrival, a node
ended. -/
theorem test_engine_events :
    let t := nx
    let k := withM (working (copy64 0x100)) 0x1000 [0x11, 0x22]
    let rd := working read8
    ((t (.engineCommandStart 4) (working (copy64 0x100) (fun c => { c with started := false }))).cmd 4).started = true ∧
    (rdByte (t (.copySectorPerform 4) k).mem (sharedKey 0 0 0x101) = 0x22 ∧ ((t (.copySectorPerform 4) k).cmd 4).mark = 1) ∧
    (((t (.engineFault 4) (working (copy64 0x1000000))).cmd 4).failed = true ∧ t (.engineFault 4) k = k) ∧
    (((t (.hailBurstRequest 4) rd).cmd 4).asked = [(0, [0x1000, 0x1001, 0x1002, 0x1003, 0x1004, 0x1005, 0x1006, 0x1007])]) ∧
    (((t (.hailBurstReturn 4 0) (withM (working read8 (fun c => { c with asked := [(0, [0x1000])] })) 0x1000 [5])).core 0).buffer.map (·.data) = [[5]]) := by decide +kernel
theorem test_engine_ends :
    let t := nx
    let born := (t (.hailThreadBirth 0) returned).parked
    (born.map (fun g => (g.name.hail, g.m0, g.sReg 1, g.sReg 2, g.vReg 0 1, g.pc)) = [(true, 3, 0x4000001000, 77, 2, 0x4000000040)]) ∧
    (mget 0 ((t (.hubFirstTouchService 4) suspended).ctx 0).leaf 0x400001 = 0x90001 ∧ ((t (.hubFirstTouchService 4) suspended).cmd 4).suspended = none) ∧
    (((t (.engineCompletionArrival 4) (working (copy64 0x100) (fun c => { c with bar := ref3, sectorsDone := true }) (barred (P []) 1 2))).bar 0 3).pend = 0) ∧
    (((t (.graphNodeFinish 0 0) finished).node 1).cnt = 0 ∧ ((t (.graphNodeFinish 0 0) finished).node 0).kind = none) := by decide +kernel

/-- The clauses of the events' statements on private stacks: a context whose stacks lie in its slice, with one group, before a swap-out
ends, before a switch, and before a restore; and a load, a tile load and a step of the debugger at their event. -/
theorem witness_events_of_one_group :
    let d (s : State) : State := withC s (fun c => { c with word := 4096 })
    let groups (s : State) : List Thread := s.threads.filter (fun t => t.name.uid == 1 && !t.name.hail)
    let sane (g : Thread) : Prop := g.place.core < 160 ∧ g.place.part < 8 ∧ g.place.slot < 8 ∧ g.id < 2 ^ 32
    let alone (s : State) : Prop := groups s = [s.thr] ∧ s.thr.name.group < 32 ∧ sane s.thr ∧ (s.ctx 0).word.getLsbD 12 = true
    let tl : Pend := { work := .tload false 32 [⟨0, [(0, 0)]⟩, ⟨32, [(0, 32)]⟩] [] [] [], left := 0, reads := [], writes := [] }
    (alone (d (teamed .swapping (P []))) ∧ ((d (teamed .swapping (P []))).team 1).uid < 2 ^ 44 ∧ (∀ p ∈ (d (P [])).thr.pending, p.work = .done)) ∧
    (alone (d (P [])) ∧ seated (d (P [])) 0 0 = [(d (P [])).thr] ∧ DistinctThreads (d (P [])) ∧ (d (P [])).hasCtx 0 = true) ∧
    (let r : State := { d (P []) with cores := [(0, { switching := some 0 })] }
     (r.core 0).serves = none ∧ seated r 0 0 = [r.thr]) ∧
    (let u := (withT (P []) (fun t => { t with pending := [tl] })).focus (P []).thr.id
     NoWait u ∧ u.thr.pending = [] ++ tl :: [] ∧ tl.work ≠ .done ∧ tl.loads = true) ∧
    (let u := (withT (P []) (fun t => { t with stepDone := true })).focus (P []).thr.id
     u.thr.held = [] ∧ u.thr.routine = none ∧ (u.core u.thr.place.core).switching = none ∧ u.thr.status = .ready) := by
  refine ⟨?_, ⟨?_, ?_, distinct_of ?_, ?_⟩, ?_, ⟨noWait_of ?_, ?_, ?_, ?_⟩, ?_⟩ <;> decide +kernel
/-- 09 R179; 08 R150: sectors of a load arrive one by one, the lowest of a tile load first; 17 R324, 18 R365: a halted group's
trap state, and its step. -/
theorem test_sectors_and_steps :
    let tid := (P []).thr.id
    let t (i : Instr) (s : State) : State := match exec i s with | .next u => u | _ => {}
    let tl : Pend := { work := .tload false 32 [⟨0x1000, [(0, 0)]⟩, ⟨0x1020, [(0, 32)]⟩] [] [] [], left := 0, reads := [], writes := [] }
    let s := withM (withT (P []) (fun t => { t with pending := [tl] })) 0x1000 (9 :: List.replicate 31 0 ++ [8])
    let h := t (.asyncTrapDelivery tid) (withT (P []) (fun t => { t with stepDone := true }))
    ((t (.loadDataReturn tid) s).thr.tileByte 0 0 0 = 9 ∧ (t (.loadDataReturn tid) s).thr.tileByte 0 1 0 = 0 ∧
      (t (.loadDataReturn tid) (t (.loadDataReturn tid) s)).thr.tileByte 0 1 0 = 8) ∧
    h.thr.status = .halted ∧ h.thr.trap.cause = 0x7A ∧ h.thr.trap.tpc = 0x4000000000 := by decide +kernel

/-! ### Completion -/

/-- A thread that is ready, and threads of different identities. -/
abbrev free (u : State) : Prop := u.thr.status = .ready ∧ (u.threads.map (·.id)).Nodup
/-- Every check of a list, as one condition. -/
def AllHold (l : List (Prop × TrapInfo)) : Prop := l.foldr (fun c p => c.1 ∧ p) True
theorem each_holds {l : List (Prop × TrapInfo)} (h : AllHold l) : ∀ c ∈ l, c.1 := by
  induction l with
  | nil => exact fun _ h => nomatch h
  | cons a l ih => exact List.forall_mem_cons.mpr ⟨h.1, ih h.2⟩
theorem witness_instructions_complete_registers :
    let f : Fields := { F with ext := true, d := 1, a := 2, bk := 3, c := 3, et := 6 }
    let g : Fields := { f with fc := 2, lit := 0x06000000, ck := 2, mo := 3, rs := 5, ahead := 3 }
    let reaches (f : Fields) (x : State) : Prop := ∀ l ∈ addressed (f.fc == 2) f x.thr, countsIn x.thr l = true →
      let a := access x x.thr .atomic (baseOf x.thr f (l.getD 0)) ((if f.bk = 3 then 0 else x.thr.wide f.bk.toNat f.b.toNat (l.getD 0)) +
        (f.lit.extractLsb' 0 24).signExtend 64) 4 4
      a.2.toOption.isSome = true ∧ watchHits x x.thr .atomic a.1 4 = []
    (∀ x ∈ [(0x60, { V with b := 8, bk := 3, et := 9 }), (0x6F, { V with b := 5, bk := 3 }), (0x70, { V with b := 3, bk := 3 })],
      Meets x.1 x.2 (P []) (fun u => free u ∧ u.thr.fpmode.extractLsb' 2 5 = 0)) ∧
    Meets 0xC0 f (P addrs).roomForLoad (fun u => free u ∧ reaches f u) ∧ Meets 0xC0 g (P addrs).roomForLoad (fun u => free u ∧ reaches g u) ∧
    Meets 0xC1 { f with a := 0, ak := 3 } (handled (P addrs)).roomForLoad (fun u => free u ∧ reaches { f with a := 0, ak := 3 } u) := by
  refine ⟨all_meet ?_, meets ?_ ?_, meets ?_ ?_, meets ?_ ?_⟩ <;> decide +kernel
theorem witness_instructions_complete_barriers :
    let j : Fields := { F with bk := 3, b := 3 }
    let a : Fields := { F with a := 2 }
    let q (pend : Nat) : State := barred (P [.s 2 ref3 false]) pend
    let bar (u : State) : TxBar := u.bar u.thr.place.core ((u.thr.sReg 2).extractLsb' 0 8).toNat
    let valid (u : State) : Prop := (u.thr.sReg 2).extractLsb' 8 8 = 0 ∧ (u.thr.sReg 2).extractLsb' 24 8 = 0 ∧
      ((u.thr.sReg 2).extractLsb' 16 8).toNat = u.thr.place.core ∧ ((u.thr.sReg 2).extractLsb' 32 32).toNat = (bar u).gen ∧ (bar u).refs ≠ 0 ∧
      (bar u).owner = u.thr.name.uid ∧ (bar u).held = true
    let p : Fields := { F with ak := 3 }
    Meets 0xC3 j (two (P []) .ready 0) (fun u => free u ∧ u.thr.name.hail = false) ∧
    Meets 0xC4 j (two (P []) .ready 0) (fun u => free u ∧ u.thr.name.hail = false ∧ 1 < (u.team u.thr.name.uid).kernel.span) ∧
    Meets 0xC6 { F with d := 1, c := 2, ck := 3 } (P []) (fun u => free u ∧ ∃ i < 256, (u.bar u.thr.place.core i).refs = 0) ∧
    Meets 0xC7 { a with bk := 3, b := 1 } (q 16777214) (fun u => free u ∧ valid u ∧ (bar u).pend + 1 ≤ 16777215) ∧
    Meets 0xC8 { a with bk := 3, b := 4 } (q 4) (fun u => free u ∧ valid u ∧ 4 ≤ (bar u).pend) ∧
    Meets 0xC9 a (q 0) (fun u => free u ∧ u.thr.name.hail = false ∧ valid u ∧ (bar u).pend = 0) ∧
    Meets 0xCA a (q 0) (fun u => free u ∧ valid u) ∧
    Meets 0xCB p (handled (P []) 0xF) (fun u => free u ∧ (u.team u.thr.name.uid).binds[0]? = some 9 ∧ (entryWord u 9 3).getLsbD 0 = true ∧
      (entryWord u 9 3).getLsbD 2 = true ∧ (entryWord u 9 3).getLsbD 3 = true ∧ u.cmds = [] ∧ u.thr.queue = [] ∧ ∀ p ∈ u.thr.pending, p.loads = false) := by
  refine ⟨meets ?_ ?_, meets ?_ ?_, meets ?_ ?_, meets ?_ ?_, meets ?_ ?_, meets ?_ ?_, meets ?_ ?_, meets ?_ ?_⟩ <;> decide +kernel
/-- The checks of copies, `BSTORE` and hail reads before their barrier's, each list as one condition. -/
theorem bcopyR_checks {f : Fields} {u : State} (h : u.thr.name.hail = false ∧ (u.ctx u.thr.name.ctx).regLayout = true)
    (c : ∀ c ∈ copyChecks u (u.thr.sReg f.d.toNat) (u.thr.sReg f.a.toNat) (layoutWords f u) (u.thr.sReg f.c.toNat) none, c.1) :
    ∀ c ∈ bcopyRChecks f u, c.1 := List.forall_mem_append.mpr ⟨each_holds ⟨h.1, h.2, trivial⟩, c⟩
theorem bcopy_checks {f : Fields} {u : State} {w : List Word} (h : u.thr.name.hail = false ∧ (u.ctx u.thr.name.ctx).regLayout = false)
    (r : (readRecord u (u.thr.sReg f.b.toNat)).toOption = some w)
    (c : ∀ c ∈ copyChecks u (u.thr.sReg f.d.toNat) (u.thr.sReg f.a.toNat) (layoutRecord f u) (u.thr.sReg f.c.toNat) none, c.1) :
    ∀ c ∈ bcopyChecks f u, c.1 := List.forall_mem_append.mpr ⟨each_holds ⟨h.1, h.2, ⟨w, ok_of r⟩, trivial⟩, c⟩
theorem bcopyS_checks {f : Fields} {u : State} {e : Nat} (h : u.thr.name.hail = false ∧ (u.ctx u.thr.name.ctx).regLayout = true)
    (p : shadowBind f u = some e ∧ (handleWord u (u.team u.thr.name.uid).ctx e 3).getLsbD 0 = true ∧
        (entryWord u e 3).getLsbD 3 = true ∧ (entryWord u e 3).getLsbD 2 = true)
    (c : ∀ c ∈ copyChecks u (shadowPointer f u) (u.thr.sReg f.a.toNat) (shadowLayout f u) (u.thr.sReg f.c.toNat) (shadowBind f u), c.1) :
    ∀ c ∈ bcopySChecks f u, c.1 := by
  refine List.forall_mem_append.mpr ⟨List.forall_mem_append.mpr ⟨List.forall_mem_append.mpr ⟨each_holds ⟨h.1, trivial⟩, ?_⟩,
      each_holds ⟨⟨e, p⟩, trivial⟩⟩, c⟩
  rw [if_pos h.2]
  exact fun _ x => nomatch x
theorem bstore_checks {f : Fields} {u : State} (h : let p := (bstoreBase f u).1
      let lo := (p.extractLsb' 0 55).toNat
      let x : Span := { p := p, lo := lo, hi := lo + bstoreLen f u }
      u.thr.name.hail = false ∧ (∀ r ∈ (usesOf 0xAB f false).reads, poisonedWhole u.thr r = false) ∧ (bstoreBase f u).2.1 = none ∧
      cmdLayout u.thr f x = none ∧ lo % etBytes f.et.toNat = 0 ∧ x.aperture = none ∧ (bstoreBase f u).2.2 = none ∧ x.owned u u.thr = none)
    (b : ∀ c ∈ barrierChecks u (u.thr.sReg f.c.toNat) (bstoreBase f u).1, c.1) : ∀ c ∈ bstoreChecks f u, c.1 := by
  obtain ⟨h1, h2, h3, h4, h5, h6, h7, h8⟩ := h
  exact List.forall_mem_append.mpr ⟨each_holds ⟨h1, h2, h3, h4, h5, h6, h7, h8, trivial⟩, b⟩
theorem hread_checks {f : Fields} {u : State} (h : let p := (hreadBase f u).1
      let n := hreadLen f u
      u.thr.name.hail = false ∧ (hreadBase f u).2.1 = none ∧
      (handlerAt (u.ctx u.thr.name.ctx) u.thr.pc.toNat (hailTarget f u).toNat).isSome = true ∧ cmdLayout u.thr f (segmentSpan p n) = none ∧
      (n % 4 = 0 ∧ n ≤ 16777216) ∧ (p.extractLsb' 0 55).toNat % 4 = 0 ∧ (segmentSpan p n).hailAperture = none ∧ (hreadBase f u).2.2 = none)
    (b : ∀ c ∈ barrierChecks u (u.thr.sReg f.d.toNat) (hreadBase f u).1, c.1) : ∀ c ∈ hreadChecks f u, c.1 := by
  obtain ⟨h1, h2, h3, h4, h5, h6, h7, h8⟩ := h
  exact List.forall_mem_append.mpr ⟨each_holds ⟨h1, h2, Option.isSome_iff_exists.mp h3, h4, h5, h6, h7, h8, trivial⟩, b⟩
theorem hreadV_checks {f : Fields} {u : State} (h : u.thr.name.hail = false ∧ (cmdBase u u.thr f 0 0 1).2.1 = none ∧
      (handlerAt (u.ctx u.thr.name.ctx) u.thr.pc.toNat (hailTarget f u).toNat).isSome = true ∧ hreadVLen f u % 4 = 0 ∧ hreadVLen f u ≤ 4096)
    (g : ∀ l ∈ hreadVLanes f u, cmdLayout u.thr f (segmentSpan (hreadVBase f u l).1 (hreadVLen f u)) = none ∧
      ((hreadVBase f u l).1.extractLsb' 0 55).toNat % 4 = 0 ∧ (segmentSpan (hreadVBase f u l).1 (hreadVLen f u)).hailAperture = none ∧
      (hreadVBase f u l).2.2 = none)
    (b : ∀ c ∈ barrierChecks u (u.thr.sReg f.d.toNat) 0, c.1) : ∀ c ∈ hreadVChecks f u, c.1 := by
  obtain ⟨h1, h2, h3, h4, h5⟩ := h
  have lane {q : Nat → Prop × TrapInfo} (k : ∀ l ∈ hreadVLanes f u, (q l).1) : ∀ c ∈ (hreadVLanes f u).map q, c.1 :=
    List.forall_mem_map.mpr k
  unfold hreadVChecks
  simp only [List.forall_mem_append]
  exact ⟨⟨⟨⟨⟨⟨each_holds ⟨h1, h2, Option.isSome_iff_exists.mp h3, trivial⟩, lane fun l hl => (g l hl).1⟩, each_holds ⟨⟨h4, h5⟩, trivial⟩⟩,
    lane fun l hl => (g l hl).2.1⟩, lane fun l hl => (g l hl).2.2.1⟩, lane fun l hl => (g l hl).2.2.2⟩, b⟩
theorem witness_instructions_complete_engines :
    let r : Fields := { F with d := 1, a := 2, b := 8, c := 4, rs := 2 }
    let e : Fields := { F with d := 2, a := 1, b := 10, bk := 2, c := 4, et := 6, fc := 2 }
    let v : Fields := { Hr with b := 5, bk := 2, c := 2, fc := 2 }
    Meets 0xA9 r (copying (P [])) (fun u => free u ∧ ∀ c ∈ bcopyRChecks r u, c.1) ∧
    Meets 0xA8 { r with b := 3 } (sealed (P [])) (fun u => free u ∧ ∀ c ∈ bcopyChecks { r with b := 3 } u, c.1) ∧
    Meets 0xAA { r with d := 0 } (copying (handled (P []) 0xF)) (fun u => free u ∧ ∀ c ∈ bcopySChecks { r with d := 0 } u, c.1) ∧
    Meets 0xAB e (copying (P [])) (fun u => free u ∧ ∀ c ∈ bstoreChecks e u, c.1) ∧
    Meets 0xAC Hr (reading (P [])) (fun u => free u ∧ ∀ c ∈ hreadChecks Hr u, c.1) ∧
    Meets 0xAD v (reading (P [.s 3 64 false])) (fun u => free u ∧ ∀ c ∈ hreadVChecks v u, c.1) ∧
    Meets 0xAE F (hailed (P [])) (fun u => free u ∧ u.thr.name.hail = true) := by
  refine ⟨meets ?_ ⟨?_, bcopyR_checks ?_ ?_⟩, meets ?_ ⟨?_, bcopy_checks (w := [2, 0x0001000100010010, 0, 0, 0, 0, 0, 0]) ?_ ?_ ?_⟩,
    meets ?_ ⟨?_, bcopyS_checks (e := 9) ?_ ?_ ?_⟩, meets ?_ ⟨?_, bstore_checks ?_ ?_⟩, meets ?_ ⟨?_, hread_checks ?_ ?_⟩,
    meets ?_ ⟨?_, hreadV_checks ?_ ?_ ?_⟩, meets ?_ ?_⟩
  all_goals first
    | decide +kernel
    | exact copy_checks (by decide +kernel) (barrier_checks (by decide +kernel))
    | exact barrier_checks (by decide +kernel)
theorem witness_instructions_complete_units :
    let g : Fields := { F with d := 1, a := 2, c := 4, ck := 3 }
    let bs (o : Nat) : List Byte := rdBytes (graphed (P [])).mem (sharedKey 0 0 o) 128
    let reads (x : State) (r : BitVec 7) (o : Nat) : Prop := (slotRead x.finishAll (x.finishAll.thr.sReg r.toNat) 8 16).toOption = some (bs o) ∧
      (slotRead x.finishAll (BitVec.ofNat 64 (ofBytes (((bs o).drop 0x28).take 8))) 2 0).toOption = some [] ∧ nodeShape (bs o) = true
    let e : Fields := { F with a := 2, b := 3, c := 4, ck := 3 }
    let node (x : State) (r : Word) : Node := x.node ((r.extractLsb' 12 3).toNat * 4096 + (r.extractLsb' 0 12).toNat)
    let sound (r : Word) : Prop := r.extractLsb' 15 17 = 0 ∧ (r.extractLsb' 12 3).toNat ≤ 3
    let live (x : State) (r : Word) : Prop := (node x r).kind ≠ none ∧ (node x r).gen = (r.extractLsb' 32 32).toNat ∧ (node x r).ctx = x.thr.name.ctx
    let c : Fields := { F with d := 1, a := 2, b := 3, c := 4, ck := 3 }
    Meets 0xD0 g (graphed (P [])) (fun u => (free u ∧ u.thr.name.hail = false ∧ reads u 2 0x300 ∧ (u.finishAll.node 0).kind = none ∧
      u.finishAll.hub.mode = false) ∧ ∀ c ∈ barrierChecks u.finishAll ref3 0, c.1) ∧
    Meets 0xD0 { g with a := 3 } (graphed (P [])) (fun u => (free u ∧ u.thr.name.hail = false ∧ reads u 3 0x400 ∧ (u.finishAll.node 0).kind = none ∧
      u.finishAll.hub.mode = false ∧ nodeCopyOk u.finishAll u.finishAll.thr false (bs 0x400) = true) ∧ ∀ c ∈ barrierChecks u.finishAll 0 0, c.1) ∧
    Meets 0xD1 e (edged (P []) 0 {} {}) (fun u => free u ∧ u.thr.name.hail = false ∧ sound (u.thr.sReg 2) ∧ sound (u.thr.sReg 3) ∧ live u (u.thr.sReg 3) ∧
      (node u (u.thr.sReg 3)).armed = false ∧ u.thr.sReg 2 ≠ u.thr.sReg 3 ∧ (node u (u.thr.sReg 2)).succ.length < 16) ∧
    Meets 0xD2 { F with a := 2 } (edged (P []) 0 {} {}) (fun u => free u ∧ u.thr.name.hail = false ∧ sound (u.thr.sReg 2) ∧ live u (u.thr.sReg 2) ∧
      (node u (u.thr.sReg 2)).armed = false) ∧
    Meets 0xD4 c (collected (P [])) (fun u => (free u ∧ u.thr.name.hail = false ∧ (slotRead u.finishAll (u.finishAll.thr.sReg 2) 8 8).toOption = some collBytes ∧
      collOk u.finishAll 0 collBytes = true ∧ (∀ x ∈ collSpans u.finishAll 0 collBytes, x.collective = none) ∧ (ticketsUsed u.finishAll 0).length < 256) ∧
      ∀ c ∈ barrierChecks u.finishAll ref3 0, c.1) ∧
    Meets 0xD5 { c with b := 0 } (ticketed (P []) false) (fun u => free u ∧ (u.thr.sReg 2).toNat ∈ (u.team u.thr.name.uid).tickets ∧ (u.thr.sReg 2).toNat ≠ 0 ∧
      ∃ p ∈ u.colls, p.2.ctx = u.thr.name.ctx ∧ p.2.ticket = (u.thr.sReg 2).toNat) := by
  refine ⟨meets ?_ ⟨?_, ?_⟩, meets ?_ ⟨?_, ?_⟩, meets ?_ ?_, meets ?_ ?_, meets ?_ ⟨?_, ?_⟩, meets ?_ ?_⟩
  all_goals first
    | decide +kernel
    | exact barrier_checks (by decide +kernel)
/-- A sum in residual mode, with FP16 on the wire and the residual at VA 0x40_0000_1020; outside that mode as `joint`. -/
def residBytes : List Byte := [0, 1, 8, 9, 0, 0, 0xFF, 0xFF] ++ toBytes 4 1 ++ [0, 0, 0, 0] ++ toBytes 8 0x4000001000 ++ toBytes 8 0x4000001010 ++
  toBytes 8 0x4000001020 ++ List.replicate 24 0
def residual : State :=
  { joined true with colls := [(7, { joint with desc := residBytes })], contribs := [{ dev := 1, desc := residBytes, data := [0, 0x40, 0] }] }
theorem witness_instructions_complete_collectives :
    let meets (s : State) (x : Coll) (src rho : List Byte) : Prop :=
      let d := x.desc
      let at_ (p : Word) (j : Nat) : Word := p + BitVec.ofNat 64 j
      let near (p : Word) : Prop := ∀ j, j < 4 → ((at_ p j).extractLsb' 0 55).toNat < 2 ^ 54
      let reads (p : Word) (bytes : List Byte) : Prop := near p ∧ bytes.length = 4 ∧
        ∀ j, j < 4 → (engineByte s x.cmd 0 (at_ p j) x.id).toOption = some (bytes.getD j 0, false)
      let writes (p : Word) : Prop := near p ∧ ∀ j, j < 4 → (engineKey s x.cmd 0 (at_ p j)).toOption.isSome = true
      s.colls = [(7, x)] ∧ x.id = 7 ∧ x.done = false ∧ (s.core x.cmd.core).serves = some x.ctx ∧ earlierDone s x.cmd.tid x.cmd.ord = true ∧
      (∀ dev ∈ commOf s x.ctx x.comm, dev ≠ s.hub.devnum.toNat → linkFailed s.hub dev = false ∧
        fencePasses s.hub (portTo s.hub dev) (some x.ctx) dev (((collDst d).extractLsb' 0 55).toNat % 2 ^ 42) 4 = true ∧
        (contribution? s x dev).any (fun c => collMatch d c.desc && !c.poison) = true) ∧
      collCount d * etBytes (collEt d) = 4 ∧ reads (collSrc d) src ∧ (collResidual d = true → reads (collResid d) rho ∧ writes (collResid d)) ∧
      writes (collDst d)
    meets (joined true) joint (toBytes 4 0x3F800000) [] ∧ meets residual { joint with desc := residBytes } (toBytes 4 0x3F800000) [0, 0, 0, 0] ∧
    collResidual residBytes = true ∧ collOk residual 0 residBytes = true := by
  refine ⟨⟨?_, ?_, ?_, ?_, ?_, ?_, ?_, ?_, ?_, ?_⟩, ⟨?_, ?_, ?_, ?_, ?_, ?_, ?_, ?_, ?_, ?_⟩, ?_⟩ <;> decide +kernel
/-- 06 R120: 1.0 with no residual and the peer's 2.0 sum to 3.0, and the collective ends with CODE 0. -/
theorem test_residual_completion :
    let s := out (.collCompletion 7 []) residual
    rdBytes s.mem 0x1010 4 = toBytes 4 0x40400000 ∧ s.colls.map (fun p => (p.2.done, p.2.code)) = [(true, 0)] := by decide +kernel

/-! ### Traps of enabled flags, of issue, of watch points and of the supervisor -/

/-- Some flag is raised whose trap is enabled. -/
def trapsB (f : Fields) (a : Thread) (fl : Option Nat → BitVec 5) : Bool :=
  (List.range 5).any (fun i => raised f a fl i && a.fpmode.getLsbD (2 + i))
theorem flag_of {f : Fields} {a : Thread} {fl : Option Nat → BitVec 5} (h : trapsB f a fl = true) : ¬ NoFlagTrap f a fl := by
  intro n
  obtain ⟨i, hi, h⟩ := List.any_eq_true.mp h
  simp only [Bool.and_eq_true] at h
  rw [n i (List.mem_range.mp hi) h.1] at h
  exact absurd h.2 Bool.false_ne_true
theorem flags_meet {L : List (Nat × Fields × (Thread → Option Nat → BitVec 5))} {s : State}
    (h : L.all (fun x => issuesB x.1 x.2.1 s && trapsB x.2.1 (s.issued x.1 x.2.1).thr (x.2.2 (s.issued x.1 x.2.1).thr)) = true) :
    ∀ x ∈ L, Meets x.1 x.2.1 s (fun u => ¬ NoFlagTrap x.2.1 u.thr (x.2.2 u.thr)) := by
  intro x hx
  have := List.all_eq_true.mp h x hx
  simp only [Bool.and_eq_true] at this
  exact meets this.1 (flag_of this.2)
/-- FPMODE traps every flag. -/
def trapping (s : State) : State := withT s (fun t => { t with fpmode := 0x7C })
/-- `s2`, `s3`, `s4` and a lane of `v4` hold a signalling NaN. -/
def nans : State := trapping (P [.s 2 0x7F800001 false, .s 3 0x7F800001 false, .s 4 0x7F800001 false, .v 257 0x7F800001 false])
theorem witness_enabled_flags :
    let A (f : Fields) (a : Thread) (l : Option Nat) : Nat := (a.opA f l).toNat
    let B (f : Fields) (a : Thread) (l : Option Nat) : Nat := (a.opB f l).toNat
    let C (f : Fields) (a : Thread) (l : Option Nat) : Nat := (a.opC f l).toNat
    let t (op : Nat) : Nat × Fields × (Thread → Option Nat → BitVec 5) :=
      (op, { U1 with et := 8 }, fun a l => (finishF 8 (a.rounding 0) 0 (transcend op (decEt 8 (A { U1 with et := 8 } a l)))).2)
    let u : Fields := { U with et := 8 }
    let v : Fields := { V with et := 8 }
    let c : Fields := { U with et := 8, c := 4 }
    let k (et : BitVec 4) : Fields := { U1 with et := et, b := 8, bk := 3 }
    let x (f : Fields) (a : Thread) (l : Option Nat) : FVal := decEt 8 (A f a l)
    let r (p : Nat → Bool) (a : Thread) : List Word :=
      ((List.range 64).filter (fun l => (a.sel { v with b := 0 }).getLsbD l && p l)).map (fun l => (a.lane 2 4 l).setWidth 64)
    ∀ y ∈ ([(0x40, u, fun a l => (fAdd 8 (a.rounding 0) (A u a l) (B u a l)).2), (0x40, v, fun a l => (fAdd 8 (a.rounding 0) (A v a l) (B v a l)).2),
        (0x41, u, fun a l => (fSub 8 (a.rounding 0) (A u a l) (B u a l)).2), (0x42, u, fun a l => (fMul 8 (a.rounding 0) (A u a l) (B u a l)).2),
        (0x43, c, fun a l => (fFma 8 (a.rounding 0) (A c a l) (B c a l) (C c a l)).2), (0x44, u, fun a l => (fMinMax 8 false (A u a l) (B u a l)).2),
        (0x45, v, fun a l => (fMinMax 8 true (A v a l) (B v a l)).2), (0x46, u, fun a l => (fCompare 8 0 (A u a l) (B u a l)).2),
        t 0x47, t 0x48, t 0x49, t 0x4A, t 0x4B, t 0x4C, t 0x4D,
        (0x4E, { c with et := 9 }, fun a l => (fFma 9 (a.rounding 0) (A c a l) (B c a l) (C c a l)).2 |||
          (fFma 9 (a.rounding 0) (A c a l / 65536) (B c a l / 65536) (C c a l / 65536)).2),
        (0x3A, c, fun a l => (fAdd 8 (a.rounding 0) (A c a l) (B c a l)).2 ||| (fMinMax 8 false (fAdd 8 (a.rounding 0) (A c a l) (B c a l)).1 (C c a l)).2),
        (0x60, k 2, fun a l => (toInt 2 (a.rounding 0) (x (k 2) a l)).2), (0x60, k 13, fun a l => (toE8m0 (a.rounding 0) (x (k 13) a l)).2),
        (0x60, k 9, fun a l => (toFloat 9 (a.rounding 0) 0 (x (k 9) a l)).2),
        (0x6F, { v with b := 0, bk := 3 }, fun a l => (combine 0 8 (a.rounding 0) false (r (fun p => p ≤ l.getD 0) a)).2),
        (0x70, { v with b := 0, bk := 3 }, fun a _ => (combine 0 8 (a.rounding 0) false (r (fun _ => true) a)).2)] :
          List (Nat × Fields × (Thread → Option Nat → BitVec 5))), Meets y.1 y.2.1 nans (fun w => ¬ NoFlagTrap y.2.1 w.thr (y.2.2 w.thr)) :=
  flags_meet (by decide +kernel)
/-- The scale that is no number, a marker in position 30 of a block, and a signalling NaN of E5M2 in a row of a product. -/
def unscaled : State := trapping (withT (packed 0) (fun t => (t.writes [.v 384 0xFF false])))
def marked : State := trapping (withT (packed 0) (fun t => { t with tiles := { t.tiles with t := [(tileKey 1 0 15, 8)] } }))
theorem witness_enabled_flags_of_tiles :
    let w (a : Thread) (i : Nat) : List Nat × BitVec 5 :=
      if (a.vReg 6 i).toNat % 256 = 255 then (List.replicate 32 0, fIV) else ([], 0)
    let d (a : Thread) (i : Nat) : List Nat × BitVec 5 := q4xDecode ((List.range 16).map (fun k => a.tileByte 1 i k)) ((a.vReg 6 i).toNat % 256)
    let e (u : State) : BitVec 5 := (mmaElem 8 16 0 none (rowVals u.thr 1 0 (u.thr.shape 1)).1 (rowVals u.thr 2 0 (u.thr.shape 2)).1 0 0).2
    let s := trapping (mats 32 12 0x7D 0x40)
    Meets 0x89 Qp unscaled (fun u => ¬ NoFlagTrap Qp u.thr (fun l => (w u.thr (l.getD 0)).2)) ∧
    Meets 0x8A Qp marked (fun u => ¬ NoFlagTrap Qp u.thr (fun l => (d u.thr (l.getD 0)).2)) ∧
    Meets 0x86 Tm s (fun u => ((e u ||| (if (rowVals u.thr 1 0 (u.thr.shape 1)).2 then 1 else 0)).getLsbD 0 = true ∧ u.thr.fpmode.getLsbD 2 = true)) ∧
    Meets 0x87 { Tm with c := 6, ck := 2 } s (fun u => (mmaElem 8 32 0 (some (fun c => (fMulV (e8m0Dec ((u.thr.vReg 6 0).toNat / 2 ^ (8 * c) % 256))
      (e8m0Dec ((u.thr.vReg 6 0).toNat / 2 ^ (16 + 8 * c) % 256))).1)) (rowVals u.thr 1 0 (u.thr.shape 1)).1 (rowVals u.thr 2 0 (u.thr.shape 2)).1
      0 0).2.getLsbD 0 = true ∧ u.thr.fpmode.getLsbD 2 = true) := by
  refine ⟨meets ?_ (flag_of ?_), meets ?_ (flag_of ?_), meets ?_ ?_, meets ?_ ?_⟩ <;> decide +kernel
theorem shortTraps_of {sop : Nat} {f : ShortFields} {t : Thread} (n : sop ≠ 0)
    (h : trapsB (shortFields sop f) t (fun l => (shortValue sop f t l).2) = true) (g : ¬ (0x14 ≤ sop ∧ sop ≤ 0x18)) : ¬ ShortRuns sop f t := by
  unfold ShortRuns
  rw [if_neg g]
  exact fun o => o.elim n (flag_of h)
theorem witness_enabled_flags_of_shorts :
    let p : ShortFields := { H with lead := true, fol := fol 0x01 9 0 0 3 }
    let q : ShortFields := { H with d := 9, lead := true, fol := fol 0x0F 3 0 2 0 }
    let a (sop : Nat) (f : ShortFields) : Thread := (nans.shortWaited sop f).thr
    (checkShort 0x0F H = none ∧ ShortClear 0x0F H 1 (a 0x0F H) ∧ ¬ ShortRuns 0x0F H (a 0x0F H)) ∧
    (ShortClear 0x0F p 1 (a 0x0F p) ∧ ¬ ShortRuns 0x0F p (a 0x0F p)) ∧
    (checkPair (0x01, q) (shortParts q.fol) = none ∧ ShortClear 0x01 q 1 (a 0x01 q) ∧ ShortClear 0x0F (shortParts q.fol).2 2 (a 0x01 q) ∧
      ShortRuns 0x01 q (a 0x01 q) ∧ ¬ ShortRuns 0x0F (shortParts q.fol).2 (a 0x01 q)) := by
  refine ⟨⟨?_, shortClear_of ?_, shortTraps_of ?_ ?_ ?_⟩, ⟨shortClear_of ?_, shortTraps_of ?_ ?_ ?_⟩, ?_, shortClear_of ?_, shortClear_of ?_, ?_, shortTraps_of ?_ ?_ ?_⟩
  case refine_13 =>
    unfold ShortRuns
    rw [if_neg (by decide)]
    exact .inr (by unfold NoFlagTrap; decide +kernel)
  all_goals decide +kernel
/-- 06 R114; 17 R331, R332: an invalid operation is cause 0x20 with IV in TINFO, for the lane that raised it, and writes nothing; the follower of a
pair sets HALF. -/
theorem test_enabled_flags :
    let u := thr (.fadd { U with et := 8 }) nans
    let v := thr (.fadd { V with et := 8 }) nans
    let q := thr (.iaddShort { H with d := 9, lead := true, fol := fol 0x0F 3 0 2 0 }) nans
    (u.trap.cause = 0x20 ∧ u.trap.info = 0x802 ∧ u.sReg 1 = 0 ∧ u.fpstat = 0) ∧ (v.trap.cause = 0x20 ∧ v.trap.mask = 2) ∧
    (q.trap.cause = 0x20 ∧ q.trap.info = 0x812 ∧ q.sReg 9 = 0) ∧
    (cause (.fadd { U with et := 8 }) (withT nans (fun t => { t with fpmode := 0x78 })) = 0) ∧
    cause (.qpack Qp) unscaled = 0x20 ∧ cause (.tmma Tm) (trapping (mats 32 12 0x7D 0x40)) = 0x20 := by decide +kernel

/-- A class loop whose key lands above the issuing window, over lanes that are not those of `m0`. -/
def looped : State := withT (P []) (fun t => { t with stack := [.cls ⟨.first, 7, 2, .slot 4, 8, 32, 9⟩] })
/-- A group with a load out that writes `s2`. -/
def loadOut : State := withT (P []) (fun t => { t with pending := [⟨.load 2 0 6 [], 15, [], [.s 2], 0, 0, 0⟩] })
/-- Windows whose `s` holds two registers. -/
def narrow : State := withT (P []) (fun t => { t with wins := { t.wins with s := { t.wins.s with ws := 2 } } })
/-- No tile register is declared. -/
def bare : State := withT (P []) (fun t => { t with tiles := { t.tiles with nt := 0 } })
def atHailLimit : State := withT (hailed (P [])) (fun t => { t with hailCount := 512 })
def atRoutineLimit : State := withT (P []) (fun t => { t with routine := some { pc := 0, len := 2, count := 4096 } })
theorem witness_issue_traps :
    let t (s : State) : Thread := (s.waited 0x20 U).thr
    let u (s : State) : Uses := s.usesIn 0x20 U
    let free (s : State) : Prop := (t s).name.hail = false ∧ (t s).routine = none
    let ahead (s : State) : Bool := (t s).pending.any (fun p => (u s).reads.any p.writes.contains)
    let Z : Fields := { F with d := 1, bk := 3, fc := 2 }
    longOf (.iadd U) = some (0x20, U) ∧ ((t atHailLimit).name.hail = true ∧ 512 ≤ (t atHailLimit).hailCount) ∧
    ((t atRoutineLimit).name.hail = false ∧ ∃ r ∈ (t atRoutineLimit).routine, 4096 ≤ r.count) ∧
    (free loadOut ∧ ahead loadOut = true ∧ RegName.checked (.s 2) = true) ∧
    (free narrow ∧ (t narrow).pending = [] ∧ (u narrow).reads.any (outsideWindow (t narrow)) = true) ∧
    (free bare ∧ longOf (.tzero Z) = some (0x81, Z) ∧ (bare.usesIn 0x81 Z).writes.any (undeclared (bare.waited 0x81 Z).thr) = true ∧
      (bare.usesIn 0x81 Z).writes.all (fun r => !outsideWindow (bare.waited 0x81 Z).thr r) = true) ∧
    (free looped ∧ (t looped).pending = [] ∧ ((u looped).reads ++ (u looped).writes).all (fun r => !outsideWindow (t looped) r && !undeclared (t looped) r) = true ∧
      NoPoison (t looped) (u looped) (lanesActed 0x20 U (t looped)) (remotePoison 0x20 U (t looped)) ∧ .s 1 ∈ (u looped).writes ∧
      (t looped).wins.s.wb + 1 < 9 ∧ (t looped).m0 ≠ 7) := by
  refine ⟨?_, ?_, ?_, ?_, ?_, ?_, ?_, ?_, ?_, (noPoison_iff _ _ _ _).mpr ?_, ?_⟩ <;> decide +kernel
/-- 03 R58; 04 R69, R76; 08 R142; 09 R193; 16 R311. -/
theorem test_issue_traps :
    (thr (.iadd U) atHailLimit).status = .absent ∧ [atRoutineLimit, loadOut, narrow, looped].map (cause (.iadd U)) = [0x3E, 0x08, 0x13, 0x10] ∧
    cause (.tzero { F with d := 1, bk := 3, fc := 2 }) bare = 0x27 := by decide +kernel
/-- Watch point 0, of loads and stores, over the bytes 0x40 to 0x43. -/
def watched (s : State) : State := withC s (fun c => { c with obs := { c.obs with wctl := [(0, 0xE000000000000040)], wlimit := [(0, 0x43)] } })
theorem witness_watch_points :
    let met (u : State) (f : Fields) (k : AccKind) (n : Nat) (bit : Nat) : Prop :=
      let o := (u.ctx u.thr.name.ctx).obs
      (laneAccess u f k n none).2.toOption.isSome = true ∧ (mget 0 o.wctl 0).getLsbD 63 = true ∧ (mget 0 o.wctl 0).getLsbD bit = true ∧
      ((mget 0 o.wctl 0).extractLsb' 0 55).toNat ≤ 0x40 ∧ 0x40 ≤ ((mget 0 o.wlimit 0).extractLsb' 0 55).toNat ∧
      ((laneAccess u f k n none).1.extractLsb' 0 55).toNat = 0x40 ∧ u.thr.name.hail = false ∧ u.thr.supervisor = false ∧ u.thr.routine = none
    let f : Fields := { F with d := 3, a := 2, bk := 3, et := 6 }
    Meets 0xA0 L0 (watched (P addrs)).roomForLoad (fun u => met u L0 .load 4 61) ∧ Meets 0xA1 f (watched (P addrs)) (fun u => met u f .store 4 62) := by
  refine ⟨meets ?_ ?_, meets ?_ ?_⟩ <;> decide +kernel
/-- 18 R364: cause 0x79 with the lowest address met, whatever the kind, and in no routine or supervisor routine. -/
theorem test_watch_points :
    let f : Fields := { F with d := 3, a := 2, bk := 3, et := 6 }
    let t (s : State) : Word × Word := ((thr (.ld L0) s).trap.cause, (thr (.ld L0) s).trap.addr)
    t (watched (P addrs)) = (0x79, 0x40) ∧ t (watched (P [.s 2 0x44 false])) = (0, 0) ∧ t (watched (super (P addrs))) = (0, 0) ∧
    t (watched (P [.s 2 0x3C false, .s 3 0x20 false])) = (0, 0) ∧ cause (.st f) (watched (P addrs)) = 0x79 := by decide +kernel
/-- A supervisor routine that serves command 4, or its own group. -/
def serving (cmd : Option Nat) (s : State) : State := withT (super s) (fun t => { t with service := some { cmd := cmd } })
theorem witness_supervisor_trap :
    let f : Fields := { F with bk := 3, b := 5 }
    let e : TrapEntry := { mode := .supervisor, savedM0 := 1, tpc := 0, tlen := 2, bases := {} }
    let c (b : Word) : State := serving (some 4) (working (.copy 0x100 0x4000001000 [] none) (fun c => { c with bar := b }) (barred (P []) 1 2))
    Meets 0xE0 f (serving none (P [])) (fun w => w.thr.stack = .trap e :: [] ∧ w.thr.service.bind (·.cmd) = none) ∧
    (∀ b ∈ [0, 0x100000003], Meets 0xE0 f (c (BitVec.ofNat 64 b)) (fun w => w.thr.stack = .trap e :: [] ∧ w.thr.service.bind (·.cmd) = some 4 ∧ w.hasCmd 4 = true ∧
      (w.cmd 4).id = 4 ∧ (w.cmd 4).failed = false ∧ (w.cmd 4).spoiled = false ∧ (w.core (w.cmd 4).core).serves = some (w.cmd 4).ctx)) := by
  refine ⟨meets ?_ ?_, each_meets (st := fun b => serving (some 4) (working (.copy 0x100 0x4000001000 [] none) (fun c => { c with bar := BitVec.ofNat 64 b }) (barred (P []) 1 2))) ?_⟩ <;> decide +kernel
/-- 17 R334: the immediate is the cause of the group that asked, or what stands under 0x50 for a command, whose hold ends. -/
theorem test_supervisor_trap :
    let f : Fields := { F with bk := 3, b := 5 }
    let s := serving (some 4) (working (.copy 0x100 0x4000001000 [] none) (fun c => { c with bar := ref3 }) (barred (P []) 1 2))
    let t := out (.trap f) s
    cause (.trap f) (serving none (P [])) = 5 ∧ t.thr.trap.cause.extractLsb' 0 8 = 0x50 ∧ t.thr.trap.cause.extractLsb' 16 7 = 5 ∧
    (t.cmd 4).failed = true ∧ (t.bar 0 3).pend = 1 ∧ (t.bar 0 3).refs = (s.bar 0 3).refs - 1 := by decide +kernel

/-- Numbers inside, above and below the range of 06 R98, overflows in and out of FP16 and E4M3, and infinities. -/
theorem witness_values_of_numbers :
    ((FVal.fin false 1 (-127)).finite ∧ (FVal.fin true 3 0).finite ∧ ¬ (FVal.inf false).finite) ∧
    ((∀ x ∈ [FVal.fin false 1 (-127), .fin false 3 0, .fin false 1 127], 2 ^ (-127 : Int) ≤ x.rat ∧ x.rat ≤ 2 ^ (127 : Int)) ∧
      2 ^ (127 : Int) < (FVal.fin false 3 126).rat ∧ 0 < (FVal.fin false 1 (-128)).rat ∧ (FVal.fin false 1 (-128)).rat < 2 ^ (-127 : Int) ∧
      (FVal.fin true 1 0).rat ≤ 0 ∧ (decEt 8 0x7F800001).isSig = true) ∧
    (((fmtOf 9).round 0 0 ⟨false, 1, 16, false⟩).2.getLsbD 2 = true ∧ ((fmtOf 11).round 0 0 ⟨true, 449, 0, false⟩).2.getLsbD 2 = false) ∧
    ((decEt 8 0xFF800000).below (decEt 8 0x3F800000) ∧ (decEt 8 0x3F800000).below (decEt 8 0x7F800000)) ∧
    ((⟨false, 449, 0, false⟩ : Exact).rat.abs ≤ ((fmtOf 12).dec (fmtOf 12).maxBits).rat ∧ (fmtOf 8).signBit = 0x80000000) ∧
    (let q (n : Nat) : Rat := (decEt 8 n).rat
     (decEt 8 0x40800000).finite ∧ (q 0x40800000).abs = 2 ^ (2 : Int) ∧ q 0x40800000 = (4 : Int) ∧ q 0x00000001 = 2 ^ (-149 : Int)) :=
  ⟨⟨trivial, trivial, id⟩, by decide +kernel, by decide +kernel, ⟨Eq.refl true, Eq.refl false⟩, by decide +kernel, trivial, by decide +kernel, by decide +kernel,
    by decide +kernel⟩
/-- 06 R98, R103, R106, R108, R109 by hand: E8M0 codes and their flags, saturation, a stochastic word that just carries, and signed zeros. -/
theorem test_values_of_numbers :
    (toE8m0 0 (.fin false 3 0) = (128, fNX) ∧ toE8m0 0 (.fin false 6 0) = (130, fNX) ∧ toE8m0 1 (.fin false 6 0) = (129, fNX) ∧ toE8m0 0 (.fin false 3 126) = (0xFE, fOF ||| fNX) ∧
      toE8m0 0 (.fin false 1 (-128)) = (0, fUF ||| fNX) ∧ toE8m0 0 (.fin true 1 0) = (0xFF, fIV)) ∧
    (toInt 0 0 (.fin false 255 (-1)) = (127, fIV) ∧ toInt 0 0 (.fin false 5 (-1)) = (2, fNX) ∧ toInt 0 2 (.fin false 5 (-1)) = (3, fNX) ∧ toInt 4 0 (.inf true) = (0, fIV)) ∧
    (((fmtOf 11).round 4 0x7FFFFFFF ⟨false, 33, 0, false⟩).1 = 0x60 ∧ ((fmtOf 11).round 4 0x80000000 ⟨false, 33, 0, false⟩).1 = 0x60 ∧
      ((fmtOf 11).round 4 0xC0000000 ⟨false, 33, 0, false⟩).1 = 0x61) ∧
    ((fMinMax 9 true 0x8000 0).1 = 0 ∧ (fMinMax 9 false 0 0x8000).1 = 0x8000 ∧ (fMinMax 8 false 0xFF800000 0x3F800000).1 = 0xFF800000) := by decide +kernel
/-- 17 R333: the greatest number of a register, and one above, which is cause 0x03. -/
theorem test_system_fields :
    let f (op : Nat) (a d n : Nat) : Option Nat := checkLong op { F with a := BitVec.ofNat 7 a, d := BitVec.ofNat 7 d, bk := 3, b := BitVec.ofNat 7 n, c := BitVec.ofNat 7 (n / 128) }
    f 0xE2 0 63 0xFFF = none ∧ f 0xE2 0 63 0x1000 = some 3 ∧ f 0xE3 63 0 0x1000 = some 3 ∧ f 0xE6 1 0 1 = none ∧ f 0xE6 1 0 2 = some 3 ∧
    f 0xE0 0 0 16383 = none ∧ f 0xE0 1 0 0 = some 2 ∧ f 0xE7 63 0 16383 = none ∧ f 0xE1 0 1 0 = some 2 := by decide +kernel

/-- A copy of 1,024 bytes to shared memory 0x400 with swizzle 5, before its last sector; and a copy of 64 bytes whose first sector is poisoned. -/
def wholeUnit : State :=
  working (.copy 0x400 0x4000001000 [2 + 5 * 4, 0x0001000100010100, 4, 0, 0, 4, 0, 0] none) (fun c => { c with mark := 31 })
def poisonedSource : State := { working (copy64 0x100) with poisonMem := [0x1000 / 32] }
set_option maxRecDepth 100000 in
theorem witness_copy_tags_and_poison :
    let c : Cmd := wholeUnit.cmd 4
    let key (s : State) (c : Cmd) (w : Bool) (p : Word) : Bool := (engineReach s 0 0 1 w c.swz p 1).toOption.isSome && (p.extractLsb' 0 55).toNat < 2 ^ 54
    (c.id = 4 ∧ c.remote = false ∧ NoWait wholeUnit ∧ (let all := c.sectors
      (all[c.mark]?).any (fun x => x.1 / 32 == 1 && x.2.length == 32 && x.2.all (fun m => key wholeUnit c true m.dst && m.src.all (key wholeUnit c false)) &&
        ((all.filter (fun y => y.1 / 32 == x.1 / 32)).flatMap (·.2)).length == 1024 && all.all (fun y => y.1 / 32 != 1 || decide (y.1 ≤ x.1)))) = true) ∧
    ((poisonedSource.cmd 4).sectors[0]?).any (fun x => x.2.any (fun m => m.src.any (fun p =>
      (engineReach poisonedSource 0 0 1 false (poisonedSource.cmd 4).swz p 1).toOption.any (fun k => poisonedSource.poisonMem.contains (k / 32))))) = true := by
  refine ⟨⟨?_, ?_, noWait_of ?_, ?_⟩, ?_⟩ <;> decide +kernel
/-- 17 R345: a poisoned source poisons where it lands. -/
theorem test_copy_poison : (nx (.copySectorPerform 4) poisonedSource).poisonMem.length = 2 := by decide +kernel
/-- 11 R225: of a copy's accesses, only those to a strongly ordered page release and acquire at system scope. -/
theorem test_strong_accesses :
    ((Ordering.Op.copy [(0, true)] [([(32, 1)], false)] 2 none none []).events { thread := 0, kind := .sync }).map (fun e => (e.acq, e.scope)) =
      [(true, 5), (false, 2)] := by decide +kernel

/-! ### Orders, and steps -/

theorem witness_load_buffering :
    let x : Ordering.Execution := { events := (Ordering.loadBuffering 0 false 1).flatMap Ordering.Party.events, rf := [(0, 3, 0), (32, 1, 2)] }
    4 = x.events.length ∧ (x.ev 0).kind = .read ∧ 0 ∈ (x.ev 0).locs ∧ (x.ev 1).kind = .write ∧ 32 ∈ (x.ev 1).locs ∧ (x.ev 2).kind = .read ∧ 32 ∈ (x.ev 2).locs ∧
    (x.ev 3).kind = .write ∧ 0 ∈ (x.ev 3).locs ∧ (0, 1) ∈ x.po ∧ (2, 3) ∈ x.po ∧ (0, 3, 0) ∈ x.rf ∧ (32, 1, 2) ∈ x.rf := by decide +kernel
/-- 11 R235, R237: a stale word is read on two cores alone, and store buffering only without fences. -/
theorem test_orders :
    Ordering.allowed (Ordering.messagePassing 0 false 1 false 1) [1, 0] = false ∧ Ordering.allowed (Ordering.messagePassing 1 false 1 false 1) [1, 0] = true ∧
    Ordering.allowed (Ordering.storeBuffering 1 (some 4)) [0, 0] = false ∧ Ordering.allowed (Ordering.storeBuffering 1 none) [0, 0] = true := by decide +kernel
/-- 11 R227, R228: a release of a relaxed read, a write unit across its alignment, and one sector beyond another are no events; two writes have one order
at every byte they share. -/
theorem test_events :
    let e : Ordering.Event := { thread := 0, kind := .read, locs := [4, 5] }
    let w (t : Nat) : Ordering.Event := { thread := t, kind := .write, locs := [0, 1], vals := [t, t] }
    (e.legal = true ∧ { e with rel := true }.legal = false ∧ { e with locs := [5, 6] }.legal = false ∧ { e with form := .tile, locs := [31, 32] }.legal = false) ∧
    ({ events := [w 1, w 2], co := [(0, [0, 1]), (1, [0, 1])] } : Ordering.Execution).wf = true ∧
    ({ events := [w 1, w 2], co := [(0, [0, 1]), (1, [1, 0])] } : Ordering.Execution).wf = false := by decide +kernel
theorem no_solder {u : State} {ctx : Nat} {k : Bool} (h : u.hub.solder = []) (x : Word) : solderPick u ctx k x = none := by
  have e : solderHit u ctx k x = fun _ => false := by
    funext n
    unfold solderHit
    rw [h]
    simp [Solder.en]
  unfold solderPick
  rw [e]
  rfl
/-- `IADD v3, v4, v5` at the group's program counter, and a command entry: an instruction, a command, and neither. -/
def stepping (w : Nat) : State := { State.reset.withFetchWord 64 w with turn := .issue 0 0 }
def W0 : Nat := 0x0016090300680082
theorem witness_step_runs_decoded :
    let ready (w : Nat) : Bool := ((stepping w).choose 0 0).any (fun u => u.thr.active != 0 && u.thr.held.isEmpty && !u.thr.haltReq && !u.thr.stepDone && u.thr.service.isNone &&
      u.thr.routine.isNone && (breakHit u).isNone && u.hub.solder.isEmpty && u.thr.pc == 0x4000000000 && (List.range 2).all (fun k =>
        (translate u 0 (0x4000000000 + 4 * k)).toOption.any (fun x => !x.2.getLsbD 2 && !u.poisonMem.contains (x.1 / 32) &&
          rdBytes u.mem x.1 4 == (toBytes 8 w |>.drop (4 * k)).take 4)))
    (ready W0 = true ∧ (decode (toBytes 8 W0)).toOption = some (.iadd V, []) ∧ (shortOf (.iadd V)).isNone = true) ∧
    (ready (W0 + 1) = true ∧ why (decode (toBytes 8 (W0 + 0x2000))) ≠ none ∧ why (decode (toBytes 8 (W0 + 0x2000))) ≠ some .truncated ∧
      8 = 4 * parcelCount (BitVec.ofNat 32 (ofBytes ((toBytes 8 (W0 + 0x2000)).take 4)))) ∧
    (let s := State.reset.withCommand 0x02
     s.turn = .zephyr ∧ zephyrReady s = true ∧ (decodeCommand (headEntry s.hub)).toOption = some (.destroyCtx E0)) ∧
    (let s := State.reset.withCommand 0xFF
     s.turn = .zephyr ∧ zephyrReady s = true ∧ (why (decodeCommand (headEntry s.hub))).isSome = true) ∧
    zephyrReady { State.reset with turn := .zephyr } = false ∧ isStep .deviceReset = true ∧ State.reset.turn = .idle := by
  refine ⟨?_, ?_, ?_, ?_, ?_⟩ <;> decide +kernel
/-- The step at an `IADD` goes on past it; at a word that is none it records cause 0x02 and its group ends; a command that does not exist is
refused with 0x10. -/
theorem test_step :
    (match step (stepping W0) with | .next t => t.thr.pc == 0x4000000008 && t.tick == 1 | _ => false) = true ∧
    (match step (stepping (W0 + 0x2000)) with | .next t => t.thr.trap.cause == 0x02 && t.thr.status == .retiring | _ => false) = true ∧
    (match step (State.reset.withCommand 0xFF) with | .next t => (mget 0 t.hub.cpl 0).extractLsb' 32 16 == 0x1001 && t.hub.cqHead == 1 | _ => false) = true := by decide +kernel
theorem witness_step_keeps_memory_wf : State.reset.memoryWf ∧ ∃ t, step State.reset = .next t := ⟨rfl, _, rfl⟩
end Sys2Proof.Tests
end

section
/-! SUPPORT. Tables that hold nothing admit nothing, and a step in which no one moves. -/

namespace Sys2Proof.Machine

/-- No slot matches when every slot is disabled (16 R309). -/
theorem solderPick_of_all_disabled (s : State) (ctx : Nat) (causeKind : Bool) (x : Word)
    (h : ∀ n, (mget {} s.hub.solder n).en = false) : solderPick s ctx causeKind x = none := by
  have noHit : ∀ n, ¬ solderHit s ctx causeKind x n = true := by
    intro n
    simp only [solderHit, h n, Bool.false_and, Bool.false_eq_true, not_false_eq_true]
  have noHits : (List.range 32).filter (solderHit s ctx causeKind x) = [] :=
    List.filter_eq_nil_iff.2 (fun n _ => noHit n)
  unfold solderPick
  rw [noHits]
  rfl

/-- The fence admits nothing when every window is disabled (16 R303). -/
theorem fencePasses_of_all_disabled (h : Hub) (port : Nat) (ctx : Option Nat) (dev lo n : Nat)
    (hoff : ∀ p w, (fenceReg h p w 0).getLsbD 31 = false) : fencePasses h port ctx dev lo n = false := by
  refine List.any_eq_false.2 (fun w _ => ?_)
  simp only [hoff, Bool.false_and, Bool.false_eq_true, not_false_eq_true]

theorem reread_of_no_threads (s : State) (only : Option Nat) (h : s.threads = []) : s.reread only = s := by
  unfold State.reread
  rw [h]
  rfl

theorem mem_after (s : State) : s.after.mem = s.mem := mem_reread s none

/-- Self-test ends with the ROM's check of the Zephyr image (19 R383). -/
theorem hub_state_after_selfTest (s : State) (ht : s.threads = []) (h0 : s.hub.state = 0) :
    s.after.hub.state = if Config.romVerifies (s.tick + 1) then 1 else 7 := by
  simp only [State.after, reread_of_no_threads s none ht, h0, beq_self_eq_true, if_true]

theorem begin_of_idle (s : State) (h : s.turn = .idle) : s.begin = .over s := by
  unfold State.begin
  rw [h]

/-- A step in which no one moves lets time pass. -/
theorem step_of_idle (s : State) (h : s.turn = .idle) : step s = .next s.after :=
  step_of_over s s (begin_of_idle s h)

end Sys2Proof.Machine
end

section
/-! The state after reset. -/

namespace Sys2Proof.Machine

theorem reset_threads : State.reset.threads = [] := rfl

theorem reset_solder_disabled (n : Nat) : (mget {} State.reset.hub.solder n).en = false := by
  have unset : mget {} State.reset.hub.solder n = {} := mget_nil _ n
  rw [unset]
  decide

theorem reset_fence_disabled (port win : Nat) : (fenceReg State.reset.hub port win 0).getLsbD 31 = false := by
  have unset : fenceReg State.reset.hub port win 0 = 0 := mget_nil 0 (fenceKey port win 0)
  rw [unset]
  decide

/-- The first step after reset is nobody's: it ends the self-test and leaves memory. -/
theorem step_reset : ∃ t, step State.reset = .next t ∧ (t.hub.state = 1 ∨ t.hub.state = 7) ∧ t.mem = State.reset.mem := by
  refine ⟨State.reset.after, step_of_idle State.reset rfl, ?_, mem_after State.reset⟩
  rw [hub_state_after_selfTest State.reset reset_threads rfl]
  split
  · exact .inl rfl
  · exact .inr rfl

/-- Settles O59: registers and maps read their defaults, disabled slots and windows admit nothing, and the first step is idle. -/
theorem resetState : Obligations.ResetState := by
  have noAdmit : ∀ p c d lo n, fencePasses State.reset.hub p c d lo n = false :=
    fun p c d lo n => fencePasses_of_all_disabled _ p c d lo n reset_fence_disabled
  have noMatch : ∀ c k x, solderPick State.reset c k x = none :=
    fun c k x => solderPick_of_all_disabled _ c k x reset_solder_disabled
  exact ⟨rfl, fun _ => rfl, fun _ => rfl, fun _ => rfl, reset_threads, rfl, rfl, fun _ => ⟨rfl, rfl⟩,
    rfl, rfl, rfl, rfl, rfl, rfl, rfl, rfl,
    reset_fence_disabled, noAdmit, reset_solder_disabled, noMatch, fun _ => rfl, step_reset⟩

end Sys2Proof.Machine
end

section
/-! SUPPORT. Laws of the encoding: the fields and the words of 03 R49, R52 and 19 R373 are each other's inverses, a byte list
begins with a parcel, and the opcode maps name each instruction once. -/

namespace Sys2Proof

/-! ### Bits of a concatenation -/

/-- Bits above the low part of a concatenation. The width of the low part is explicit, because `simp` matches a total width that is
a numeral only against a sum with a numeral. -/
theorem extractLsb'_append_high (w : Nat) {v : Nat} {hi : BitVec v} {lo : BitVec w} {i n : Nat} (h : w ≤ i) :
    (hi ++ lo).extractLsb' i n = hi.extractLsb' (i - w) n := BitVec.extractLsb'_append_eq_of_le h

theorem extractLsb'_append_low (w : Nat) {v : Nat} {hi : BitVec v} {lo : BitVec w} : (hi ++ lo).extractLsb' 0 w = lo :=
  BitVec.extractLsb'_append_eq_right

/-- Neighbouring fields join; the width of the lower is explicit, as in `extractLsb'_append_high`. -/
theorem extractLsb'_join (n : Nat) {w i j m : Nat} {x : BitVec w} (h : i = j + n) :
    x.extractLsb' i m ++ x.extractLsb' j n = x.extractLsb' j (m + n) :=
  BitVec.extractLsb'_append_extractLsb'_eq_extractLsb' h

theorem ofBool_getLsbD {w : Nat} (x : BitVec w) (i : Nat) : BitVec.ofBool (x.getLsbD i) = x.extractLsb' i 1 := by
  ext k hk
  obtain rfl : k = 0 := by omega
  simp

theorem getLsbD_of_extractLsb' {w i : Nat} {x : BitVec w} {b : Bool} (h : x.extractLsb' i 1 = BitVec.ofBool b) :
    x.getLsbD i = b := by
  rw [← ofBool_getLsbD] at h
  cases b <;> cases hx : x.getLsbD i <;> simp [hx] at h ⊢

/-! ### Words and fields -/

theorem fieldsOf_wordOf (op : Nat) (f : Fields) (lit : BitVec 32) (h : f.lit = if f.ext then lit else 0) :
    fieldsOf (wordOf op f) lit = f := by
  have ext : (wordOf op f).getLsbD 0 = f.ext := getLsbD_of_extractLsb' (extractLsb'_append_low 1)
  have ov : (wordOf op f).getLsbD 24 = f.ov := getLsbD_of_extractLsb' (by
    simp [wordOf, extractLsb'_append_high 1, extractLsb'_append_low 1, extractLsb'_append_high 2,
      extractLsb'_append_high 3, extractLsb'_append_high 4, extractLsb'_append_high 8])
  have neg : (wordOf op f).getLsbD 17 = f.neg := getLsbD_of_extractLsb' (by
    simp [wordOf, extractLsb'_append_high 1, extractLsb'_append_low 1, extractLsb'_append_high 3,
      extractLsb'_append_high 4, extractLsb'_append_high 8])
  cases f
  simp only [fieldsOf, ext, ov, neg] at h ⊢
  simp [h, wordOf, extractLsb'_append_high 1, extractLsb'_append_high 2, extractLsb'_append_high 3,
    extractLsb'_append_high 4, extractLsb'_append_high 7, extractLsb'_append_high 8, extractLsb'_append_low 2,
    extractLsb'_append_low 3, extractLsb'_append_low 4, extractLsb'_append_low 7, BitVec.extractLsb'_eq_self]

theorem op_of_wordOf {op : Nat} (f : Fields) (h : op < 2 ^ 8) : ((wordOf op f).extractLsb' 2 8).toNat = op := by
  simp only [wordOf, extractLsb'_append_high 1, Nat.reduceLeDiff, Nat.reduceSub, Nat.le_refl, extractLsb'_append_low 8]
  exact Nat.mod_eq_of_lt h

theorem wordOf_bit_one (op : Nat) (f : Fields) : (wordOf op f).getLsbD 1 = true := getLsbD_of_extractLsb' (by
  simp only [wordOf, extractLsb'_append_high 1, Nat.le_refl, Nat.sub_self, extractLsb'_append_low 1]
  rfl)

theorem wordOf_fieldsOf (w : BitVec 64) (lit : BitVec 32) (h : w.getLsbD 1 = true) :
    wordOf (w.extractLsb' 2 8).toNat (fieldsOf w lit) = w := by
  have one : (1 : BitVec 1) = w.extractLsb' 1 1 := by rw [← ofBool_getLsbD, h]; rfl
  simp only [wordOf, fieldsOf, one, ofBool_getLsbD, BitVec.ofNat_toNat, BitVec.setWidth_eq]
  simp [extractLsb'_join 1, extractLsb'_join 2, extractLsb'_join 3, extractLsb'_join 4, extractLsb'_join 7,
    extractLsb'_join 8, BitVec.extractLsb'_eq_self]

theorem shortParts_shortWord {sop : Nat} (f : ShortFields) (h : sop < 2 ^ 5) :
    shortParts (shortWord sop f) = (sop, { f with fol := 0 }) := by
  have lead : (shortWord sop f).getLsbD 0 = f.lead := getLsbD_of_extractLsb' (extractLsb'_append_low 1)
  have op : ((shortWord sop f).extractLsb' 2 5).toNat = sop := by
    simp only [shortWord, extractLsb'_append_high 1, Nat.reduceLeDiff, Nat.reduceSub, Nat.le_refl, extractLsb'_append_low 5]
    exact Nat.mod_eq_of_lt h
  simp only [shortParts, op, lead]
  simp [shortWord, extractLsb'_append_high 1, extractLsb'_append_high 2, extractLsb'_append_high 5,
    extractLsb'_append_low 2, extractLsb'_append_low 5, BitVec.extractLsb'_eq_self]

theorem shortWord_bit_one (sop : Nat) (f : ShortFields) : (shortWord sop f).getLsbD 1 = false := getLsbD_of_extractLsb' (by
  simp only [shortWord, extractLsb'_append_high 1, Nat.le_refl, Nat.sub_self, extractLsb'_append_low 1]
  rfl)

theorem shortWord_shortParts (w : BitVec 32) (fol : BitVec 32) (h : w.getLsbD 1 = false) :
    shortWord (shortParts w).1 { (shortParts w).2 with fol := fol } = w := by
  have zero : (0 : BitVec 1) = w.extractLsb' 1 1 := by rw [← ofBool_getLsbD, h]; rfl
  simp only [shortWord, shortParts, zero, ofBool_getLsbD, BitVec.ofNat_toNat, BitVec.setWidth_eq]
  simp [extractLsb'_join 1, extractLsb'_join 2, extractLsb'_join 5, BitVec.extractLsb'_eq_self]

/-- The 64-byte entry that holds an OP and the rest of a command. -/
def entryWord (op : Nat) (e : CmdEntry) : BitVec 512 := e.opnd ++ e.tag ++ e.flags ++ e.ctx ++ BitVec.ofNat 8 op

theorem entryOf_entryWord {op : Nat} (e : CmdEntry) (h : op < 2 ^ 8) : entryOf (entryWord op e) = (op, e) := by
  have num : ((entryWord op e).extractLsb' 0 8).toNat = op := by
    simp only [entryWord, extractLsb'_append_low 8]
    exact Nat.mod_eq_of_lt h
  simp only [entryOf, num]
  simp [entryWord, extractLsb'_append_high 8, extractLsb'_append_high 16, extractLsb'_append_high 32,
    extractLsb'_append_low 8, extractLsb'_append_low 16, extractLsb'_append_low 32, BitVec.extractLsb'_eq_self]

theorem entryWord_entryOf (w : BitVec 512) : entryWord (entryOf w).1 (entryOf w).2 = w := by
  simp only [entryWord, entryOf, BitVec.ofNat_toNat, BitVec.setWidth_eq]
  simp [extractLsb'_join 8, extractLsb'_join 16, extractLsb'_join 32, BitVec.extractLsb'_eq_self]

/-! ### Parcels and bytes -/

@[simp] theorem takeParcel_parcelBytes (p : BitVec 32) (r : List Byte) : takeParcel (parcelBytes p ++ r) = some (p, r) := by
  simp [parcelBytes, takeParcel, parcelOf, extractLsb'_join 8, BitVec.extractLsb'_eq_self]

@[simp] theorem parcelBytes_parcelOf (b0 b1 b2 b3 : Byte) : parcelBytes (parcelOf b0 b1 b2 b3) = [b0, b1, b2, b3] := by
  simp [parcelBytes, parcelOf, extractLsb'_append_high 8, extractLsb'_append_low 8, BitVec.extractLsb'_eq_self]

theorem takeParcel_eq_some {bs r : List Byte} {p : BitVec 32} : takeParcel bs = some (p, r) ↔ bs = parcelBytes p ++ r := by
  refine ⟨fun h => ?_, fun h => h ▸ takeParcel_parcelBytes p r⟩
  unfold takeParcel at h
  split at h
  · cases h
    rw [parcelBytes_parcelOf]
    rfl
  · cases h

/-- The number of parcels by the two low bits (03 R46). -/
theorem parcelCount_eq (p : BitVec 32) :
    parcelCount p = if p.getLsbD 1 then (if p.getLsbD 0 then 3 else 2) else (if p.getLsbD 0 then 2 else 1) := by
  have low : p.extractLsb' 0 2 = BitVec.ofBool (p.getLsbD 1) ++ BitVec.ofBool (p.getLsbD 0) := by
    rw [ofBool_getLsbD, ofBool_getLsbD, extractLsb'_join 1 rfl]
  unfold parcelCount
  rw [low]
  cases p.getLsbD 1 <;> cases p.getLsbD 0 <;> rfl

/-! ### The opcode maps -/

open Laws.MapBack in
/-- The opcode and fields of an instruction name it, whatever its constructor. -/
theorem mapBack (i : Instr) : Statement i :=
  Instr.casesOn (motive := Statement) i
    nop bra brc loop jtab call calli ret enter classFirst classAsc classM nextc leave exit uput yield iadd isub imul imulh
    imad imin imax iabs ineg iadds isubs andB orB xorB notB shl shr sar rol popc clz brev bfx bfi sel icmp addmin fadd fsub
    fmul ffma fmin fmax fcmp frcp frsq fexp2 flog2 fsin fcos ftanh hfma2 aadd asub amul ashl amov mand mor mxor mnot mcount
    many mall mfirst cvt vfrom sfrom sfromChk shfl shflup shfldn shflx qswap qbcast matchV vscan vred tshape tzero tload
    tstore tzload tzstore tmma tmmaFb tzrow qpack qunpk xsect nzscan ld st ldh sth stag ltag waitld bcopy bcopyR bcopyS
    bstore hread hreadV hret atom atomh fence bar sbar waitv txalloc txexpect txarrive txwait txfree publ gnode gedge garm
    coll collw trap sret csrr csrw trapvec mappg tlbinv mark nopShort iaddShort isubShort imulShort iminShort imaxShort
    andShort orShort xorShort shlShort shrShort sarShort rolShort iaddsShort isubsShort faddShort fsubShort fmulShort
    fminShort fmaxShort aaddShort asubShort amulShort ashlShort amovShort inegShort notShort popcShort clzShort createCtx
    destroyCtx mapPages unmapPages loadImage launch graphSubmit queryDevice queryFaultRing queryCounters querySolderSlots
    queryObservation queryCoresched queryFenceRefusals queryLinkPorts queryContext dump installPatch attest setBudget
    setHandle setTag stopCtx observe debugWriteSlots debugHalt debugResume debugStep debugFocus debugEnd setComm hostWindow
    devstatGo devstatMode pwrctlWrite fenceWindowWrite devnumWrite registerWrite linkTraining cxlMemAccess remoteTransaction
    linkFailure softError waitvReread sample budgetLower budgetRaise dieOvertemp swapOut swapOutComplete readmission
    contextTimeslice contextSwitch contextRestore handlerInstructionLimit emulationLimit supervisorWatchdog starvationGuard
    placeTeam placeSpan loadDataReturn resultWriteback storePerform engineCommandStart copySectorPerform
    engineCompletionArrival engineFault hailBurstRequest hailBurstReturn hailThreadBirth graphNodeFinish collCompletion
    groupSlotFree asyncTrapDelivery arithmeticClockRise hubFirstTouchService deviceReset powerThrottle thermalTrip
    slotUpdatePoint

theorem longInstr_of_longOf {i : Instr} {op : Nat} {f : Fields} (h : longOf i = some (op, f)) : longInstr op f = some i :=
  (mapBack i).1 op f h

theorem longOf_of_longInstr {i : Instr} {op : Nat} {f : Fields} (h : longInstr op f = some i) : longOf i = some (op, f) := by
  unfold longInstr at h
  split at h <;> cases h <;> rfl

theorem op_lt_of_longOf {i : Instr} {op : Nat} {f : Fields} (h : longOf i = some (op, f)) : op < 2 ^ 8 := by
  cases i <;> cases h <;> decide

theorem shortInstr_of_shortOf {i : Instr} {sop : Nat} {f : ShortFields} (h : shortOf i = some (sop, f)) :
    shortInstr sop f = some i :=
  (mapBack i).2.1 sop f h

theorem shortOf_of_shortInstr {i : Instr} {sop : Nat} {f : ShortFields} (h : shortInstr sop f = some i) :
    shortOf i = some (sop, f) := by
  unfold shortInstr at h
  split at h <;> cases h <;> rfl

theorem sop_lt_of_shortOf {i : Instr} {sop : Nat} {f : ShortFields} (h : shortOf i = some (sop, f)) : sop < 2 ^ 5 := by
  cases i <;> cases h <;> decide

theorem longOf_of_shortOf {i : Instr} {p : Nat × ShortFields} (h : shortOf i = some p) : longOf i = none := by
  cases i <;> cases h <;> rfl

theorem op_lt_of_commandOf {i : Instr} {op : Nat} {sel : Option Nat} {e : CmdEntry} (h : commandOf i = some (op, sel, e)) :
    op < 2 ^ 8 := by
  cases i <;> cases h <;> decide

theorem longOf_shortOf_of_commandOf {i : Instr} {c : Nat × Option Nat × CmdEntry} (h : commandOf i = some c) :
    longOf i = none ∧ shortOf i = none := by
  cases i <;> cases h <;> exact ⟨rfl, rfl⟩

theorem commandOf_of_commandInstr {i : Instr} {op : Nat} {e : CmdEntry} (h : commandInstr op e = some i) :
    ∃ sel, commandOf i = some (op, sel, e) := by
  unfold commandInstr at h
  split at h <;> (try split at h) <;> cases h <;> exact ⟨_, rfl⟩

theorem commandInstr_of_commandOf {i : Instr} {op : Nat} {sel : Option Nat} {e : CmdEntry}
    (h : commandOf i = some (op, sel, e)) (hs : ∀ k, sel = some k → e.selector op = k) : commandInstr op e = some i :=
  (mapBack i).2.2 op sel e h hs

end Sys2Proof
end

section
/-! SUPPORT. The encoder and the decoder are each other's inverses (03 R46, R49, R52, R59, R64). -/

namespace Sys2Proof

/-! ### Well-formed instructions -/

theorem wellFormed_of_longOf {i : Instr} {op : Nat} {f : Fields} (h : longOf i = some (op, f)) :
    wellFormed i = (checkLong op f).isNone := by
  simp only [wellFormed, h]

theorem wellFormed_of_shortOf {i : Instr} {sop : Nat} {f : ShortFields} (h : shortOf i = some (sop, f)) :
    wellFormed i = shortOk sop f := by
  simp only [wellFormed, longOf_of_shortOf h, h]

/-- The selector of a well-formed command is the one of its row. -/
theorem selector_of_wellFormed {i : Instr} {op k : Nat} {e : CmdEntry} (h : commandOf i = some (op, some k, e))
    (hw : wellFormed i = true) : e.selector op = k := by
  obtain ⟨hl, hs⟩ := longOf_shortOf_of_commandOf h
  simpa [wellFormed, hl, hs, h] using hw

/-- An encoding that passes its checks passes that of its field values (03 R64). -/
theorem fieldsOk_of_checkLong {op : Nat} {f : Fields} {r : Row} (h : checkLong op f = none) (hr : rowOf op = some r) :
    fieldsOk op r f = true := by
  simp only [checkLong, hr] at h
  cases hf : fieldsOk op r f with
  | true => rfl
  | false => simp [hf] at h

theorem tyOk_of_checkLong {op : Nat} {f : Fields} {r : Row} (h : checkLong op f = none) (hr : rowOf op = some r) :
    tyOk r.ty f = true := by
  have fields := fieldsOk_of_checkLong h hr
  simp only [fieldsOk, Bool.and_eq_true, and_assoc] at fields
  exact fields.2.1

theorem formOk_of_checkLong {op : Nat} {f : Fields} {r : Row} (h : checkLong op f = none) (hr : rowOf op = some r) :
    formOk r f = true := by
  have fields := fieldsOk_of_checkLong h hr
  simp only [fieldsOk, Bool.and_eq_true, and_assoc] at fields
  obtain ⟨-, -, -, -, -, -, form, -⟩ := fields
  exact form

/-- A long instruction without a literal holds a literal of zero (03 R54). -/
theorem lit_eq_zero_of_checkLong {op : Nat} {f : Fields} (h : checkLong op f = none) (he : f.ext = false) : f.lit = 0 := by
  cases hr : rowOf op with
  | none => simp [checkLong, hr] at h
  | some r =>
    have form := formOk_of_checkLong h hr
    simp only [formOk, he, Bool.and_eq_true] at form
    simpa using form.2

/-! ### Parcels of an encoding -/

theorem encodeParcels_of_longOf {i : Instr} {op : Nat} {f : Fields} (h : longOf i = some (op, f)) :
    encodeParcels i = [(wordOf op f).extractLsb' 0 32, (wordOf op f).extractLsb' 32 32] ++ (if f.ext then [f.lit] else []) := by
  simp only [encodeParcels, h]

theorem encodeParcels_of_shortOf {i : Instr} {sop : Nat} {f : ShortFields} (h : shortOf i = some (sop, f)) :
    encodeParcels i = shortWord sop f :: (if f.lead then [f.fol] else []) := by
  simp only [encodeParcels, longOf_of_shortOf h, h]

/-! ### Decoding parcels -/

/-- The parcels of a long or extended instruction decode to it, when the fields are read from its word (03 R52). -/
theorem decodeParcels_long {p0 p1 p2 : BitVec 32} {aligned : Bool} (hp : p0.getLsbD 1 = true) (i : Instr) :
    decodeParcels aligned p0 p1 p2 = .ok i ↔
      longOf i = some ((p0.extractLsb' 2 8).toNat, fieldsOf (p1 ++ p0) p2) ∧ wellFormed i = true := by
  simp only [decodeParcels, hp, if_true]
  constructor
  · intro h
    split at h
    · cases h
    · next hc =>
      split at h
      · next j hj =>
        cases h
        have hl := longOf_of_longInstr hj
        exact ⟨hl, by rw [wellFormed_of_longOf hl, hc]; rfl⟩
      · cases h
  · rintro ⟨hl, hw⟩
    rw [wellFormed_of_longOf hl] at hw
    rw [Option.isNone_iff_eq_none.1 hw, longInstr_of_longOf hl]

/-- The opcode and fields of a short whose follower, if it leads a pair, is `p1` (03 R49, R59). -/
def shortAt (p0 p1 : BitVec 32) : Nat × ShortFields :=
  ((shortParts p0).1, { (shortParts p0).2 with fol := if p0.getLsbD 0 then p1 else 0 })

theorem lead_shortParts (p : BitVec 32) : (shortParts p).2.lead = p.getLsbD 0 := rfl

theorem shortAt_alone {p0 p1 : BitVec 32} (h : p0.getLsbD 0 = false) : shortAt p0 p1 = shortParts p0 := by
  rw [shortAt, h]
  rfl

theorem shortAt_pair {p0 p1 : BitVec 32} (h : p0.getLsbD 0 = true) :
    shortAt p0 p1 = ((shortParts p0).1, { (shortParts p0).2 with fol := p1 }) := by
  rw [shortAt, h]
  rfl

theorem shortOk_alone {p0 : BitVec 32} (h : p0.getLsbD 0 = false) :
    shortOk (shortParts p0).1 (shortParts p0).2 = (checkShort (shortParts p0).1 (shortParts p0).2).isNone := by
  rw [shortOk, lead_shortParts, h]
  rfl

theorem shortOk_pair {p0 p1 : BitVec 32} (h : p0.getLsbD 0 = true) :
    shortOk (shortParts p0).1 { (shortParts p0).2 with fol := p1 } =
      (p1.extractLsb' 0 2 == 0 && (checkPair (shortParts p0) (shortParts p1)).isNone) := by
  rw [shortOk, lead_shortParts, h]
  rfl

/-- The parcel of a short that stands alone, or those of a pair, decode to it (03 R49, R59). -/
theorem decodeParcels_short {p0 p1 p2 : BitVec 32} (hp : p0.getLsbD 1 = false) (i : Instr) :
    decodeParcels true p0 p1 p2 = .ok i ↔ shortOf i = some (shortAt p0 p1) ∧ wellFormed i = true := by
  simp only [decodeParcels, hp, Bool.false_eq_true, if_false, Bool.not_true, Bool.false_or]
  cases hl : p0.getLsbD 0 with
  | true =>
    rw [if_pos ((lead_shortParts p0).trans hl), shortAt_pair hl]
    constructor
    · intro h
      split at h
      · cases h
      · next hf =>
        split at h
        · cases h
        · next hc =>
          split at h
          · next j hj =>
            cases h
            have hs := shortOf_of_shortInstr hj
            exact ⟨hs, by rw [wellFormed_of_shortOf hs, shortOk_pair hl, hc]; simpa using hf⟩
          · cases h
    · rintro ⟨hs, hw⟩
      rw [wellFormed_of_shortOf hs, shortOk_pair hl, Bool.and_eq_true] at hw
      obtain ⟨hf, hc⟩ := hw
      rw [if_neg (by simpa using hf), Option.isNone_iff_eq_none.1 hc, shortInstr_of_shortOf hs]
  | false =>
    rw [if_neg (Bool.eq_false_iff.1 ((lead_shortParts p0).trans hl)), shortAt_alone hl]
    constructor
    · intro h
      split at h
      · cases h
      · next hc =>
        split at h
        · next j hj =>
          cases h
          have hs := shortOf_of_shortInstr hj
          exact ⟨hs, by rw [wellFormed_of_shortOf hs, shortOk_alone hl, hc]; rfl⟩
        · cases h
    · rintro ⟨hs, hw⟩
      have instr : shortInstr (shortParts p0).1 (shortParts p0).2 = some i := shortInstr_of_shortOf hs
      rw [wellFormed_of_shortOf (sop := (shortParts p0).1) (f := (shortParts p0).2) hs, shortOk_alone hl] at hw
      rw [Option.isNone_iff_eq_none.1 hw, instr]

/-- What parcels decode to has those parcels as its encoding, as many as the first names (03 R46). -/
theorem encodeParcels_of_decodeParcels {p0 p1 p2 : BitVec 32} {i : Instr} (h : decodeParcels true p0 p1 p2 = .ok i) :
    encodeParcels i = [p0, p1, p2].take (parcelCount p0) ∧ wellFormed i = true := by
  cases hp : p0.getLsbD 1 with
  | true =>
    obtain ⟨hl, hw⟩ := (decodeParcels_long hp i).1 h
    have low : (p1 ++ p0).extractLsb' 0 32 = p0 := extractLsb'_append_low 32
    have one : (p1 ++ p0).getLsbD 1 = true := by rw [BitVec.getLsbD_append]; simpa using hp
    have op : (p0.extractLsb' 2 8).toNat = ((p1 ++ p0).extractLsb' 2 8).toNat := by
      rw [BitVec.extractLsb'_append_eq_of_add_le (by decide)]
    have ext : (fieldsOf (p1 ++ p0) p2).ext = p0.getLsbD 0 := by
      simp only [fieldsOf]
      rw [BitVec.getLsbD_append]
      rfl
    have lit : (fieldsOf (p1 ++ p0) p2).lit = if p0.getLsbD 0 then p2 else 0 := by
      rw [← ext]; rfl
    rw [encodeParcels_of_longOf hl, op, wordOf_fieldsOf _ _ one, low, ext, lit, parcelCount_eq, hp]
    refine ⟨?_, hw⟩
    have high : (p1 ++ p0).extractLsb' 32 32 = p1 := by
      rw [extractLsb'_append_high 32 (Nat.le_refl 32)]
      exact BitVec.extractLsb'_eq_self
    rw [high]
    cases p0.getLsbD 0 <;> rfl
  | false =>
    obtain ⟨hs, hw⟩ := (decodeParcels_short hp i).1 h
    rw [encodeParcels_of_shortOf (sop := (shortParts p0).1) hs, shortWord_shortParts p0 _ hp, parcelCount_eq, hp]
    refine ⟨?_, hw⟩
    rw [lead_shortParts]
    cases p0.getLsbD 0 <;> rfl

/-! ### Decoding bytes -/

theorem parcelCount_cases (p : BitVec 32) : parcelCount p = 1 ∨ parcelCount p = 2 ∨ parcelCount p = 3 := by
  rw [parcelCount_eq]
  cases p.getLsbD 1 <;> cases p.getLsbD 0 <;> decide

theorem decode_one {p0 : BitVec 32} (r : List Byte) (hc : parcelCount p0 = 1) :
    decode (parcelBytes p0 ++ r) = (decodeParcels true p0 0 0).map (·, r) := by
  simp only [decode, takeParcel_parcelBytes, hc]

theorem decode_two {p0 : BitVec 32} (p1 : BitVec 32) (r : List Byte) (hc : parcelCount p0 = 2) :
    decode (parcelBytes p0 ++ (parcelBytes p1 ++ r)) = (decodeParcels true p0 p1 0).map (·, r) := by
  simp only [decode, takeParcel_parcelBytes, hc]

theorem decode_three {p0 : BitVec 32} (p1 p2 : BitVec 32) (r : List Byte) (hc : parcelCount p0 = 3) :
    decode (parcelBytes p0 ++ (parcelBytes p1 ++ (parcelBytes p2 ++ r))) = (decodeParcels true p0 p1 p2).map (·, r) := by
  simp only [decode, takeParcel_parcelBytes, hc]

theorem map_pair_eq_ok {x : Except DecodeError Instr} {r rest : List Byte} {i : Instr} :
    x.map (·, r) = .ok (i, rest) ↔ x = .ok i ∧ r = rest := by
  cases x <;> simp [Except.map]

/-- Bytes that decode begin with as many parcels as the first names, and those decode (03 R46). -/
theorem parcels_of_decode {bs rest : List Byte} {i : Instr} (h : decode bs = .ok (i, rest)) :
    ∃ p0 p1 p2, decodeParcels true p0 p1 p2 = .ok i ∧
      bs = ([p0, p1, p2].take (parcelCount p0)).flatMap parcelBytes ++ rest := by
  unfold decode at h
  split at h
  · cases h
  · next p0 r0 h0 =>
    have e0 := takeParcel_eq_some.1 h0
    split at h
    · next hc =>
      obtain ⟨hd, rfl⟩ := map_pair_eq_ok.1 h
      exact ⟨p0, 0, 0, hd, by simp [hc, e0]⟩
    · next hc =>
      split at h
      · cases h
      · next p1 r1 h1 =>
        obtain ⟨hd, rfl⟩ := map_pair_eq_ok.1 h
        exact ⟨p0, p1, 0, hd, by simp [hc, e0, takeParcel_eq_some.1 h1]⟩
    · next h1 h2 =>
      have hc : parcelCount p0 = 3 := by
        rcases parcelCount_cases p0 with n | n | n
        · exact absurd n h1
        · exact absurd n h2
        · exact n
      split at h
      · cases h
      · next p1 r1 h1 =>
        split at h
        · cases h
        · next p2 r2 h2 =>
          obtain ⟨hd, rfl⟩ := map_pair_eq_ok.1 h
          exact ⟨p0, p1, p2, hd, by simp [hc, e0, takeParcel_eq_some.1 h1, takeParcel_eq_some.1 h2]⟩

/-- A long or extended instruction survives its encoding. -/
theorem decode_encode_of_longOf {i : Instr} {op : Nat} {f : Fields} (rest : List Byte) (hl : longOf i = some (op, f))
    (hw : wellFormed i = true) : decode (encode i ++ rest) = .ok (i, rest) := by
  have word : (wordOf op f).extractLsb' 32 32 ++ (wordOf op f).extractLsb' 0 32 = wordOf op f := by
    simp [extractLsb'_join 32, BitVec.extractLsb'_eq_self]
  have one : ((wordOf op f).extractLsb' 0 32).getLsbD 1 = true := by
    simpa using wordOf_bit_one op f
  have zero : ((wordOf op f).extractLsb' 0 32).getLsbD 0 = f.ext := by
    have bit : (wordOf op f).getLsbD 0 = f.ext := getLsbD_of_extractLsb' (extractLsb'_append_low 1)
    simpa using bit
  have num : (((wordOf op f).extractLsb' 0 32).extractLsb' 2 8).toNat = op := by
    rw [BitVec.extractLsb'_extractLsb'_of_le (by decide)]
    exact op_of_wordOf f (op_lt_of_longOf hl)
  have check : checkLong op f = none := by simpa [wellFormed_of_longOf hl] using hw
  have parcels : ∀ {p2}, f.lit = (if f.ext then p2 else 0) →
      decodeParcels true ((wordOf op f).extractLsb' 0 32) ((wordOf op f).extractLsb' 32 32) p2 = .ok i := by
    intro p2 h
    rw [decodeParcels_long one, num, word, fieldsOf_wordOf op f p2 h]
    exact ⟨hl, hw⟩
  have count := parcelCount_eq ((wordOf op f).extractLsb' 0 32)
  rw [one, zero] at count
  cases he : f.ext with
  | true =>
    have lit := parcels (p2 := f.lit) (by simp [he])
    rw [encode, encodeParcels_of_longOf hl]
    simp only [he, if_true, List.cons_append, List.nil_append, List.flatMap_cons, List.flatMap_nil, List.append_nil,
      List.append_assoc]
    rw [decode_three _ _ _ (by simpa [he] using count), lit]
    rfl
  | false =>
    have lit := parcels (p2 := 0) (by simpa [he] using lit_eq_zero_of_checkLong check he)
    rw [encode, encodeParcels_of_longOf hl]
    simp only [he, Bool.false_eq_true, if_false, List.append_nil, List.flatMap_cons, List.flatMap_nil, List.append_assoc]
    rw [decode_two _ _ (by simpa [he] using count), lit]
    rfl

/-- A short instruction or a pair survives its encoding. -/
theorem decode_encode_of_shortOf {i : Instr} {sop : Nat} {f : ShortFields} (rest : List Byte) (hs : shortOf i = some (sop, f))
    (hw : wellFormed i = true) : decode (encode i ++ rest) = .ok (i, rest) := by
  have one := shortWord_bit_one sop f
  have zero : (shortWord sop f).getLsbD 0 = f.lead := getLsbD_of_extractLsb' (extractLsb'_append_low 1)
  have parts := shortParts_shortWord f (sop_lt_of_shortOf hs)
  have count := parcelCount_eq (shortWord sop f)
  rw [one, zero] at count
  rw [encode, encodeParcels_of_shortOf hs]
  cases hl : f.lead with
  | true =>
    have parcels : decodeParcels true (shortWord sop f) f.fol 0 = .ok i := by
      rw [decodeParcels_short one, shortAt_pair (zero.trans hl), parts]
      exact ⟨hs, hw⟩
    simp only [if_true, List.flatMap_cons, List.flatMap_nil, List.append_nil, List.append_assoc]
    rw [decode_two _ _ (by simpa [hl] using count), parcels]
    rfl
  | false =>
    have fol : f.fol = 0 := by
      have ok : shortOk sop f = true := wellFormed_of_shortOf hs ▸ hw
      simp only [shortOk, hl, Bool.false_eq_true, if_false, Bool.and_eq_true, beq_iff_eq] at ok
      exact ok.1
    have parcels : decodeParcels true (shortWord sop f) 0 0 = .ok i := by
      rw [decodeParcels_short one, shortAt_alone (zero.trans hl), parts, ← fol]
      exact ⟨hs, hw⟩
    simp only [Bool.false_eq_true, if_false, List.flatMap_cons, List.flatMap_nil, List.append_nil]
    rw [decode_one _ (by simpa [hl] using count), parcels]
    rfl

/-- A host command survives its entry (19 R373). -/
theorem decodeCommand_entryWord {i : Instr} {op : Nat} {sel : Option Nat} {e : CmdEntry}
    (hc : commandOf i = some (op, sel, e)) (hw : wellFormed i = true) : decodeCommand (entryWord op e) = .ok i := by
  have instr : commandInstr op e = some i :=
    commandInstr_of_commandOf hc (fun k hk => selector_of_wellFormed (hk ▸ hc) hw)
  rw [decodeCommand, entryOf_entryWord e (op_lt_of_commandOf hc), instr]

theorem encodeCommand_of_commandOf {i : Instr} {op : Nat} {sel : Option Nat} {e : CmdEntry}
    (h : commandOf i = some (op, sel, e)) : encodeCommand i = some (entryWord op e) := by
  simp only [encodeCommand, h, entryWord]

theorem encodeCommand_of_decodeCommand {w : BitVec 512} {i : Instr} (h : decodeCommand w = .ok i) :
    encodeCommand i = some w := by
  unfold decodeCommand at h
  split at h
  · next j hj =>
    cases h
    obtain ⟨sel, hc⟩ := commandOf_of_commandInstr hj
    rw [encodeCommand_of_commandOf hc, entryWord_entryOf]
  · cases h

/-- Settles O1: the fields of a word are read back from it, one format at a time. -/
theorem decodeOfEncode : Obligations.DecodeOfEncode := by
  refine ⟨fun i rest hw hi => ?_, fun i c hc hw => ?_, fun w i h => encodeCommand_of_decodeCommand h⟩
  · cases hl : longOf i with
    | some p => exact decode_encode_of_longOf rest hl hw
    | none =>
      obtain ⟨p, hs⟩ := Option.isSome_iff_exists.1 (hi.resolve_left (by simp [hl]))
      exact decode_encode_of_shortOf rest hs hw
  · exact ⟨_, encodeCommand_of_commandOf hc, decodeCommand_entryWord hc hw⟩

/-- Settles O2: the parcels that decode are those of the encoding, and the checks of decoding are those of well-formedness. -/
theorem encodeOfDecode : Obligations.EncodeOfDecode := by
  intro bs i rest h
  obtain ⟨p0, p1, p2, hd, rfl⟩ := parcels_of_decode h
  obtain ⟨hp, hw⟩ := encodeParcels_of_decodeParcels hd
  exact ⟨by rw [encode, hp], hw⟩

theorem length_flatMap_parcelBytes (ps : List (BitVec 32)) : (ps.flatMap parcelBytes).length = 4 * ps.length := by
  induction ps with
  | nil => rfl
  | cons p ps ih => rw [List.flatMap_cons, List.length_append, ih, List.length_cons, Nat.mul_succ, Nat.add_comm]; rfl

theorem length_take_parcelCount (p0 p1 p2 : BitVec 32) : ([p0, p1, p2].take (parcelCount p0)).length = parcelCount p0 := by
  rcases parcelCount_cases p0 with h | h | h <;> rw [h] <;> rfl

/-- The parcel at the head of the bytes is the first of those that decode. -/
theorem head_of_flatMap_take {p0 p1 p2 : BitVec 32} {b0 b1 b2 b3 : Byte} {bs rest : List Byte}
    (h : b0 :: b1 :: b2 :: b3 :: bs = ([p0, p1, p2].take (parcelCount p0)).flatMap parcelBytes ++ rest) :
    p0 = parcelOf b0 b1 b2 b3 := by
  have left : takeParcel (b0 :: b1 :: b2 :: b3 :: bs) = some (parcelOf b0 b1 b2 b3, bs) := rfl
  have right : ∃ r, takeParcel (b0 :: b1 :: b2 :: b3 :: bs) = some (p0, r) := by
    rw [h]
    rcases parcelCount_cases p0 with n | n | n <;> rw [n] <;>
      simp only [List.take_succ_cons, List.take_zero, List.flatMap_cons, List.append_assoc, takeParcel_parcelBytes] <;>
      exact ⟨_, rfl⟩
  obtain ⟨r, hr⟩ := right
  rw [left] at hr
  cases hr
  rfl

/-- Settles O3: the decoder takes as many parcels as the first names, and its bit 1 tells a long format from a short one. -/
theorem lengthFromLowBits : Obligations.LengthFromLowBits := by
  refine ⟨fun p => ?_, fun b0 b1 b2 b3 bs i rest h => ?_⟩
  · unfold parcelCount
    generalize p.extractLsb' 0 2 = low
    revert low
    decide
  · obtain ⟨p0, p1, p2, hd, hb⟩ := parcels_of_decode h
    obtain ⟨hp, -⟩ := encodeParcels_of_decodeParcels hd
    obtain rfl := head_of_flatMap_take hb
    have len := congrArg List.length hb
    rw [List.length_append, length_flatMap_parcelBytes, length_take_parcelCount] at len
    simp only [List.length_cons] at len
    refine ⟨⟨by omega, by rw [byteLen, hp, length_take_parcelCount]⟩, fun h1 => ?_, fun h1 => ?_⟩
    · exact Option.isSome_of_eq_some ((decodeParcels_short h1 i).1 hd).1
    · exact Option.isSome_of_eq_some ((decodeParcels_long h1 i).1 hd).1

/-- Settles O4: the decoder evaluates on each of the words. -/
theorem wordsDecode : Obligations.WordsDecode := ⟨rfl, rfl, rfl, rfl, rfl⟩

end Sys2Proof
end

section
/-! SUPPORT. Branches and the other instructions of the control range that only move the program counter or write a register (03 R63, 04
R78-R80, R86, R87): what each body answers. -/

namespace Sys2Proof.Machine

theorem advance_eq (t : Thread) (f : Fields) : t.advance f.parcels = { t with pc := t.pc + 4 * BitVec.ofNat 55 f.parcels } := by
  rw [Thread.advance, pc_parcels]

theorem skip_eq (s : State) (f : Fields) :
    s.skip f = { s with thr := { s.thr with pc := s.thr.pc + 4 * BitVec.ofNat 55 f.parcels } } := by
  rw [State.skip, State.modThr, advance_eq]

/-- `BRC` and `LOOP` go to their target or on. -/
theorem branch_or_skip (f : Fields) (s : State) (taken : Bool) :
    (if taken then doBra f s else .ok (s.skip f)) = .ok { s with thr := { s.thr with
      pc := if taken then s.thr.pc + dispBytes f else s.thr.pc + 4 * BitVec.ofNat 55 f.parcels } } := by
  cases taken
  · exact congrArg Except.ok (skip_eq s f)
  · rfl

theorem doLoop_eq (f : Fields) (s : State) :
    doLoop f s = .ok { s with thr := { s.thr.write (.s (s.thr.wins.s.wb + f.d.toNat) (s.thr.sReg f.d.toNat - 1) false) with
      pc := if s.thr.sReg f.d.toNat = 1 then s.thr.pc + 4 * BitVec.ofNat 55 f.parcels else s.thr.pc + dispBytes f } } := by
  have last : (s.thr.sReg f.d.toNat - 1 != 0) = !decide (s.thr.sReg f.d.toNat = 1) := by
    have zero : s.thr.sReg f.d.toNat - 1 = 0 ↔ s.thr.sReg f.d.toNat = 1 :=
      BitVec.sub_eq_iff_eq_add
    rw [bne, Bool.beq_eq_decide_eq, decide_eq_decide.2 zero]
  refine (branch_or_skip f _ _).trans ?_
  rw [last]
  by_cases h : s.thr.sReg f.d.toNat = 1 <;> simp [h, State.modThr, Thread.write]

theorem min_eq_ite_lt (a b : Nat) : min a b = if b < a then b else a := by
  split <;> omega

/-- The source of `UPUT`: the row accepts the type `.s64` alone, so an immediate is sign-extended (04 R86). -/
theorem uput_operand (f : Fields) (t : Thread) (hc : checkLong 0x0F f = none) :
    t.operand f f.bk f.b none =
      if f.bk = 3 then (if f.ext then f.lit.signExtend 64 else (f.c ++ f.b).signExtend 64) else t.sReg f.b.toNat := by
  have ty : f.et.toNat = 3 := by
    simpa [tyOk] using tyOk_of_checkLong hc rfl
  simp [Thread.operand, immWord, ty, Fields.imm14]

/-- Settles O15: each body answers the thread with its program counter moved and at most one register written. -/
theorem branches : Obligations.Branches := by
  intro f s
  refine ⟨?_, ?_, ?_, ?_, ?_, ?_, ?_⟩
  · exact givesThread_of_body 0x00 _ f s _ _ (doNop f) rfl (fun u _ _ => ⟨_, congrArg Except.ok (skip_eq u f), rfl⟩)
  · exact givesThread_of_body 0x01 _ f s _ _ (doBra f) rfl (fun u _ _ => ⟨_, rfl, rfl⟩)
  · exact givesThread_of_body 0x02 _ f s _ _ (doBrc f) rfl (fun u _ _ =>
      ⟨_, branch_or_skip f u _, by simp [brcTaken, dispBytes, Fields.imm14]⟩)
  · exact givesThread_of_body 0x03 _ f s _ _ (doLoop f) rfl (fun u _ _ =>
      ⟨_, doLoop_eq f u, _, uniResult_write f u.thr u.thr _, rfl⟩)
  · exact givesThread_of_body 0x04 _ f s _ _ (doJtab f) rfl (fun u _ _ => ⟨_, rfl, by rw [min_eq_ite_lt]⟩)
  · exact givesThread_of_body 0x0F _ f s _ _ (doUput f) rfl (fun u hc _ =>
      ⟨_, rfl, _, uput_operand f u.thr hc ▸ uniResult_write f u.thr u.thr _, advance_eq _ f⟩)
  · exact givesState_of_body 0x10 _ f s _ _ (doYield f) rfl (fun u _ _ => ⟨_, rfl, skip_eq _ f⟩)

end Sys2Proof.Machine
end

section
/-! Short instructions and pairs (03 R50, R51, R60): the statement asks of a leader's trap no check of the pair's encoding, and a
leader that the decoder refuses need not trap. -/

namespace Sys2Proof.Machine

/-- `AADD` as a leader with a uniform destination, which 03 R51 does not allow it: it reads `s0`, where the statement's operand is
`a0`. Its follower is `NOP`. -/
def uniformAadd : ShortFields := { lead := true, hi := 0, bf := 1, d := 0, df := 0, fol := 0 }

/-- A group of one register in each file; the stride of `a0` is the greatest, so twice the stride does not fit. -/
def steepStride : State :=
  { State.reset with thr :=
      { status := .ready, wins := { s := { ws := 1, alloc := 1 }, a := { ws := 1, alloc := 1 } }
        files := { a := [(0, { stride := 0x7FFFFFFF })] } } }

theorem uniformAadd_refused : checkPair (0x14, uniformAadd) (shortParts uniformAadd.fol) = some (4, false) := by decide +kernel

theorem uniformAadd_clear : ShortClear 0x14 uniformAadd 1 (steepStride.shortWaited 0x14 uniformAadd).thr :=
  (issueCheck_eq_none _ _ _ _ _ _ _).1 (by decide +kernel)

theorem uniformAadd_overflows : ¬ ShortRuns 0x14 uniformAadd (steepStride.shortWaited 0x14 uniformAadd).thr := by
  have stride : (shortAff 0x14 uniformAadd (steepStride.shortWaited 0x14 uniformAadd).thr).2 = 2 ^ 32 - 2 := by decide +kernel
  rw [ShortRuns, if_pos ⟨by decide, by decide⟩, stride]
  omega

/-- The pair is performed: no cause is recorded. -/
theorem uniformAadd_runs : ∃ t, exec (.aaddShort uniformAadd) steepStride = .next t ∧ t.thr.trap.cause = 0 :=
  ⟨_, rfl, by decide +kernel⟩

theorem trap_of_steepStride :
    ((steepStride.shortWaited 0x14 uniformAadd).completeAll.takeTrap { cause := 0x16 } 2).thr.trap.cause = 0x16 := by
  decide +kernel

/-- Refutes O41: the clause for a leader whose stride overflows has no premise `checkPair`, and holds of no `AADD` that names a
uniform destination: its sum is formed of `s0`, and fits. -/
theorem not_shortsAndPairs : ¬ Obligations.ShortsAndPairs := by
  intro h
  obtain ⟨-, -, -, -, leaderOverflows, -⟩ := h (0x14, .aaddShort) (by simp) uniformAadd steepStride
  have traps := leaderOverflows rfl uniformAadd_clear ⟨by decide, by decide, uniformAadd_overflows⟩
  obtain ⟨t, runs, cause⟩ := uniformAadd_runs
  rw [runs] at traps
  injection traps with same
  rw [same, trap_of_steepStride] at cause
  exact absurd cause (by decide)

end Sys2Proof.Machine
end

section
/-! What passes with every step (10 R209): the state after a step is not always the step's own with a new time, because a `WAITV`
whose location satisfies it goes on. -/

namespace Sys2Proof.Machine

/-- A group that waits for a byte to be zero, as the byte is. -/
def satisfiedWait : State := { State.reset with thr := { status := .waiting (.val 0 1 0 false 0) } }

theorem after_satisfiedWait : satisfiedWait.after.thr.status = .ready := by decide +kernel

/-- Refutes O58: its last clause says that time alone passes after a step, but `State.after` reads the location of a `WAITV` again
and ends the wait, which changes the thread. -/
theorem not_stepRunsDecoded : ¬ Obligations.StepRunsDecoded := by
  intro h
  obtain ⟨-, -, -, -, -, -, timeAlone⟩ := h
  have same : satisfiedWait.after.thr.status = satisfiedWait.thr.status := congrArg (fun t => t.thr.status) (timeAlone satisfiedWait)
  rw [after_satisfiedWait] at same
  cases same

end Sys2Proof.Machine
end

section
/-! A wait whose group is to take a trap (10 R209, 17 R323): a cause that is due keeps a satisfied `WAITV` from going on. -/

namespace Sys2Proof.Machine

/-- The group of `satisfiedWait`, to which a cause is due. -/
def dueWait : State := { satisfiedWait with thr := { satisfiedWait.thr with held := [{ cause := 0x55 }] } }

theorem waitvHolds_dueWait : waitvHolds dueWait dueWait.thr 0 1 0 false 0 = true := by decide +kernel

theorem dueWait_waits : ∃ t, exec (.waitvReread 0) dueWait = .next t ∧ t.thr.status = .waiting (.val 0 1 0 false 0) :=
  ⟨_, rfl, by decide +kernel⟩

/-- Refutes O50: the clause for `WAITV_REREAD` lets the wait end whenever its location satisfies it, but a group that holds a cause
goes on waiting. -/
theorem not_threadEvents : ¬ Obligations.ThreadEvents := by
  intro h
  obtain ⟨rereads, -⟩ := h 0 dueWait
  obtain ⟨ends, -⟩ := rereads 0 1 0 false 0 rfl rfl rfl (fun x hx => by cases hx) rfl
  obtain ⟨t, runs, goesOn⟩ := ends waitvHolds_dueWait
  obtain ⟨t', runs', waits⟩ := dueWait_waits
  rw [runs] at runs'
  injection runs' with same
  rw [← same, goesOn] at waits
  cases waits

end Sys2Proof.Machine
end

section
/-! Calls, returns and windows (04 R73, R81, R82): what a push answers, and what each body answers where its checks hold and where one
fails. -/

namespace Sys2Proof.Machine

/-! ### Pushing an entry, and the join of lane focus -/

theorem push_of_fits {t : Thread} {e : Entry} (h : ({ t with stack := e :: t.stack } : Thread).spillFits = true) :
    t.push e = some { t with stack := e :: t.stack } := if_pos h

theorem push_of_overflow {t : Thread} {e : Entry} (h : ({ t with stack := e :: t.stack } : Thread).spillFits = false) :
    t.push e = none := if_neg (by simp [h])

/-- With no focus entry on top there is nothing to join (18 R366). -/
theorem focusJoin_of_head {s : State} (perform : State → Except TrapInfo State) (h : ∀ x, s.thr.stack.head? ≠ some (.focus x)) :
    s.focusJoin perform = perform s := by
  unfold State.focusJoin
  split
  · next e rest hs => exact absurd (by rw [hs]; rfl) (h e)
  · rfl

/-! ### Calls -/

/-- The thread with the frame of a call on its stack: the return address and the windows (04 R81). -/
def Thread.framed (t : Thread) (f : Fields) : Thread :=
  { t with stack := .frame (t.pc + 4 * BitVec.ofNat 55 f.parcels) t.wins.bases :: t.stack }

theorem callTo_of_fits {f : Fields} {s : State} (target : Pc) (h : (s.thr.framed f).spillFits = true) :
    callTo f target s = .ok { s with thr := { s.thr.framed f with pc := target } } := by
  simp only [callTo, pc_parcels, push_of_fits h]
  rfl

theorem callTo_of_overflow {f : Fields} {s : State} (target : Pc) (h : (s.thr.framed f).spillFits = false) :
    callTo f target s = .error { cause := 0x11 } := by
  simp only [callTo, pc_parcels, push_of_overflow h]

theorem doCalli_of_aligned {f : Fields} {s : State} (h : ((s.thr.sReg f.a.toNat).setWidth 55 : Pc).toNat % 4 = 0) :
    doCalli f s = callTo f ((s.thr.sReg f.a.toNat).setWidth 55) s := if_neg (by rw [h]; decide)

theorem doCalli_of_misaligned {f : Fields} {s : State} (h : ((s.thr.sReg f.a.toNat).setWidth 55 : Pc).toNat % 4 ≠ 0) :
    doCalli f s = .error { cause := 0x07 } := if_pos (by simpa using h)

/-! ### Returns -/

theorem doRet_of_frame (f : Fields) {s : State} {ret : Pc} {w : Bases} {rest : List Entry} (h : s.thr.stack = .frame ret w :: rest) :
    doRet f s = .ok { s with thr := { s.thr with wins := s.thr.wins.restore w, stack := rest, pc := ret } } := by
  rw [doRet, focusJoin_of_head _ (by simp [h]), retOver, h]
  rfl

theorem doRet_of_empty (f : Fields) {s : State} (h : s.thr.stack = []) : doRet f s = .error { cause := 0x14 } := by
  rw [doRet, focusJoin_of_head _ (by simp [h]), retOver, h]

theorem doRet_of_other (f : Fields) {s : State} {e : Entry} {rest : List Entry} (hs : s.thr.stack = e :: rest)
    (frame : ∀ r w, e ≠ .frame r w) (focus : ∀ x, e ≠ .focus x) : doRet f s = .error { cause := 0x12 } := by
  rw [doRet, focusJoin_of_head _ (by simpa [hs] using focus), retOver, hs]
  cases e with
  | frame r w => exact absurd rfl (frame r w)
  | cls _ | focus _ | trap _ => rfl

/-! ### Sliding windows -/

/-- The sizes that `ENTER` names, of the varying, the uniform and the affine window (04 R82). -/
def enterV (f : Fields) : Nat := (f.lit.extractLsb' 0 8).toNat
def enterS (f : Fields) : Nat := (f.lit.extractLsb' 8 8).toNat
def enterA (f : Fields) : Nat := (f.lit.extractLsb' 16 8).toNat

/-- Each size is at least 1 and within its allocation (04 R82). -/
def EnterSizes (f : Fields) (t : Thread) : Prop :=
  0 < enterV f ∧ enterV f ≤ t.wins.v.alloc ∧ 0 < enterS f ∧ enterS f ≤ t.wins.s.alloc ∧ 0 < enterA f ∧ enterA f ≤ t.wins.a.alloc

/-- The windows after `ENTER` (04 R82). -/
def Thread.slidWins (t : Thread) (f : Fields) : Wins :=
  { s := t.wins.s.move (t.wins.s.wb + f.b.toNat) (enterS f)
    a := t.wins.a.move (t.wins.a.wb + f.c.toNat) (enterA f)
    v := t.wins.v.move (t.wins.v.wb + f.a.toNat) (enterV f) }

theorem windowsAre_slidWins (t : Thread) (f : Fields) : WindowsAre t.wins (t.slidWins f)
    { swb := t.wins.s.wb + f.b.toNat, sws := enterS f, awb := t.wins.a.wb + f.c.toNat, aws := enterA f
      vwb := t.wins.v.wb + f.a.toNat, vws := enterV f } := ⟨rfl, rfl, rfl, rfl⟩

/-- The test of sizes that the body makes. -/
theorem enterSizes_iff (f : Fields) (t : Thread) : EnterSizes f t ↔
    ((enterV f == 0 || decide (t.wins.v.alloc < enterV f)) || (enterS f == 0 || decide (t.wins.s.alloc < enterS f)) ||
      (enterA f == 0 || decide (t.wins.a.alloc < enterA f))) = false := by
  simp only [EnterSizes, Bool.or_eq_false_iff, beq_eq_false_iff_ne, decide_eq_false_iff_not]
  omega

theorem doEnter_of_sizes {f : Fields} {s : State} (h : EnterSizes f s.thr) :
    doEnter f s = if ({ s.thr with wins := s.thr.slidWins f } : Thread).spillFits then
      .ok { s with thr := ({ s.thr with wins := s.thr.slidWins f } : Thread).advance f.parcels } else .error { cause := 0x11 } := by
  exact if_neg (Bool.eq_false_iff.1 ((enterSizes_iff f s.thr).1 h))

theorem doEnter_of_badSize {f : Fields} {s : State} (h : ¬ EnterSizes f s.thr) : doEnter f s = .error { cause := 0x15 } := by
  rw [enterSizes_iff, Bool.not_eq_false] at h
  exact if_pos h

/-- Nothing spills of a window that moves within its allocation while nothing is spilled (04 R70). -/
theorem low_move_eq_zero {w : Win} {wb ws : Nat} (low : w.low = 0) (within : wb + ws ≤ w.alloc) : (w.move wb ws).low = 0 := by
  simp only [Win.move, low]
  omega

/-- `ENTER` slides the windows where the spill area holds what leaves them. -/
theorem doEnter_of_fits {f : Fields} {s : State} (h : EnterSizes f s.thr)
    (fits : ({ s.thr with wins := s.thr.slidWins f } : Thread).spillFits = true) :
    doEnter f s = .ok { s with thr := { s.thr with
      wins := s.thr.slidWins f, pc := s.thr.pc + 4 * BitVec.ofNat 55 f.parcels } } := by
  rw [doEnter_of_sizes h, if_pos fits, advance_eq]

/-- Settles O16: each body answers by its first check that fails; `ENTER` overflows only where its sizes fit. -/
theorem callsAndWindows : Obligations.CallsAndWindows := by
  intro f s
  refine ⟨?_, ?_, ?_, ?_, ?_, fun ret w rest => ?_, ?_, fun e rest frame focus => ?_, fun hc hi sizes => ?_, ?_, ?_⟩
  · exact givesThread_of_body 0x05 _ f s _ _ (doCall f) rfl (fun u _ fits => ⟨_, callTo_of_fits _ fits, rfl⟩)
  · exact givesTrap_of_body 0x05 _ f s _ _ (doCall f) rfl (fun u _ full => callTo_of_overflow _ full)
  · exact givesThread_of_body 0x06 _ f s _ _ (doCalli f) rfl (fun u _ ⟨aligned, fits⟩ =>
      ⟨_, (doCalli_of_aligned aligned).trans (callTo_of_fits _ fits), rfl⟩)
  · exact givesTrap_of_body 0x06 _ f s _ _ (doCalli f) rfl (fun u _ => doCalli_of_misaligned)
  · exact givesTrap_of_body 0x06 _ f s _ _ (doCalli f) rfl (fun u _ ⟨aligned, full⟩ =>
      (doCalli_of_aligned aligned).trans (callTo_of_overflow _ full))
  · exact givesThread_of_body 0x07 _ f s _ _ (doRet f) rfl (fun u _ top =>
      ⟨_, doRet_of_frame f top, windowsAre_restore _ w, rfl⟩)
  · exact givesTrap_of_body 0x07 _ f s _ _ (doRet f) rfl (fun u _ => doRet_of_empty f)
  · exact givesTrap_of_body 0x07 _ f s _ _ (doRet f) rfl (fun u _ top => doRet_of_other f top frame focus)
  · cases fits : ({ (s.issued 0x08 f).thr with wins := (s.issued 0x08 f).thr.slidWins f } : Thread).spillFits with
    | true =>
      exact .inl ⟨_, rfl, _, runLong_ok 0x08 f s _ (doEnter f) hi (doEnter_of_fits sizes fits), rfl, windowsAre_slidWins _ f, rfl⟩
    | false =>
      have full : doEnter f (s.issued 0x08 f) = .error { cause := 0x11 } := by
        rw [doEnter_of_sizes sizes, fits]
        rfl
      exact .inr (congrArg Host.Outcome.next (runLong_error 0x08 f s _ (doEnter f) hi full))
  · refine givesThread_of_body 0x08 _ f s _ _ (doEnter f) rfl (fun u _ h => ?_)
    obtain ⟨sizes, lowS, lowA, lowV, inS, inA, inV, depth⟩ := h
    have fits : ({ u.thr with wins := u.thr.slidWins f } : Thread).spillFits = true :=
      spillFits_of_zero _ (low_move_eq_zero lowS inS) (low_move_eq_zero lowA inA) (low_move_eq_zero lowV inV) depth
    exact ⟨_, doEnter_of_fits sizes fits, windowsAre_slidWins _ f, rfl⟩
  · exact givesTrap_of_body 0x08 _ f s _ _ (doEnter f) rfl (fun u _ => doEnter_of_badSize)

end Sys2Proof.Machine
end

section
/-! The class loop, and the lanes that leave it (04 R73, R74, R83-R85; 17 R326): what opening a loop, going to its next class and taking
lanes away answer. -/

namespace Sys2Proof.Machine

/-! ### Opening a class loop -/

/-- The entry that opening a class loop pushes (04 R83). -/
def openedEntry (o : Order) (k : Key) (f : Fields) (t : Thread) : ClassEntry :=
  { order := o, outer := t.m0, pend := t.m0, key := k, body := t.pc + 4 * BitVec.ofNat 55 f.parcels, fin := t.pc + dispBytes f
    dest := t.wins.s.wb + f.d.toNat }

/-- No open class loop has its slot above `n` (04 R83). -/
def Thread.aboveFences (t : Thread) (n : Nat) : Prop := ∀ e, Entry.cls e ∈ t.stack → e.dest ≤ n

theorem belowFence_eq_false (t : Thread) (n : Nat) : t.belowFence n = false ↔ t.aboveFences n := by
  simp only [Thread.belowFence, Thread.aboveFences, List.any_eq_false]
  constructor
  · intro h e he
    simpa using h _ he
  · intro h x hx
    cases x with
    | cls e => simpa using h e hx
    | frame _ _ | focus _ | trap _ => simp

theorem openClass_of_belowFence (o : Order) (k : Key) {f : Fields} {s : State}
    (below : ¬ s.thr.aboveFences (s.thr.wins.s.wb + f.d.toNat)) : openClass o k f s = .error { cause := 0x10 } := by
  rw [← belowFence_eq_false, Bool.not_eq_false] at below
  exact if_pos below

theorem openClass_of_aboveFences (o : Order) (k : Key) {f : Fields} {s : State}
    (clear : s.thr.aboveFences (s.thr.wins.s.wb + f.d.toNat)) :
    openClass o k f s = (s.thr.push (.cls (openedEntry o k f s.thr))).elim (.error { cause := 0x11 })
      (fun t => .ok { s with thr := startNextClass t (openedEntry o k f s.thr) s.thr.stack }) := by
  simp only [openClass, pc_parcels, (belowFence_eq_false _ _).2 clear, Bool.false_eq_true, if_false, openedEntry]
  split
  · next full => rw [full]; rfl
  · next t fits => rw [fits]; rfl

/-- The class that starts does not depend on the stack beneath the loop's entry. -/
theorem openClass_of_fits {o : Order} {k : Key} {f : Fields} {s : State} (clear : s.thr.aboveFences (s.thr.wins.s.wb + f.d.toNat))
    (fits : ({ s.thr with stack := .cls (openedEntry o k f s.thr) :: s.thr.stack } : Thread).spillFits = true) :
    openClass o k f s = .ok { s with thr := startNextClass s.thr (openedEntry o k f s.thr) s.thr.stack } := by
  rw [openClass_of_aboveFences o k clear, push_of_fits fits]
  rfl

theorem openClass_of_overflow {o : Order} {k : Key} {f : Fields} {s : State} (clear : s.thr.aboveFences (s.thr.wins.s.wb + f.d.toNat))
    (full : ({ s.thr with stack := .cls (openedEntry o k f s.thr) :: s.thr.stack } : Thread).spillFits = false) :
    openClass o k f s = .error { cause := 0x11 } := by
  rw [openClass_of_aboveFences o k clear, push_of_overflow full]
  rfl

/-- An instruction that opens a class loop, where `k` gives the key of its classes (04 R83). -/
theorem givesOpening (op : Nat) (i : Instr) (f : Fields) (s : State) (o : Order) (k : Thread → Key)
    (he : exec i s = .next (runLong op f s (fun u => openClass o (k u.thr) f u))) :
    GivesThread op i f s (fun a => a.aboveFences (a.wins.s.wb + f.d.toNat) ∧ a.active ≠ 0 ∧
        ({ a with stack := .cls (openedEntry o (k a) f a) :: a.stack } : Thread).spillFits = true)
      (fun a b => ClassStarts a b (openedEntry o (k a) f a) a.stack) ∧
    GivesTrap op i f s (fun u => ¬ u.thr.aboveFences (u.thr.wins.s.wb + f.d.toNat)) (fun _ => { cause := 0x10 }) ∧
    GivesTrap op i f s (fun u => u.thr.aboveFences (u.thr.wins.s.wb + f.d.toNat) ∧
      ({ u.thr with stack := .cls (openedEntry o (k u.thr) f u.thr) :: u.thr.stack } : Thread).spillFits = false)
      (fun _ => { cause := 0x11 }) := by
  refine ⟨?_, ?_, ?_⟩
  · exact givesThread_of_body op i f s _ _ _ he (fun u _ ⟨clear, active, fits⟩ =>
      ⟨_, openClass_of_fits clear fits, startNextClass_starts _ _ _ active⟩)
  · exact givesTrap_of_body op i f s _ _ _ he (fun u _ => openClass_of_belowFence o (k u.thr))
  · exact givesTrap_of_body op i f s _ _ _ he (fun u _ ⟨clear, full⟩ => openClass_of_overflow clear full)

/-- The key by the file of the register that holds the classes (04 R83). -/
theorem classKey_eq (t : Thread) (f : Fields) : classKey t f =
    if f.ak = 0 then .uni (t.sReg f.a.toNat)
    else if f.ak = 1 then .aff (t.aReg f.a.toNat).base (t.aReg f.a.toNat).stride
    else .slot (t.wins.v.wb + f.a.toNat) := by
  have kinds : ∀ k : BitVec 2, k = 0 ∨ k = 1 ∨ k = 2 ∨ k = 3 := by decide
  rcases kinds f.ak with h | h | h | h <;> simp [classKey, h]

/-! ### The next class -/

theorem doNextc_of_pending (f : Fields) {s : State} {e : ClassEntry} {rest : List Entry} (top : s.thr.stack = .cls e :: rest)
    (pend : e.pend &&& ~~~ s.thr.help ≠ 0) : doNextc f s = .ok { s with thr := startNextClass s.thr e rest } := by
  rw [doNextc, focusJoin_of_head _ (by simp [top]), nextcOver, top]
  exact if_pos (bne_iff_ne.2 pend)

theorem doNextc_of_none_pending (f : Fields) {s : State} {e : ClassEntry} {rest : List Entry} (top : s.thr.stack = .cls e :: rest)
    (last : e.pend &&& ~~~ s.thr.help = 0) :
    doNextc f s = .ok { s with thr := { s.thr with m0 := e.outer, stack := rest, pc := e.fin } } := by
  rw [doNextc, focusJoin_of_head _ (by simp [top]), nextcOver, top]
  exact if_neg (by simp [last])

theorem doNextc_of_other (f : Fields) {s : State} (cls : ∀ x, s.thr.stack.head? ≠ some (.cls x))
    (focus : ∀ x, s.thr.stack.head? ≠ some (.focus x)) : doNextc f s = .error { cause := 0x12 } := by
  rw [doNextc, focusJoin_of_head _ focus, nextcOver]
  split
  · next e rest top => exact absurd (by rw [top]; rfl) (cls e)
  · rfl

/-! ### Lanes that leave -/

/-- A class entry. -/
def Entry.isCls (e : Entry) : Bool :=
  match e with
  | .cls _ => true
  | _ => false

/-- No trap entry. -/
def Entry.noTrap (e : Entry) : Bool :=
  match e with
  | .trap _ => false
  | _ => true

/-- The class entries that `LEAVE` can name are those above the topmost trap entry (04 R85). -/
theorem levels_eq (st : List Entry) : levels st = ((st.takeWhile Entry.noTrap).filter Entry.isCls).length := by
  induction st with
  | nil => rfl
  | cons e r ih =>
    cases e with
    | cls _ => exact congrArg (· + 1) ih
    | trap _ => rfl
    | frame _ _ | focus _ => exact ih

/-- What `LEAVE` makes of an entry that has `c` class entries above it: `lanes` go out of OUTER of the `k` innermost (04 R85). -/
def Entry.without (k : Nat) (lanes : Word) (c : Nat) (e : Entry) : Entry :=
  match e with
  | .cls x => if c < k then .cls { x with outer := x.outer &&& ~~~ lanes } else .cls x
  | e => e

theorem without_zero (lanes : Word) (c : Nat) : Entry.without 0 lanes c = id := by
  funext e
  cases e with
  | cls x => simp [Entry.without]
  | frame _ _ | focus _ | trap _ => rfl

theorem without_succ (k : Nat) (lanes : Word) (c : Nat) : Entry.without (k + 1) lanes (c + 1) = Entry.without k lanes c := by
  funext e
  cases e with
  | cls x => simp [Entry.without]
  | frame _ _ | focus _ | trap _ => rfl

theorem length_dropOuter (k : Nat) (lanes : Word) (st : List Entry) : (dropOuter k lanes st).length = st.length := by
  induction st generalizing k with
  | nil => rfl
  | cons e r ih =>
    cases e with
    | cls x =>
      cases k with
      | zero => rfl
      | succ k => exact congrArg (· + 1) (ih k)
    | frame _ _ | focus _ | trap _ => exact congrArg (· + 1) (ih k)

theorem getElem?_dropOuter (k : Nat) (lanes : Word) (st : List Entry) (n : Nat) :
    (dropOuter k lanes st)[n]? = st[n]?.map (Entry.without k lanes ((st.take n).filter Entry.isCls).length) := by
  induction st generalizing k n with
  | nil => rfl
  | cons e r ih =>
    cases e with
    | cls x =>
      cases k with
      | zero => rw [without_zero, Option.map_id]; rfl
      | succ k =>
        cases n with
        | zero => rfl
        | succ n => exact (ih k n).trans (by rw [← without_succ]; rfl)
    | frame _ _ | focus _ | trap _ =>
      cases n with
      | zero => rfl
      | succ n => exact ih k n

/-- The thread without its selected lanes, on the stack `st` (04 R85). -/
def Thread.unselected (t : Thread) (f : Fields) (st : List Entry) : Thread :=
  { t with m0 := t.m0 &&& ~~~ t.sel f, stack := st }

/-- How `LEAVE` and `EXIT` end: past the instruction while a real lane is left, else in a settle (04 R75, R85). -/
def LanesGone (f : Fields) (st : List Entry) (u v : State) : Prop :=
  (u.thr.m0 &&& ~~~ u.thr.sel f &&& ~~~ u.thr.help ≠ 0 → v = { u with thr := { u.thr.unselected f st with pc := u.thr.pc + 8 } }) ∧
  (u.thr.m0 &&& ~~~ u.thr.sel f &&& ~~~ u.thr.help = 0 → v = ({ u with thr := u.thr.unselected f st } : State).settle f.parcels)

/-- An instruction that exists in the long format alone has two parcels (03 R47, R55). -/
theorem parcels_of_long_form {op : Nat} {f : Fields} {r : Row} (hc : checkLong op f = none) (hr : rowOf op = some r)
    (long : r.form = .long) : f.parcels = 2 := by
  have form := formOk_of_checkLong hc hr
  simp only [formOk, long, Bool.and_eq_true, Bool.not_eq_true'] at form
  simp [Fields.parcels, form.1]

theorem leaveMask_lanesGone (f : Fields) (st : List Entry) (u : State) (two : f.parcels = 2) :
    LanesGone f st u (leaveMask f st u) := by
  refine ⟨fun left => ?_, fun settles => ?_⟩
  · refine (if_pos (bne_iff_ne.2 left)).trans ?_
    rw [advance_eq, two]
    rfl
  · exact if_neg (by simpa [Thread.active] using settles)

theorem doLeave_of_levels {f : Fields} {s : State} (enough : f.uimm < levels s.thr.stack) :
    doLeave f s = .ok (leaveMask f (dropOuter f.uimm (s.thr.sel f) s.thr.stack) s) :=
  if_neg (by omega)

theorem doLeave_of_few_levels {f : Fields} {s : State} (few : levels s.thr.stack ≤ f.uimm) :
    doLeave f s = .error { cause := 0x12 } :=
  if_pos (by omega)

/-- Settles O17: the entry pushed and the class that starts, then how the lanes that leave go out of the entries. -/
theorem classLoops : Obligations.ClassLoops := by
  refine ⟨fun f s => ⟨?_, ?_, ?_, fun e rest => ⟨?_, ?_⟩, ?_⟩, fun f s => ⟨?_, ?_, ?_⟩⟩
  · have opens := givesOpening 0x09 (.classFirst f) f s .first (fun t => classKey t f) rfl
    simp only [classKey_eq] at opens
    exact opens
  · have opens := givesOpening 0x0A (.classAsc f) f s .asc (fun t => classKey t f) rfl
    simp only [classKey_eq] at opens
    exact opens
  · exact givesOpening 0x0B (.classM f) f s .mask (fun t => .mask (t.mask f.a.toNat)) rfl
  · exact givesThread_of_body 0x0C _ f s _ _ (doNextc f) rfl (fun u _ ⟨top, pend⟩ =>
      ⟨_, doNextc_of_pending f top pend, startNextClass_starts _ e rest pend⟩)
  · exact givesThread_of_body 0x0C _ f s _ _ (doNextc f) rfl (fun u _ ⟨top, last⟩ =>
      ⟨_, doNextc_of_none_pending f top last, rfl⟩)
  · exact givesTrap_of_body 0x0C _ f s _ _ (doNextc f) rfl (fun u _ ⟨cls, focus⟩ => doNextc_of_other f cls focus)
  · exact givesState_of_body 0x0E _ f s _ _ (doExit f) rfl (fun u hc _ =>
      ⟨_, rfl, leaveMask_lanesGone f _ u (parcels_of_long_form hc rfl rfl)⟩)
  · refine givesState_of_body 0x0D _ f s _ _ (doLeave f) rfl (fun u hc inside => ?_)
    have enough : f.uimm < levels u.thr.stack := levels_eq _ ▸ inside
    refine ⟨_, doLeave_of_levels enough, _, length_dropOuter _ _ _, fun n _ => ?_,
      leaveMask_lanesGone f _ u (parcels_of_long_form hc rfl rfl)⟩
    rw [getElem?_dropOuter]
    cases u.thr.stack[n]? with
    | none => rfl
    | some e =>
      cases e with
      | cls x => exact apply_ite some _ _ _
      | frame _ _ | focus _ | trap _ => rfl
  · exact givesTrap_of_body 0x0D _ f s _ _ (doLeave f) rfl (fun u _ few => doLeave_of_few_levels (levels_eq u.thr.stack ▸ few))

end Sys2Proof.Machine
end

section
/-! SUPPORT. The operations that form an exact number (06 R103, R115): the sum, the product and what they hand to rounding. -/

namespace Sys2Proof.Machine

/-- The sign of a number. -/
def signOf (neg : Bool) : Rat := if neg then -1 else 1

theorem exact_rat_eq (x : Exact) : x.rat = signOf x.neg * x.mant * 2 ^ x.exp := rfl

theorem fin_rat_eq (n : Bool) (m : Nat) (e : Int) : (FVal.fin n m e).rat = signOf n * m * 2 ^ e := rfl

theorem signOf_false_mul (a : Rat) : signOf false * a = a := Rat.one_mul a

theorem signOf_true_mul (a : Rat) : signOf true * a = -a := (Rat.neg_mul 1 a).trans (congrArg (- ·) (Rat.one_mul a))

theorem signOf_not (n : Bool) : signOf (!n) = -signOf n := by
  cases n
  · rfl
  · exact (Rat.neg_neg 1).symm

theorem signOf_bne (n k : Bool) : signOf (n != k) = signOf n * signOf k := by
  cases n <;> cases k <;> grind [signOf]

theorem signOf_mul_self (n : Bool) : signOf n * signOf n = 1 := by
  cases n <;> grind [signOf]

theorem abs_signOf_mul (n : Bool) (a : Rat) : (signOf n * a).abs = a.abs := by
  cases n
  · rw [signOf_false_mul]
  · rw [signOf_true_mul, Rat.abs_neg]

theorem signOf_mul_natAbs (m : Int) : signOf (decide (m < 0)) * (m.natAbs : Rat) = m := by
  rw [← Rat.intCast_natCast]
  by_cases h : m < 0
  · rw [decide_eq_true h, Int.ofNat_natAbs_of_nonpos (Int.le_of_lt h), signOf_true_mul, Rat.intCast_neg, Rat.neg_neg]
  · rw [decide_eq_false h, Int.natAbs_of_nonneg (Int.not_lt.1 h), signOf_false_mul]

theorem two_zpow_pos (k : Int) : (0 : Rat) < 2 ^ k := Rat.zpow_pos (by decide)

theorem two_zpow_add (a b : Int) : (2 : Rat) ^ (a + b) = 2 ^ a * 2 ^ b := Rat.zpow_add (by decide) a b

theorem two_zpow_sub_mul (a b : Int) : (2 : Rat) ^ (a - b) * 2 ^ b = 2 ^ a := by
  rw [← two_zpow_add, Int.sub_add_cancel]

theorem two_zpow_natCast (n : Nat) : (2 : Rat) ^ (n : Int) = (2 ^ n : Nat) := by
  rw [Rat.natCast_pow, ← Rat.zpow_natCast]
  rfl

theorem two_zpow_of_nonneg {k : Int} (h : 0 ≤ k) : (2 : Rat) ^ k = (2 ^ k.toNat : Nat) := by
  rw [← two_zpow_natCast, Int.toNat_of_nonneg h]

/-- Scaling a last place down to a smaller exponent. -/
theorem two_zpow_eq_scaled {e d : Int} (h : e ≤ d) : (2 : Rat) ^ d = ((2 ^ (d - e).toNat : Int) : Rat) * 2 ^ e := by
  have whole : ((2 ^ (d - e).toNat : Int) : Rat) = 2 ^ (d - e) := by
    rw [two_zpow_of_nonneg (Int.sub_nonneg_of_le h), ← Rat.intCast_natCast, Int.natCast_pow]
    rfl
  rw [whole, two_zpow_sub_mul]

theorem FVal.finite_iff (x : FVal) : x.finite ↔ ∃ n m e, x = .fin n m e := by
  refine ⟨fun h => ?_, fun ⟨n, m, e, h⟩ => h ▸ trivial⟩
  cases x with
  | fin n m e => exact ⟨n, m, e, rfl⟩
  | inf _ | nan _ => exact h.elim

theorem intCast_signed (n : Bool) (m : Nat) : ((if n then -(m : Int) else m : Int) : Rat) = signOf n * m := by
  cases n
  · exact (Rat.intCast_natCast m).trans (signOf_false_mul m).symm
  · rw [if_pos rfl, Rat.intCast_neg, Rat.intCast_natCast, signOf_true_mul]

theorem parts_rat {x : FVal} (h : x.finite) : (x.parts.1 : Rat) * 2 ^ x.parts.2 = x.rat := by
  obtain ⟨n, m, e, rfl⟩ := x.finite_iff.1 h
  exact congrArg (· * (2 : Rat) ^ e) (intCast_signed n m)

theorem foldl_min_le (xs : List (Int × Int)) (a : Int) :
    xs.foldl (fun m p => min m p.2) a ≤ a ∧ ∀ p ∈ xs, xs.foldl (fun m p => min m p.2) a ≤ p.2 := by
  induction xs generalizing a with
  | nil => exact ⟨Int.le_refl a, fun p hp => absurd hp List.not_mem_nil⟩
  | cons y ys ih =>
    obtain ⟨first, others⟩ := ih (min a y.2)
    rw [List.foldl_cons, List.forall_mem_cons]
    exact ⟨by omega, by omega, others⟩

theorem foldl_scaled_sum {e : Int} (xs : List (Int × Int)) (a : Int) (h : ∀ p ∈ xs, e ≤ p.2) :
    ((xs.foldl (fun acc p => acc + p.1 * 2 ^ (p.2 - e).toNat) a : Int) : Rat) * 2 ^ e =
      a * 2 ^ e + (xs.map (fun p => (p.1 : Rat) * 2 ^ p.2)).sum := by
  induction xs generalizing a with
  | nil => exact (Rat.add_zero _).symm
  | cons y ys ih =>
    obtain ⟨hy, hys⟩ := List.forall_mem_cons.1 h
    rw [List.foldl_cons, ih _ hys, List.map_cons, List.sum_cons, two_zpow_eq_scaled hy, Rat.intCast_add, Rat.intCast_mul, Rat.add_mul,
      Rat.mul_assoc, Rat.add_assoc]

theorem sumParts_rat (xs : List (Int × Int)) :
    ((sumParts xs).1 : Rat) * 2 ^ (sumParts xs).2 = (xs.map (fun p => (p.1 : Rat) * 2 ^ p.2)).sum := by
  refine (foldl_scaled_sum xs 0 (foldl_min_le xs _).2).trans ?_
  rw [Rat.intCast_zero, Rat.zero_mul, Rat.zero_add]

/-- A sum of numbers is exact and raises no flag (06 R103, R115). -/
theorem fSum_exact (mode : Nat) {xs : List FVal} (h : ∀ x ∈ xs, x.finite) :
    ∃ x : Exact, fSum mode xs = (.num x, 0) ∧ x.sticky = false ∧ x.rat = (xs.map FVal.rat).sum := by
  have none (p : FVal → Bool) (hp : ∀ n m e, p (.fin n m e) = false) : xs.any p = false := by
    refine List.any_eq_false.2 fun x hx => ?_
    obtain ⟨n, m, e, rfl⟩ := x.finite_iff.1 (h x hx)
    rw [hp]
    exact Bool.false_ne_true
  have total : ((sumParts (xs.map FVal.parts)).1 : Rat) * 2 ^ (sumParts (xs.map FVal.parts)).2 = (xs.map FVal.rat).sum := by
    rw [sumParts_rat, List.map_map]
    exact congrArg List.sum (List.map_congr_left fun x hx => parts_rat (h x hx))
  unfold fSum
  rw [none _ (fun _ _ _ => rfl), none _ (fun _ _ _ => rfl), none (fun x => x == .inf false) (fun _ _ _ => rfl),
    none (fun x => x == .inf true) (fun _ _ _ => rfl), ← total]
  rcases sumParts (xs.map FVal.parts) with ⟨m, e⟩
  by_cases hm : m = 0
  · subst hm
    refine ⟨{ neg := zeroSign mode xs, mant := 0, exp := 0 }, rfl, rfl, ?_⟩
    rw [exact_rat_eq, Rat.intCast_zero, Rat.zero_mul]
    exact (congrArg (· * _) (Rat.mul_zero _)).trans (Rat.zero_mul _)
  · refine ⟨{ neg := m < 0, mant := m.natAbs, exp := e }, if_neg fun zero => hm (beq_iff_eq.1 zero), rfl, ?_⟩
    rw [exact_rat_eq, signOf_mul_natAbs]

theorem finishF_num (et mode : Nat) (x : Exact) : finishF et mode 0 (.num x, 0) = (fmtOf et).round mode 0 x :=
  Prod.ext rfl BitVec.or_zero

theorem neg_finite {x : FVal} (h : x.finite) : x.neg.finite := by
  obtain ⟨n, m, e, rfl⟩ := x.finite_iff.1 h
  trivial

theorem neg_rat (x : FVal) : x.neg.rat = -x.rat := by
  cases x with
  | fin n m e => rw [FVal.neg, fin_rat_eq, fin_rat_eq, signOf_not, Rat.neg_mul, Rat.neg_mul]
  | inf _ | nan _ => rfl

theorem fMulV_exact {x y : FVal} (hx : x.finite) (hy : y.finite) :
    ∃ z : FVal, fMulV x y = (z, 0) ∧ z.finite ∧ z.rat = x.rat * y.rat := by
  obtain ⟨n, m, e, rfl⟩ := x.finite_iff.1 hx
  obtain ⟨k, l, d, rfl⟩ := y.finite_iff.1 hy
  refine ⟨.fin (n != k) (m * l) (e + d), rfl, trivial, ?_⟩
  rw [fin_rat_eq, fin_rat_eq, fin_rat_eq, signOf_bne, two_zpow_add, Rat.natCast_mul]
  grind

/-- `r` is one rounding of the number `q`, with the flags of that rounding. -/
def IsRounding (et mode : Nat) (r : Nat × BitVec 5) (q : Rat) : Prop :=
  ∃ x : Exact, x.rat = q ∧ x.sticky = false ∧ r = (fmtOf et).round mode 0 x

theorem finishF_sum_isRounding (et mode : Nat) {x y : FVal} (hx : x.finite) (hy : y.finite) :
    IsRounding et mode (finishF et mode 0 (fSum mode [x, y])) (x.rat + y.rat) := by
  obtain ⟨z, sum, exact, value⟩ := fSum_exact mode (xs := [x, y])
    (List.forall_mem_cons.2 ⟨hx, List.forall_mem_cons.2 ⟨hy, fun _ h => absurd h List.not_mem_nil⟩⟩)
  refine ⟨z, value.trans ?_, exact, sum ▸ finishF_num et mode z⟩
  exact congrArg (x.rat + ·) (Rat.add_zero y.rat)

section
variable {et : Nat} (mode : Nat) {a b c : Nat} (ha : (decEt et a).finite) (hb : (decEt et b).finite)
include ha hb

theorem fAdd_isRounding : IsRounding et mode (fAdd et mode a b) ((decEt et a).rat + (decEt et b).rat) :=
  finishF_sum_isRounding et mode ha hb

theorem fSub_isRounding : IsRounding et mode (fSub et mode a b) ((decEt et a).rat - (decEt et b).rat) := by
  rw [Rat.sub_eq_add_neg, ← neg_rat]
  exact finishF_sum_isRounding et mode ha (neg_finite hb)

theorem fMul_isRounding : IsRounding et mode (fMul et mode a b) ((decEt et a).rat * (decEt et b).rat) := by
  obtain ⟨z, product, zfin, zval⟩ := fMulV_exact ha hb
  obtain ⟨n, m, e, rfl⟩ := z.finite_iff.1 zfin
  exact ⟨⟨n, m, e, false⟩, zval, rfl, by rw [fMul, product]; exact finishF_num et mode _⟩

/-- The product enters the sum unrounded. -/
theorem fFma_isRounding (hc : (decEt et c).finite) :
    IsRounding et mode (fFma et mode a b c) ((decEt et a).rat * (decEt et b).rat + (decEt et c).rat) := by
  obtain ⟨z, product, zfin, zval⟩ := fMulV_exact ha hb
  have noFlag : fFma et mode a b c = finishF et mode 0 (fSum mode [z, decEt et c]) := by
    rw [fFma, product]
    exact congrArg (finishF et mode 0) (Prod.ext rfl BitVec.zero_or)
  rw [noFlag, ← zval]
  exact finishF_sum_isRounding et mode zfin hc

end

end Sys2Proof.Machine
end

section
/-! SUPPORT. The order of values (06 R109; 07 R127): `fLess` and `fEqual` against `below`, then minimum, maximum and comparison. -/

namespace Sys2Proof.Machine

/-- A significand with its sign, counted in units of 2^`c`. -/
def scaledTo (c : Int) (n : Bool) (m : Nat) (e : Int) : Int := (if n then -(m : Int) else m) * 2 ^ (e - c).toNat

theorem scaledTo_rat (n : Bool) (m : Nat) {c e : Int} (h : c ≤ e) :
    (scaledTo c n m e : Rat) * 2 ^ c = (FVal.fin n m e).rat := by
  rw [fin_rat_eq, two_zpow_eq_scaled h, scaledTo, Rat.intCast_mul, intCast_signed, Rat.mul_assoc]

theorem scaledTo_eq_zero {c : Int} (n : Bool) (m : Nat) (e : Int) : scaledTo c n m e = 0 ↔ m = 0 := by
  have unit : (2 : Int) ^ (e - c).toNat ≠ 0 := Int.pow_ne_zero (by decide)
  rw [scaledTo, Int.mul_eq_zero, or_iff_left unit]
  cases n
  · exact Int.natCast_eq_zero
  · exact Int.neg_eq_zero.trans Int.natCast_eq_zero

/-- Among numbers `fLess` is the order of the values, with −0 below +0. -/
theorem fLess_fin (n k : Bool) (m l : Nat) (e d : Int) :
    fLess (.fin n m e) (.fin k l d) = true ↔
      (FVal.fin n m e).below (.fin k l d) ∨ (m = 0 ∧ l = 0 ∧ n = true ∧ k = false) := by
  have less : (FVal.fin n m e).below (.fin k l d) ↔ scaledTo (min e d) n m e < scaledTo (min e d) k l d := by
    rw [FVal.below, ← scaledTo_rat n m (Int.min_le_left e d), ← scaledTo_rat k l (Int.min_le_right e d),
      Rat.mul_lt_mul_right (two_zpow_pos _), Rat.intCast_lt_intCast]
  have unfolded : fLess (.fin n m e) (.fin k l d) =
      (decide (scaledTo (min e d) n m e < scaledTo (min e d) k l d) ||
        (scaledTo (min e d) n m e == scaledTo (min e d) k l d && scaledTo (min e d) n m e == 0 && (n && !k))) := rfl
  have zeros : (scaledTo (min e d) n m e = scaledTo (min e d) k l d ∧ scaledTo (min e d) n m e = 0) ↔ m = 0 ∧ l = 0 := by
    rw [← scaledTo_eq_zero (c := min e d) k l d, ← scaledTo_eq_zero (c := min e d) n m e]
    exact ⟨fun ⟨same, zero⟩ => ⟨zero, same ▸ zero⟩, fun ⟨hm, hl⟩ => ⟨hm.trans hl.symm, hm⟩⟩
  rw [unfolded, less, ← and_assoc, ← zeros, Bool.or_eq_true, decide_eq_true_iff, Bool.and_eq_true, Bool.and_eq_true, Bool.and_eq_true,
    beq_iff_eq, beq_iff_eq, Bool.not_eq_true']

theorem fLess_inf_inf (n k : Bool) : fLess (.inf n) (.inf k) = true ↔ (FVal.inf n).below (.inf k) := by
  cases n <;> cases k <;> simp [fLess, FVal.below]

theorem fLess_inf_fin (n k : Bool) (m : Nat) (e : Int) : fLess (.inf n) (.fin k m e) = true ↔ (FVal.inf n).below (.fin k m e) := by
  cases n <;> simp [fLess, FVal.below]

theorem fLess_fin_inf (n k : Bool) (m : Nat) (e : Int) : fLess (.fin k m e) (.inf n) = true ↔ (FVal.fin k m e).below (.inf n) := by
  cases n <;> simp [fLess, FVal.below]

/-- `x` is −0 and `y` is +0. -/
def ZerosApart (x y : FVal) : Prop := ∃ e d, x = .fin true 0 e ∧ y = .fin false 0 d

theorem fLess_iff {x y : FVal} (hx : x.isNan = false) (hy : y.isNan = false) :
    fLess x y = true ↔ x.below y ∨ ZerosApart x y := by
  cases x with
  | nan s => cases hx
  | inf n =>
    cases y with
    | nan s => cases hy
    | inf k => simp [fLess_inf_inf, ZerosApart]
    | fin k l d => simp [fLess_inf_fin, ZerosApart]
  | fin n m e =>
    cases y with
    | nan s => cases hy
    | inf k => simp [fLess_fin_inf, ZerosApart]
    | fin k l d =>
      simp only [fLess_fin, ZerosApart, FVal.fin.injEq]
      refine or_congr_right ⟨fun ⟨hm, hl, hn, hk⟩ => ⟨e, d, ⟨hn, hm, rfl⟩, hk, hl, rfl⟩, ?_⟩
      rintro ⟨-, -, ⟨hn, hm, -⟩, hk, hl, -⟩
      exact ⟨hm, hl, hn, hk⟩

theorem below_asymm {x y : FVal} (h : x.below y) : ¬ y.below x := by
  cases x with
  | nan s => exact h.elim
  | inf n => cases y <;> simp_all [FVal.below]
  | fin n m e =>
    cases y with
    | nan s => exact h.elim
    | inf k => simp_all [FVal.below]
    | fin k l d => exact Rat.not_lt.2 (Rat.le_of_lt h)

theorem not_below_of_zerosApart {x y : FVal} (h : ZerosApart x y) : ¬ x.below y ∧ ¬ y.below x := by
  obtain ⟨e, d, rfl, rfl⟩ := h
  simp [FVal.below, fin_rat_eq]

theorem below_not_nan {x y : FVal} (h : x.below y) : x.isNan = false ∧ y.isNan = false := by
  cases x <;> cases y <;> simp_all [FVal.below, FVal.isNan]

theorem fLess_of_below {x y : FVal} (h : x.below y) : fLess x y = true ∧ fLess y x = false := by
  obtain ⟨hx, hy⟩ := below_not_nan h
  refine ⟨(fLess_iff hx hy).2 (.inl h), Bool.eq_false_iff.2 fun back => ?_⟩
  exact ((fLess_iff hy hx).1 back).elim (below_asymm h) fun zeros => (not_below_of_zerosApart zeros).2 h

/-- Two zeros are equal, whatever their signs; other values as the order has it. -/
theorem fEqual_iff {x y : FVal} (hx : x.isNan = false) (hy : y.isNan = false) :
    fEqual x y = true ↔ ¬ x.below y ∧ ¬ y.below x := by
  unfold fEqual
  split
  · simp [FVal.below, fin_rat_eq]
  · next notZeros =>
    have xy : ¬ ZerosApart x y := by
      rintro ⟨e, d, rfl, rfl⟩
      exact notZeros _ _ _ _ rfl rfl
    have yx : ¬ ZerosApart y x := by
      rintro ⟨e, d, rfl, rfl⟩
      exact notZeros _ _ _ _ rfl rfl
    rw [Bool.and_eq_true, Bool.not_eq_true', Bool.not_eq_true', ← Bool.not_eq_true, ← Bool.not_eq_true, fLess_iff hx hy,
      fLess_iff hy hx]
    simp [xy, yx]

theorem fLess_and_not_fEqual_iff {x y : FVal} (hx : x.isNan = false) (hy : y.isNan = false) :
    (!fEqual x y && fLess x y) = true ↔ x.below y := by
  rw [Bool.and_eq_true, Bool.not_eq_true', ← Bool.not_eq_true, fEqual_iff hx hy, fLess_iff hx hy]
  exact ⟨fun ⟨differ, less⟩ => less.resolve_right fun zeros => differ (not_below_of_zerosApart zeros),
    fun h => ⟨fun same => same.1 h, .inl h⟩⟩

theorem zerosApart_of_signBit {et : Nat} (h : et ∈ [8, 9, 10]) : ZerosApart (decEt et (fmtOf et).signBit) (decEt et 0) := by
  simp only [List.mem_cons, List.not_mem_nil, or_false] at h
  rcases h with rfl | rfl | rfl <;> exact ⟨_, _, rfl, rfl⟩

theorem not_nan_of_zerosApart {x y : FVal} (h : ZerosApart x y) : x.isNan = false ∧ y.isNan = false := by
  obtain ⟨e, d, rfl, rfl⟩ := h
  exact ⟨rfl, rfl⟩

theorem not_below_self (x : FVal) : ¬ x.below x := fun h => below_asymm h h

theorem fLess_self {x : FVal} (hx : x.isNan = false) : fLess x x = false := by
  refine Bool.eq_false_iff.2 fun h => ((fLess_iff hx hx).1 h).elim (not_below_self x) fun ⟨e, d, neg, pos⟩ => ?_
  rw [neg] at pos
  cases pos

theorem fLess_of_zerosApart {x y : FVal} (h : ZerosApart x y) : fLess x y = true ∧ fLess y x = false := by
  obtain ⟨e, d, rfl, rfl⟩ := h
  refine ⟨(fLess_iff rfl rfl).2 (.inr ⟨e, d, rfl, rfl⟩), Bool.eq_false_iff.2 fun back => ?_⟩
  exact ((fLess_iff rfl rfl).1 back).elim (fun h => by simp [FVal.below, fin_rat_eq] at h) fun ⟨_, _, neg, _⟩ => by cases neg

/-- The pattern and the flags of `FMIN` and `FMAX`. -/
theorem fMinMax_eq {et a b : Nat} (ha : a < 2 ^ (8 * etBytes et)) (hb : b < 2 ^ (8 * etBytes et)) (isMax : Bool) :
    fMinMax et isMax a b =
      (if (decEt et a).isNan && (decEt et b).isNan then (fmtOf et).nanBits else if (decEt et a).isNan then b
        else if (decEt et b).isNan then a
        else if (if isMax then fLess (decEt et a) (decEt et b) else fLess (decEt et b) (decEt et a)) then b else a,
        if (decEt et a).isSig || (decEt et b).isSig then fIV else 0) := by
  simp only [fMinMax, Nat.mod_eq_of_lt ha, Nat.mod_eq_of_lt hb]
  cases (decEt et a).isNan <;> cases (decEt et b).isNan <;> cases isMax <;> rfl

section
variable {et a b : Nat} (ha : a < 2 ^ (8 * etBytes et)) (hb : b < 2 ^ (8 * etBytes et)) (isMax : Bool)
include ha hb

theorem fMinMax_of_left_nan (hx : (decEt et a).isNan = true) (hy : (decEt et b).isNan = false) : (fMinMax et isMax a b).1 = b := by
  simp [fMinMax_eq ha hb, hx, hy]

theorem fMinMax_of_right_nan (hx : (decEt et a).isNan = false) (hy : (decEt et b).isNan = true) : (fMinMax et isMax a b).1 = a := by
  simp [fMinMax_eq ha hb, hx, hy]

theorem fMinMax_of_nans (hx : (decEt et a).isNan = true) (hy : (decEt et b).isNan = true) :
    (fMinMax et isMax a b).1 = (fmtOf et).nanBits := by
  simp [fMinMax_eq ha hb, hx, hy]

theorem fMinMax_of_fLess (hx : (decEt et a).isNan = false) (hy : (decEt et b).isNan = false)
    (h : fLess (decEt et a) (decEt et b) = true ∧ fLess (decEt et b) (decEt et a) = false) :
    (fMinMax et isMax a b).1 = (if isMax then b else a) ∧ (fMinMax et isMax b a).1 = (if isMax then b else a) := by
  rw [fMinMax_eq ha hb, fMinMax_eq hb ha]
  cases isMax <;> simp [h, hx, hy]

theorem fMinMax_of_below (h : (decEt et a).below (decEt et b)) :
    (fMinMax et isMax a b).1 = (if isMax then b else a) ∧ (fMinMax et isMax b a).1 = (if isMax then b else a) :=
  fMinMax_of_fLess ha hb isMax (below_not_nan h).1 (below_not_nan h).2 (fLess_of_below h)

end

theorem fMinMax_same {et a : Nat} (ha : a < 2 ^ (8 * etBytes et)) (isMax : Bool) (hx : (decEt et a).isNan = false) :
    (fMinMax et isMax a a).1 = a := by
  rw [fMinMax_eq ha ha, fLess_self hx]
  simp [hx]

/-- −0 is the lesser zero in either order of the operands. -/
theorem fMinMax_zeros {et : Nat} (het : et ∈ [8, 9, 10]) (hs : (fmtOf et).signBit < 2 ^ (8 * etBytes et)) (isMax : Bool) :
    (fMinMax et isMax (fmtOf et).signBit 0).1 = (if isMax then 0 else (fmtOf et).signBit) ∧
      (fMinMax et isMax 0 (fmtOf et).signBit).1 = (if isMax then 0 else (fmtOf et).signBit) := by
  have zeros := zerosApart_of_signBit het
  obtain ⟨hx, hy⟩ := not_nan_of_zerosApart zeros
  exact fMinMax_of_fLess hs (Nat.two_pow_pos _) isMax hx hy (fLess_of_zerosApart zeros)

theorem fCompare_of_nan {et a b : Nat} (h : ((decEt et a).isNan || (decEt et b).isNan) = true) (cc : Nat) :
    (fCompare et cc a b).1 = decide (cc = 1 ∨ cc = 6) := by
  simp only [fCompare, h]
  match cc with
  | 0 | 1 | 2 | 3 | 4 | 5 | 6 => rfl
  | n + 7 => simp

theorem fCompare_of_numbers {et a b : Nat} (hx : (decEt et a).isNan = false) (hy : (decEt et b).isNan = false) :
    let x := decEt et a
    let y := decEt et b
    ((fCompare et 0 a b).1 = true ↔ ¬ x.below y ∧ ¬ y.below x) ∧ ((fCompare et 1 a b).1 = true ↔ x.below y ∨ y.below x) ∧
      ((fCompare et 2 a b).1 = true ↔ x.below y) ∧ ((fCompare et 3 a b).1 = true ↔ ¬ y.below x) ∧
      ((fCompare et 4 a b).1 = true ↔ y.below x) ∧ ((fCompare et 5 a b).1 = true ↔ ¬ x.below y) ∧
      (fCompare et 6 a b).1 = false ∧ (fCompare et 7 a b).1 = true := by
  have eq := fEqual_iff hx hy
  have lt := fLess_and_not_fEqual_iff hx hy
  have asymm : (decEt et a).below (decEt et b) → ¬ (decEt et b).below (decEt et a) := below_asymm
  simp only [fCompare, hx, hy, Bool.or_false, Bool.not_false, Bool.true_and]
  refine ⟨eq, ?_, lt, ?_, ?_, ?_, trivial, trivial⟩
  · rw [Bool.not_eq_true', ← Bool.not_eq_true, eq]
    grind
  · rw [Bool.or_eq_true, lt, eq]
    grind
  · rw [Bool.and_eq_true, Bool.not_eq_true', Bool.not_eq_true', ← Bool.not_eq_true, ← Bool.not_eq_true, lt, eq]
    grind
  · rw [Bool.not_eq_true', ← Bool.not_eq_true, lt]

end Sys2Proof.Machine
end

section
/-! SUPPORT. Rounding a magnitude to a whole number (06 R103): the shift, the choice of each mode, and what it asks of the result. -/

namespace Sys2Proof.Machine

/-- What `shiftRest` says of a magnitude `S`: its whole part `n` and how the rest compares with a half. -/
inductive Cut (S : Rat) (n : Nat) : Nat → Prop where
  | whole (h : S = n) : Cut S n 0
  | below (low : (n : Rat) < S) (high : 2 * S < 2 * n + 1) : Cut S n 1
  | half (h : 2 * S = 2 * n + 1) : Cut S n 2
  | above (low : 2 * (n : Rat) + 1 < 2 * S) (high : S < n + 1) : Cut S n 3

theorem Cut.bounds {S : Rat} {n rest : Nat} (h : Cut S n rest) : (n : Rat) ≤ S ∧ S < n + 1 := by
  cases h <;> grind

theorem cut_of_division {S : Rat} {m half : Nat} (pos : 0 < half) (hS : S * (2 * half : Nat) = m) :
    Cut S (m / (2 * half)) (if m % (2 * half) == 0 then 0 else if m % (2 * half) < half then 1
      else if m % (2 * half) == half then 2 else 3) := by
  have unit : (0 : Rat) < half := Rat.natCast_pos.2 pos
  have division : S * (2 * half) = 2 * half * (m / (2 * half) : Nat) + (m % (2 * half) : Nat) := by
    have parts := congrArg (fun k : Nat => (k : Rat)) (Nat.div_add_mod m (2 * half))
    simp only [Rat.natCast_add, Rat.natCast_mul] at parts hS
    exact hS.trans parts.symm
  have rest : m % (2 * half) < 2 * half := Nat.mod_lt _ (by omega)
  generalize m / (2 * half) = n at division ⊢
  generalize m % (2 * half) = r at division rest ⊢
  split
  next zero =>
    rw [beq_iff_eq.1 zero] at division
    refine .whole (Rat.le_antisymm ?_ ?_) <;> refine Rat.le_of_mul_le_mul_right (c := 2 * half) ?_ (by grind) <;> grind
  next nonzero =>
  have someRest : (0 : Rat) < r := Rat.natCast_pos.2 (Nat.pos_of_ne_zero (by simpa using nonzero))
  split
  next less =>
    have less : (r : Rat) < half := Rat.natCast_lt_natCast.2 less
    refine .below ?_ ?_ <;> refine Rat.lt_of_mul_lt_mul_right (c := 2 * half) ?_ (by grind) <;> grind
  next notLess =>
  split
  next same =>
    rw [beq_iff_eq.1 same] at division
    refine .half (Rat.le_antisymm ?_ ?_) <;> refine Rat.le_of_mul_le_mul_right (c := 2 * half) ?_ (by grind) <;> grind
  next differ =>
    have more : (half : Rat) < r := Rat.natCast_lt_natCast.2 (by simp at differ; omega)
    have whole : (r : Rat) < (2 * half : Nat) := Rat.natCast_lt_natCast.2 rest
    rw [Rat.natCast_mul] at whole
    refine .above ?_ ?_ <;> refine Rat.lt_of_mul_lt_mul_right (c := 2 * half) ?_ (by grind) <;> grind

/-- The shift cuts the exact quotient. -/
theorem shiftRest_cut (m : Nat) (s : Int) : Cut (m * 2 ^ s) (shiftRest m s false).1 (shiftRest m s false).2 := by
  unfold shiftRest
  by_cases h : s ≥ 0
  · rw [if_pos h, two_zpow_of_nonneg h, ← Rat.natCast_mul]
    exact .whole rfl
  · rw [if_neg h]
    have width : 2 ^ (-s).toNat = 2 * 2 ^ ((-s).toNat - 1) := by
      rw [← Nat.pow_succ', Nat.succ_eq_add_one, Nat.sub_add_cancel (by omega)]
    have quotient : (m : Rat) * 2 ^ s * (2 * 2 ^ ((-s).toNat - 1) : Nat) = m := by
      rw [← width, ← two_zpow_of_nonneg (by omega), Rat.mul_assoc, ← two_zpow_add, Int.add_right_neg, Rat.zpow_zero, Rat.mul_one]
    have cut := cut_of_division (Nat.two_pow_pos _) quotient
    rw [← width] at cut
    exact cut

/-- The whole number to which a mode rounds what the shift cuts (06 R103). -/
def roundedTo (mode : Nat) (neg : Bool) (n rest : Nat) : Nat :=
  if roundUp mode neg (n % 2 == 1) rest then n + 1 else n

theorem roundUp_whole (mode : Nat) (neg odd : Bool) : roundUp mode neg odd 0 = false := by
  match mode with
  | 0 | 1 | 2 | 3 => rfl
  | _ + 4 => rfl

theorem roundedTo_floor_or_next (mode : Nat) (neg : Bool) (n rest : Nat) :
    roundedTo mode neg n rest = n ∨ roundedTo mode neg n rest = n + 1 := by
  unfold roundedTo
  split
  · exact .inr rfl
  · exact .inl rfl

/-- `.rz`, `.ru` of a negative and `.rd` of a positive number cut off. -/
theorem roundedTo_inward {mode : Nat} {neg : Bool} (h : mode = 1 ∨ mode = if neg then 2 else 3) (n rest : Nat) : roundedTo mode neg n rest = n := by
  rcases h with rfl | rfl
  · rfl
  · cases neg <;> simp [roundedTo, roundUp]

/-- The rounded magnitude is the exact one only where that is whole. -/
theorem Cut.roundedTo_eq_iff {S : Rat} {n rest : Nat} (h : Cut S n rest) (mode : Nat) (neg : Bool) :
    (roundedTo mode neg n rest : Rat) = S ↔ rest = 0 := by
  have near := roundedTo_floor_or_next mode neg n rest
  cases h with
  | whole h => exact iff_of_true (by rw [roundedTo, roundUp_whole, h]; rfl) rfl
  | below | half | above =>
    refine iff_of_false (fun same => ?_) (by decide)
    rcases near with near | near <;> rw [near] at same <;> grind

/-- `v` is the number to which the mode rounds `x`, compared with one number `q` of the format: what `FloatRounding` asks; `even`
says that the pattern of `v` is even. -/
def RoundsTo (mode : Nat) (even : Prop) (x v q : Rat) : Prop :=
  (mode = 0 → (v - x).abs ≤ (q - x).abs ∧ ((v - x).abs = (q - x).abs → q ≠ v → even)) ∧
  (mode = 1 → v.abs ≤ x.abs ∧ 0 ≤ v * x ∧ (q.abs ≤ x.abs → q.abs ≤ v.abs)) ∧
  (mode = 2 → x ≤ v ∧ (x ≤ q → v ≤ q)) ∧
  (mode = 3 → v ≤ x ∧ (q ≤ x → q ≤ v))

theorem mul_self_nonneg_rat (x : Rat) : 0 ≤ x * x := by
  rcases Rat.le_total (a := 0) (b := x) with h | h
  · exact Rat.mul_nonneg h h
  · have opposite := Rat.mul_nonneg (a := -x) (b := -x) (by grind) (by grind)
    rwa [Rat.neg_mul, Rat.mul_neg, Rat.neg_neg] at opposite

theorem RoundsTo.refl (mode : Nat) (even : Prop) (x q : Rat) : RoundsTo mode even x x q := by
  refine ⟨fun _ => ⟨?_, fun same differ => ?_⟩, fun _ => ⟨Rat.le_refl, mul_self_nonneg_rat x, id⟩, fun _ => ⟨Rat.le_refl, id⟩,
    fun _ => ⟨Rat.le_refl, id⟩⟩
  · rw [Rat.sub_self, Rat.abs_zero]
    exact Rat.abs_nonneg
  · rw [Rat.sub_self, Rat.abs_zero] at same
    exact absurd (by grind [Rat.abs_eq_zero_iff]) differ

section
variable {u : Rat} (hu : 0 < u)
include hu

theorem mul_le_mul_pos_iff {a b : Rat} : a * u ≤ b * u ↔ a ≤ b :=
  ⟨fun h => Rat.le_of_mul_le_mul_right h hu, fun h => Rat.mul_le_mul_of_nonneg_right h (Rat.le_of_lt hu)⟩

theorem mul_eq_mul_pos_iff {a b : Rat} : a * u = b * u ↔ a = b := by
  rw [Rat.le_antisymm_iff, mul_le_mul_pos_iff hu, mul_le_mul_pos_iff hu, ← Rat.le_antisymm_iff]

theorem abs_mul_pos (a : Rat) : (a * u).abs = a.abs * u := by
  rcases Rat.le_total (a := 0) (b := a) with h | h
  · rw [Rat.abs_of_nonneg h, Rat.abs_of_nonneg (Rat.mul_nonneg h (Rat.le_of_lt hu))]
  · have opposite := Rat.mul_nonneg (a := -a) (by grind) (Rat.le_of_lt hu)
    rw [Rat.abs_of_nonpos h, Rat.abs_of_nonpos (by grind), Rat.neg_mul]

theorem abs_sub_mul_pos (a b : Rat) : (a * u - b * u).abs = (a - b).abs * u := by
  rw [← abs_mul_pos hu, Rat.sub_eq_add_neg, Rat.sub_eq_add_neg, Rat.add_mul, Rat.neg_mul]

theorem RoundsTo.scale {mode : Nat} {even : Prop} {x v q : Rat} (h : RoundsTo mode even x v q) :
    RoundsTo mode even (x * u) (v * u) (q * u) := by
  have product : 0 ≤ v * u * (x * u) ↔ 0 ≤ v * x := by
    have regroup : v * u * (x * u) = v * x * u * u := by grind
    have zero : (0 : Rat) = 0 * u * u := by grind
    rw [regroup, zero, mul_le_mul_pos_iff hu, mul_le_mul_pos_iff hu, ← zero]
  unfold RoundsTo at h ⊢
  simp only [abs_sub_mul_pos hu, abs_mul_pos hu, mul_le_mul_pos_iff hu, mul_eq_mul_pos_iff hu, ne_eq, product]
  exact h

end

section
variable {S t : Rat} {n rest : Nat} (cut : Cut S n rest) (neg : Bool)
include cut

/-- `.rne` takes the nearer neighbour, and of two as near the even one. -/
theorem Cut.roundedTo_rne (gap : t ≤ n ∨ n + 1 ≤ t) :
    ((roundedTo 0 neg n rest : Rat) - S).abs ≤ (t - S).abs ∧
      (((roundedTo 0 neg n rest : Rat) - S).abs = (t - S).abs → t ≠ roundedTo 0 neg n rest → roundedTo 0 neg n rest % 2 = 0) := by
  cases cut with
  | whole h =>
    have value : roundedTo 0 neg n 0 = n := rfl
    grind [Rat.abs]
  | below low high =>
    have value : roundedTo 0 neg n 1 = n := rfl
    grind [Rat.abs]
  | above low high =>
    have value : (roundedTo 0 neg n 3 : Rat) = n + 1 := Rat.natCast_add n 1
    grind [Rat.abs]
  | half h =>
    have value : roundedTo 0 neg n 2 = if n % 2 = 1 then n + 1 else n := by
      simp [roundedTo, roundUp]
    have even : roundedTo 0 neg n 2 % 2 = 0 := by
      rw [value]
      split <;> omega
    have next : ((n + 1 : Nat) : Rat) = n + 1 := Rat.natCast_add n 1
    refine ⟨?_, fun _ _ => even⟩
    rcases roundedTo_floor_or_next 0 neg n 2 with near | near <;> rw [near] <;> grind [Rat.abs]

/-- `.ru` of a positive and `.rd` of a negative number go outward: the result is the least magnitude that is not below. -/
theorem Cut.roundedTo_outward (gap : t ≤ n ∨ n + 1 ≤ t) :
    S ≤ roundedTo (if neg then 3 else 2) neg n rest ∧ (S ≤ t → (roundedTo (if neg then 3 else 2) neg n rest : Rat) ≤ t) := by
  have value : roundedTo (if neg then 3 else 2) neg n rest = if rest = 0 then n else n + 1 := by
    cases neg <;> simp [roundedTo, roundUp]
  rw [value]
  cases cut <;> grind

/-- A magnitude rounded by a mode, with its sign: what the mode asks of it against a number whose magnitude does not lie between the
two neighbours. -/
theorem Cut.roundsTo (mode : Nat) (gap : t.abs ≤ n ∨ n + 1 ≤ t.abs) :
    RoundsTo mode (roundedTo mode neg n rest % 2 = 0) (signOf neg * S) (signOf neg * roundedTo mode neg n rest) (signOf neg * t) := by
  obtain ⟨low, high⟩ := cut.bounds
  have nonneg : (0 : Rat) ≤ n := Rat.natCast_nonneg
  have apart : t ≤ n ∨ n + 1 ≤ t := by grind [Rat.abs]
  have inward : t ≤ S → t ≤ n := fun h => by grind
  refine ⟨?_, ?_, ?_, ?_⟩ <;> rintro rfl
  · obtain ⟨nearest, tie⟩ := cut.roundedTo_rne neg apart
    have distance (a : Rat) : (signOf neg * a - signOf neg * S).abs = (a - S).abs := by
      rw [← abs_signOf_mul neg (a - S)]
      grind
    rw [distance, distance]
    exact ⟨nearest, fun same differ => tie same fun h => differ (congrArg _ h)⟩
  · have product : signOf neg * n * (signOf neg * S) = n * S := by grind [signOf_mul_self]
    rw [abs_signOf_mul, abs_signOf_mul, abs_signOf_mul, roundedTo_inward (.inl rfl), product, Rat.abs_of_nonneg nonneg,
      Rat.abs_of_nonneg (Rat.le_trans nonneg low)]
    exact ⟨low, Rat.mul_nonneg nonneg (Rat.le_trans nonneg low), fun h => by grind⟩
  · cases neg
    · simp only [signOf_false_mul]
      exact cut.roundedTo_outward false apart
    · simp only [signOf_true_mul, roundedTo_inward (mode := 2) (neg := true) (.inr rfl), Rat.neg_le_neg_iff]
      exact ⟨low, inward⟩
  · cases neg
    · simp only [signOf_false_mul, roundedTo_inward (mode := 3) (neg := false) (.inr rfl)]
      exact ⟨low, inward⟩
    · simp only [signOf_true_mul, Rat.neg_le_neg_iff]
      exact cut.roundedTo_outward true apart

end

end Sys2Proof.Machine
end

section
/-! SUPPORT. The patterns of a format (06 R96, R97): fields, the numbers that they stand for, and the encoding of a significand. -/

namespace Sys2Proof.Machine

/-- The fields of a binary format fit its largest finite value (06 R96, R97). -/
structure Fmt.Regular (f : Fmt) : Prop where
  two_le_p : 2 ≤ f.p
  two_le_ebits : 2 ≤ f.ebits
  last_of_inf : f.inf = true → f.maxExp = f.qmin + 2 ^ f.ebits - 3
  last_of_no_inf : f.inf = false → f.p = 4 ∧ f.maxMant = 14 ∧ f.maxExp = f.qmin + 2 ^ f.ebits - 2

theorem Fmt.two_pow_p {f : Fmt} (hf : f.Regular) : 2 ^ f.p = 2 * 2 ^ (f.p - 1) := by
  rw [← Nat.pow_succ', Nat.succ_eq_add_one, Nat.sub_add_cancel (by have := hf.two_le_p; omega)]

theorem fmtOf_regular {et : Nat} (h : et ∈ [8, 9, 10, 11, 12]) : (fmtOf et).Regular := by
  simp only [List.mem_cons, List.not_mem_nil, or_false] at h
  rcases h with rfl | rfl | rfl | rfl | rfl <;> constructor <;> decide

/-- The value of a sign, an exponent field and a fraction field. -/
def Fmt.ofFields (f : Fmt) (neg : Bool) (e fr : Nat) : FVal :=
  if e == 2 ^ f.ebits - 1 && f.inf then (if fr == 0 then .inf neg else .nan (fr / 2 ^ (f.p - 2) % 2 == 0))
  else if e == 2 ^ f.ebits - 1 && fr == 7 then .nan false
  else if e == 0 then .fin neg fr f.qmin
  else .fin neg (fr + 2 ^ (f.p - 1)) (f.qmin + (e : Int) - 1)

theorem Fmt.dec_eq (f : Fmt) (bits : Nat) :
    f.dec bits = f.ofFields (bits / f.signBit % 2 == 1) (bits / 2 ^ (f.p - 1) % 2 ^ f.ebits) (bits % 2 ^ (f.p - 1)) := rfl

/-- The significand of a number of the format is below 2^p and its exponent not below that of the subnormals. -/
theorem Fmt.dec_finite_bounds {f : Fmt} (hf : f.Regular) {bits : Nat} (h : (f.dec bits).finite) :
    ∃ n m e, f.dec bits = .fin n m e ∧ m < 2 ^ f.p ∧ f.qmin ≤ e := by
  have fraction : bits % 2 ^ (f.p - 1) < 2 ^ (f.p - 1) := Nat.mod_lt _ (Nat.two_pow_pos _)
  have twice : 2 ^ f.p = 2 * 2 ^ (f.p - 1) := Fmt.two_pow_p hf
  rw [Fmt.dec_eq, Fmt.ofFields] at h ⊢
  split at h
  · split at h <;> exact h.elim
  next noInf =>
  split at h
  · exact h.elim
  next noNan =>
  rw [if_neg noInf, if_neg noNan]
  split
  · exact ⟨_, _, _, rfl, by omega, Int.le_refl _⟩
  · next normal =>
    rw [beq_iff_eq] at normal
    exact ⟨_, _, _, rfl, by omega, by omega⟩

/-- The sign bit of a pattern. -/
def Fmt.signed (f : Fmt) (neg : Bool) : Nat := if neg then f.signBit else 0

/-- Decoding takes a pattern apart into the fields of which it is made. -/
theorem Fmt.dec_fields {f : Fmt} (hf : f.Regular) (neg : Bool) {e fr : Nat} (he : e < 2 ^ f.ebits) (hfr : fr < 2 ^ (f.p - 1)) :
    f.dec (f.signed neg + (e * 2 ^ (f.p - 1) + fr)) = f.ofFields neg e fr := by
  have width : f.signBit = 2 ^ (f.p - 1) * 2 ^ f.ebits := by
    rw [Fmt.signBit, ← Nat.pow_add, Nat.add_comm (f.p - 1), Nat.add_sub_assoc (Nat.le_of_lt hf.two_le_p)]
  have sign : f.signed neg = 2 ^ (f.p - 1) * (2 ^ f.ebits * neg.toNat) := by
    cases neg
    · rfl
    · exact width.trans (congrArg _ (Nat.mul_one _).symm)
  have unit : 0 < 2 ^ (f.p - 1) := Nat.two_pow_pos _
  have whole : f.signed neg + (e * 2 ^ (f.p - 1) + fr) = fr + 2 ^ (f.p - 1) * (e + 2 ^ f.ebits * neg.toNat) := by
    rw [sign, Nat.mul_add, Nat.mul_comm e]
    omega
  have upper : (fr + 2 ^ (f.p - 1) * (e + 2 ^ f.ebits * neg.toNat)) / 2 ^ (f.p - 1) = e + 2 ^ f.ebits * neg.toNat := by
    rw [Nat.add_mul_div_left _ _ unit, Nat.div_eq_of_lt hfr, Nat.zero_add]
  rw [Fmt.dec_eq, whole, Nat.add_mul_mod_self_left, Nat.mod_eq_of_lt hfr, width, ← Nat.div_div_eq_div_mul,
    upper, Nat.add_mul_mod_self_left, Nat.mod_eq_of_lt he, Nat.add_mul_div_left _ _ (Nat.two_pow_pos _), Nat.div_eq_of_lt he]
  cases neg <;> rfl

theorem Fmt.dec_subnormal {f : Fmt} (hf : f.Regular) (neg : Bool) {n : Nat} (h : n < 2 ^ (f.p - 1)) :
    f.dec (f.signed neg + n) = .fin neg n f.qmin := by
  have fields : 4 ≤ 2 ^ f.ebits := Nat.pow_le_pow_right (n := 2) (by decide) hf.two_le_ebits
  have zero := Fmt.dec_fields hf neg (e := 0) (by omega) h
  have notTop : ((0 : Nat) == 2 ^ f.ebits - 1) = false := by rw [beq_eq_false_iff_ne]; omega
  rw [Nat.zero_mul, Nat.zero_add] at zero
  rw [zero, Fmt.ofFields, notTop]
  rfl

/-- A field that is neither that of the subnormals nor that of infinities and NaNs stands for a normal number. -/
theorem Fmt.ofFields_normal {f : Fmt} (neg : Bool) {e fr : Nat} (notSubnormal : e ≠ 0)
    (belowTop : f.inf = true → e + 1 < 2 ^ f.ebits)
    (notNan : f.inf = false → e + 1 < 2 ^ f.ebits ∨ e + 1 = 2 ^ f.ebits ∧ fr ≠ 7) :
    f.ofFields neg e fr = .fin neg (fr + 2 ^ (f.p - 1)) (f.qmin + (e : Int) - 1) := by
  have noInf : (e == 2 ^ f.ebits - 1 && f.inf) = false := by
    rw [Bool.and_eq_false_imp, beq_iff_eq]
    intro top
    refine Bool.eq_false_iff.2 fun inf => ?_
    have := belowTop inf
    omega
  have noNan : (e == 2 ^ f.ebits - 1 && fr == 7) = false := by
    rw [Bool.and_eq_false_iff, beq_eq_false_iff_ne, beq_eq_false_iff_ne]
    cases hinf : f.inf
    · have := notNan hinf
      omega
    · have := belowTop hinf
      omega
  rw [Fmt.ofFields, noInf, noNan, beq_eq_false_iff_ne.2 notSubnormal]
  rfl

/-- The pattern below the sign bit of a significand and the exponent of its last bit. -/
def Fmt.encode (f : Fmt) (n : Nat) (q : Int) : Nat :=
  if n < 2 ^ (f.p - 1) then n else (q - f.qmin + 1).toNat * 2 ^ (f.p - 1) + (n - 2 ^ (f.p - 1))

/-- Whether a significand lies beyond the largest finite value. -/
def Fmt.exceeds (f : Fmt) (n : Nat) (q : Int) : Bool := q > f.maxExp || (q == f.maxExp && n > f.maxMant)

/-- A significand and its exponent as the format writes them: subnormal at the least exponent alone. -/
structure Fmt.Canonical (f : Fmt) (n : Nat) (q : Int) : Prop where
  lt : n < 2 ^ f.p
  least : f.qmin ≤ q
  full : 2 ^ (f.p - 1) ≤ n ∨ q = f.qmin

/-- A significand that does not overflow is encoded so that it decodes. -/
theorem Fmt.dec_encode {f : Fmt} (hf : f.Regular) (neg : Bool) {n : Nat} {q : Int} (h : f.Canonical n q) (fits : f.exceeds n q = false) :
    f.dec (f.signed neg + f.encode n q) = .fin neg n q := by
  have twice : 2 ^ f.p = 2 * 2 ^ (f.p - 1) := Fmt.two_pow_p hf
  have fields : 4 ≤ 2 ^ f.ebits := Nat.pow_le_pow_right (n := 2) (by decide) hf.two_le_ebits
  have castFields : ((2 ^ f.ebits : Nat) : Int) = 2 ^ f.ebits := Int.natCast_pow 2 f.ebits
  have lt := h.lt
  have least := h.least
  rw [Fmt.encode]
  split
  · next subnormal =>
    have atLeast : q = f.qmin := h.full.resolve_left (by omega)
    exact atLeast ▸ Fmt.dec_subnormal hf neg subnormal
  · next normal =>
    simp only [Fmt.exceeds, gt_iff_lt, Bool.or_eq_false_iff, decide_eq_false_iff_not, Bool.and_eq_false_iff, beq_eq_false_iff_ne,
      Int.not_lt, Nat.not_lt] at fits
    obtain ⟨expFits, mantFits⟩ := fits
    have field : f.qmin + ((q - f.qmin + 1).toNat : Int) - 1 = q := by omega
    have belowTop (hinf : f.inf = true) : (q - f.qmin + 1).toNat + 1 < 2 ^ f.ebits := by
      have hexp := hf.last_of_inf hinf
      omega
    have notNan (hinf : f.inf = false) : (q - f.qmin + 1).toNat + 1 < 2 ^ f.ebits ∨
        (q - f.qmin + 1).toNat + 1 = 2 ^ f.ebits ∧ n - 2 ^ (f.p - 1) ≠ 7 := by
      obtain ⟨hp, hmant, hexp⟩ := hf.last_of_no_inf hinf
      rw [hp] at lt normal ⊢
      omega
    have inRange : (q - f.qmin + 1).toNat < 2 ^ f.ebits := by
      cases hinf : f.inf
      · exact (notNan hinf).elim (by omega) (by omega)
      · exact Nat.lt_of_succ_lt (belowTop hinf)
    rw [Fmt.dec_fields hf neg inRange (by omega), Fmt.ofFields_normal neg (by omega) belowTop notNan, field,
      Nat.sub_add_cancel (by omega)]

/-- The lowest bit of the pattern is that of the significand. -/
theorem Fmt.encode_even {f : Fmt} (hf : f.Regular) (neg : Bool) (n : Nat) (q : Int) :
    (f.signed neg + f.encode n q) % 2 = n % 2 := by
  have half : 2 ∣ 2 ^ (f.p - 1) := Nat.pow_dvd_pow 2 (m := 1) (by have := hf.two_le_p; omega)
  have sign : 2 ∣ f.signed neg := by
    cases neg
    · exact Nat.dvd_zero 2
    · exact Nat.pow_dvd_pow 2 (m := 1) (by have := hf.two_le_p; omega)
  have shifted : 2 ∣ (q - f.qmin + 1).toNat * 2 ^ (f.p - 1) := Nat.dvd_trans half (Nat.dvd_mul_left _ _)
  rw [Fmt.encode]
  split <;> omega

end Sys2Proof.Machine
end

section
/-! SUPPORT. Rounding to a format (06 R103-R105): an exact number in units of the last place that the format keeps. -/

namespace Sys2Proof.Machine

/-- The exponent of the leading bit of an exact number. -/
def Exact.topExp (x : Exact) : Int := x.exp + (Nat.log2 x.mant : Nat)

/-- The exponent of the last place that the format keeps of an exact number. -/
def Fmt.unitExp (f : Fmt) (x : Exact) : Int := max (x.topExp - ((f.p : Int) - 1)) f.qmin

/-- The magnitude of an exact number in units of that last place. -/
def Fmt.inUnits (f : Fmt) (x : Exact) : Rat := x.mant * 2 ^ (x.exp - f.unitExp x)

/-- The whole units of an exact number, and what remains. -/
def Fmt.cutAt (f : Fmt) (x : Exact) : Nat × Nat := shiftRest x.mant (x.exp - f.unitExp x) false

/-- A significand that rounding has carried to 2^p is half of that at the next exponent. -/
def Fmt.carry (f : Fmt) (n : Nat) (q : Int) : Nat × Int := if n == 2 ^ f.p then (2 ^ (f.p - 1), q + 1) else (n, q)

/-- The number of units to which a mode rounds an exact number. -/
def Fmt.roundedUnits (f : Fmt) (mode : Nat) (x : Exact) : Nat := roundedTo mode x.neg (f.cutAt x).1 (f.cutAt x).2

/-- The significand and the exponent of the last place to which a mode rounds a number. -/
def Fmt.rounded (f : Fmt) (mode : Nat) (x : Exact) : Nat × Int := f.carry (f.roundedUnits mode x) (f.unitExp x)

section
variable {f : Fmt} (hf : f.Regular) {n : Nat} {q : Int}
include hf

theorem Fmt.carry_canonical (hn : n ≤ 2 ^ f.p) (hq : f.qmin ≤ q) (full : 2 ^ (f.p - 1) ≤ n ∨ q = f.qmin) :
    f.Canonical (f.carry n q).1 (f.carry n q).2 := by
  have twice := Fmt.two_pow_p hf
  have pos : 0 < 2 ^ (f.p - 1) := Nat.two_pow_pos _
  rw [Fmt.carry]
  split
  · exact ⟨by omega, by omega, .inl (Nat.le_refl _)⟩
  · next notCarried =>
    rw [beq_iff_eq] at notCarried
    exact ⟨by omega, hq, full⟩

theorem Fmt.carry_value (n : Nat) (q : Int) : ((f.carry n q).1 : Rat) * 2 ^ (f.carry n q).2 = n * 2 ^ q := by
  rw [Fmt.carry]
  split
  · next carried =>
    rw [beq_iff_eq.1 carried, Fmt.two_pow_p hf, Rat.zpow_add_one (by decide), Rat.natCast_mul, Rat.mul_comm (_ ^ _) 2, ← Rat.mul_assoc,
      Rat.mul_comm _ 2]
    rfl
  · rfl

theorem Fmt.carry_even (n : Nat) (q : Int) : (f.carry n q).1 % 2 = n % 2 := by
  have half : 2 ∣ 2 ^ (f.p - 1) := Nat.pow_dvd_pow 2 (m := 1) (by have := hf.two_le_p; omega)
  have twice := Fmt.two_pow_p hf
  rw [Fmt.carry]
  split
  · next carried =>
    rw [beq_iff_eq] at carried
    omega
  · rfl

end

theorem Fmt.cut (f : Fmt) (x : Exact) : Cut (f.inUnits x) (f.cutAt x).1 (f.cutAt x).2 := shiftRest_cut _ _

theorem Fmt.inUnits_mul (f : Fmt) (x : Exact) : f.inUnits x * 2 ^ f.unitExp x = x.mant * 2 ^ x.exp := by
  rw [Fmt.inUnits, Rat.mul_assoc, two_zpow_sub_mul]

theorem Fmt.rat_eq_inUnits (f : Fmt) (x : Exact) : x.rat = signOf x.neg * f.inUnits x * 2 ^ f.unitExp x := by
  rw [Rat.mul_assoc, Fmt.inUnits_mul, exact_rat_eq, Rat.mul_assoc]

theorem two_zpow_le {a b : Int} (h : a ≤ b) : (2 : Rat) ^ a ≤ 2 ^ b := by
  have one : (1 : Rat) ≤ 2 ^ (b - a) := by
    rw [two_zpow_of_nonneg (Int.sub_nonneg_of_le h)]
    exact Rat.natCast_le_natCast.2 (Nat.two_pow_pos _)
  have scaled := Rat.mul_le_mul_of_nonneg_right one (Rat.le_of_lt (two_zpow_pos a))
  rwa [Rat.one_mul, two_zpow_sub_mul] at scaled

section
variable {x : Exact} (hx : x.mant ≠ 0)
include hx

/-- The magnitude lies between the powers of two that `topExp` names. -/
theorem Exact.magnitude_bounds : (2 : Rat) ^ x.topExp ≤ x.mant * 2 ^ x.exp ∧ (x.mant : Rat) * 2 ^ x.exp < 2 ^ (x.topExp + 1) := by
  have top (k : Nat) : (2 : Rat) ^ (x.exp + k) = (2 ^ k : Nat) * 2 ^ x.exp := by
    rw [two_zpow_add, two_zpow_natCast, Rat.mul_comm]
  have next : x.topExp + 1 = x.exp + (Nat.log2 x.mant + 1 : Nat) := by
    rw [Exact.topExp]
    omega
  rw [next, Exact.topExp, top, top]
  exact ⟨Rat.mul_le_mul_of_nonneg_right (Rat.natCast_le_natCast.2 (Nat.log2_self_le hx)) (Rat.le_of_lt (two_zpow_pos _)),
    Rat.mul_lt_mul_of_pos_right (Rat.natCast_lt_natCast.2 Nat.lt_log2_self) (two_zpow_pos _)⟩

theorem Exact.abs_rat_lt_two_zpow_iff (k : Int) : x.rat.abs < 2 ^ k ↔ x.topExp < k := by
  obtain ⟨low, high⟩ := Exact.magnitude_bounds hx
  have magnitude : x.rat.abs = x.mant * 2 ^ x.exp := by
    rw [exact_rat_eq, Rat.mul_assoc, abs_signOf_mul,
      Rat.abs_of_nonneg (Rat.mul_nonneg Rat.natCast_nonneg (Rat.le_of_lt (two_zpow_pos _)))]
  rw [magnitude]
  refine ⟨fun h => Int.not_le.1 fun small => ?_, fun h => Rat.not_le.1 fun large => ?_⟩
  · exact Rat.not_lt.2 (Rat.le_trans (two_zpow_le small) low) h
  · exact Rat.not_lt.2 (Rat.le_trans (two_zpow_le h) large) high

theorem Fmt.inUnits_lt (f : Fmt) : f.inUnits x < (2 ^ f.p : Nat) := by
  have bound : x.topExp + 1 ≤ f.p + f.unitExp x := by
    rw [Fmt.unitExp]
    omega
  have scaled : f.inUnits x * 2 ^ f.unitExp x < (2 ^ f.p : Nat) * 2 ^ f.unitExp x := by
    rw [Fmt.inUnits_mul, ← two_zpow_natCast, ← two_zpow_add]
    exact Rat.not_le.1 fun large => Rat.not_lt.2 (Rat.le_trans (two_zpow_le bound) large) (Exact.magnitude_bounds hx).2
  exact (Rat.mul_lt_mul_right (two_zpow_pos _)).1 scaled

variable {f : Fmt} (hf : f.Regular)
include hf

/-- The significand is full unless the last place is that of the subnormals. -/
theorem Fmt.whole_full : 2 ^ (f.p - 1) ≤ (f.cutAt x).1 ∨ f.unitExp x = f.qmin := by
  have width := hf.two_le_p
  by_cases subnormal : f.unitExp x = f.qmin
  · exact .inr subnormal
  · have bound : ((f.p - 1 : Nat) : Int) + f.unitExp x ≤ x.topExp := by
      rw [Fmt.unitExp] at subnormal ⊢
      omega
    have scaled : ((2 ^ (f.p - 1) : Nat) : Rat) * 2 ^ f.unitExp x ≤ f.inUnits x * 2 ^ f.unitExp x := by
      rw [Fmt.inUnits_mul, ← two_zpow_natCast, ← two_zpow_add]
      exact Rat.le_trans (two_zpow_le bound) (Exact.magnitude_bounds hx).1
    have full := (mul_le_mul_pos_iff (two_zpow_pos _)).1 scaled
    have high : f.inUnits x < ((f.cutAt x).1 + 1 : Nat) := by
      rw [Rat.natCast_add]
      exact (f.cut x).bounds.2
    refine .inl (Nat.le_of_lt_succ (Rat.natCast_lt_natCast.1 (Rat.not_le.1 fun le => ?_)))
    exact Rat.not_lt.2 (Rat.le_trans le full) high

/-- No number of the format lies between the two neighbours of an exact one. -/
theorem Fmt.no_number_between {m : Nat} {k : Int} (hm : m < 2 ^ f.p) (hk : f.qmin ≤ k) :
    (m : Rat) * 2 ^ (k - f.unitExp x) ≤ (f.cutAt x).1 ∨ (f.cutAt x).1 + 1 ≤ (m : Rat) * 2 ^ (k - f.unitExp x) := by
  by_cases coarse : f.unitExp x ≤ k
  · rw [two_zpow_of_nonneg (Int.sub_nonneg_of_le coarse), ← Rat.natCast_mul]
    rcases Nat.lt_or_ge (f.cutAt x).1 (m * 2 ^ (k - f.unitExp x).toNat) with above | below
    · exact .inr (Rat.natCast_add _ 1 ▸ Rat.natCast_le_natCast.2 above)
    · exact .inl (Rat.natCast_le_natCast.2 below)
  · left
    have full : 2 ^ (f.p - 1) ≤ (f.cutAt x).1 := (Fmt.whole_full hx hf).resolve_right (by omega)
    have small : (m : Rat) ≤ (2 * (f.cutAt x).1 : Nat) := Rat.natCast_le_natCast.2 (by have := Fmt.two_pow_p hf; omega)
    have fine : (2 : Rat) ^ (k - f.unitExp x) * 2 ≤ 1 := by
      rw [← Rat.zpow_add_one (by decide), ← Rat.zpow_zero 2]
      exact two_zpow_le (by omega)
    calc (m : Rat) * 2 ^ (k - f.unitExp x) ≤ (2 * (f.cutAt x).1 : Nat) * 2 ^ (k - f.unitExp x) :=
          Rat.mul_le_mul_of_nonneg_right small (Rat.le_of_lt (two_zpow_pos _))
      _ = (f.cutAt x).1 * (2 ^ (k - f.unitExp x) * 2) := by
          rw [Rat.natCast_mul, Rat.natCast_ofNat]
          grind
      _ ≤ (f.cutAt x).1 * 1 := Rat.mul_le_mul_of_nonneg_left fine Rat.natCast_nonneg
      _ = (f.cutAt x).1 := Rat.mul_one _

theorem Fmt.rounded_canonical (mode : Nat) : f.Canonical (f.rounded mode x).1 (f.rounded mode x).2 := by
  have below : (f.cutAt x).1 < 2 ^ f.p :=
    Rat.natCast_lt_natCast.1 (Rat.not_le.1 fun h => Rat.not_lt.2 (Rat.le_trans h (f.cut x).bounds.1) (Fmt.inUnits_lt hx f))
  have full := Fmt.whole_full hx hf
  have near : f.roundedUnits mode x = (f.cutAt x).1 ∨ f.roundedUnits mode x = (f.cutAt x).1 + 1 :=
    roundedTo_floor_or_next mode x.neg _ _
  exact Fmt.carry_canonical hf (by omega) (Int.le_max_right _ _) (full.imp_left fun h => by omega)

end

/-- The pattern of a number that overflows: the largest finite value or the infinity, as the mode names (06 R104). -/
def Fmt.overflowPattern (f : Fmt) (mode : Nat) (neg : Bool) : Nat :=
  f.signed neg +
    if f.inf = false ∨ mode = 1 ∨ (mode = 2 ∧ neg = true) ∨ (mode = 3 ∧ neg = false) then f.maxBits else f.infBits

theorem overflowBits_eq (f : Fmt) {mode : Nat} (hmode : mode < 4) (neg away : Bool) :
    overflowBits f mode neg away = f.overflowPattern mode neg := by
  unfold overflowBits Fmt.overflowPattern Fmt.signed
  rw [Nat.add_comm]
  match mode with
  | 0 | 1 => cases f.inf <;> rfl
  | 2 | 3 => cases f.inf <;> cases neg <;> rfl

/-- Rounding a number that is not zero. -/
theorem Fmt.round_eq (f : Fmt) {mode : Nat} (hmode : mode < 4) (rnd : Nat) {x : Exact} (hx : x.mant ≠ 0) (hs : x.sticky = false) :
    f.round mode rnd x =
      if f.exceeds (f.rounded mode x).1 (f.rounded mode x).2 then (f.overflowPattern mode x.neg, fOF ||| fNX)
      else (f.signed x.neg + f.encode (f.rounded mode x).1 (f.rounded mode x).2,
        if (f.cutAt x).2 == 0 then 0 else if x.topExp < 1 - (f.bias : Int) then fUF ||| fNX else fNX) := by
  have notSr : (mode == 4) = false := by
    rw [beq_eq_false_iff_ne]
    omega
  have nonzero : (x.mant == 0) = false := beq_eq_false_iff_ne.2 hx
  simp only [Fmt.round, nonzero, notSr, hs, overflowBits_eq f hmode]
  rfl

/-- The value of a pattern is what the mode asks, compared with each number of the format, and its flags are those of one rounding. -/
structure Fmt.WellRounded (f : Fmt) (mode : Nat) (x : Exact) (r : Nat × BitVec 5) : Prop where
  finite : (f.dec r.1).finite
  nearest : ∀ b, (f.dec b).finite → RoundsTo mode (r.1 % 2 = 0) x.rat (f.dec r.1).rat (f.dec b).rat
  inexact : r.2.getLsbD 4 = true ↔ (f.dec r.1).rat ≠ x.rat
  underflow : r.2.getLsbD 3 = true ↔ (f.dec r.1).rat ≠ x.rat ∧ x.rat.abs < 2 ^ (1 - (f.bias : Int))
  noOther : r.2.getLsbD 0 = false ∧ r.2.getLsbD 1 = false ∧ r.2.getLsbD 2 = false

theorem Fmt.round_zero {f : Fmt} (hf : f.Regular) (mode rnd : Nat) {x : Exact} (hx : x.mant = 0) :
    f.WellRounded mode x (f.round mode rnd x) := by
  have zeroBits : f.round mode rnd x = (f.signed x.neg, 0) := if_pos (beq_iff_eq.2 hx)
  have value : f.dec (f.signed x.neg) = .fin x.neg 0 f.qmin := Fmt.dec_subnormal hf x.neg (Nat.two_pow_pos _)
  have zero (e : Int) : signOf x.neg * (0 : Nat) * (2 : Rat) ^ e = 0 := by
    rw [Rat.natCast_ofNat, Rat.mul_zero, Rat.zero_mul]
  have exact : (f.dec (f.signed x.neg)).rat = x.rat := by
    rw [value, fin_rat_eq, exact_rat_eq, hx, zero, zero]
  rw [zeroBits]
  refine ⟨value ▸ trivial, fun b _ => exact ▸ RoundsTo.refl _ _ _ _, ?_, ?_, ?_⟩
  · dsimp only
    exact iff_of_false (by decide) fun differ => differ exact
  · dsimp only
    exact iff_of_false (by decide) fun ⟨differ, _⟩ => differ exact
  · dsimp only
    decide

section
variable {f : Fmt} (hf : f.Regular)
include hf

theorem Fmt.rounded_rat (mode : Nat) (x : Exact) : (FVal.fin x.neg (f.rounded mode x).1 (f.rounded mode x).2).rat =
    signOf x.neg * f.roundedUnits mode x * 2 ^ f.unitExp x := by
  rw [fin_rat_eq, Rat.mul_assoc, Fmt.rounded, Fmt.carry_value hf, Rat.mul_assoc]

theorem Fmt.rounded_rat_eq_iff (mode : Nat) (x : Exact) :
    (FVal.fin x.neg (f.rounded mode x).1 (f.rounded mode x).2).rat = x.rat ↔ ((f.cutAt x).2 == 0) = true := by
  have unsigned (a b : Rat) : signOf x.neg * a = signOf x.neg * b ↔ a = b := by
    refine ⟨fun h => ?_, congrArg _⟩
    cases hn : x.neg <;> rw [hn] at h
    · rwa [signOf_false_mul, signOf_false_mul] at h
    · rw [signOf_true_mul, signOf_true_mul] at h
      exact (Rat.neg_neg a).symm.trans ((congrArg (- ·) h).trans (Rat.neg_neg b))
  rw [Fmt.rounded_rat hf, Fmt.rat_eq_inUnits f x, mul_eq_mul_pos_iff (two_zpow_pos _), unsigned, beq_iff_eq]
  exact (f.cut x).roundedTo_eq_iff mode x.neg

variable {x : Exact} (hx : x.mant ≠ 0)
include hx

/-- A number of the format in units of the last place kept of `x`, with the sign of `x` taken out. -/
theorem Fmt.number_in_units {b : Nat} (hb : (f.dec b).finite) :
    ∃ t : Rat, (f.dec b).rat = signOf x.neg * t * 2 ^ f.unitExp x ∧
      (t.abs ≤ (f.cutAt x).1 ∨ (f.cutAt x).1 + 1 ≤ t.abs) := by
  obtain ⟨n, m, k, hdec, hm, hk⟩ := Fmt.dec_finite_bounds hf hb
  refine ⟨signOf x.neg * (signOf n * (m * 2 ^ (k - f.unitExp x))), ?_, ?_⟩
  · rw [hdec, fin_rat_eq, ← Rat.mul_assoc, signOf_mul_self, Rat.one_mul, ← Rat.mul_assoc, Rat.mul_assoc _ ((2 : Rat) ^ _), two_zpow_sub_mul]
  · rw [abs_signOf_mul, abs_signOf_mul, Rat.abs_of_nonneg (Rat.mul_nonneg Rat.natCast_nonneg (Rat.le_of_lt (two_zpow_pos _)))]
    exact Fmt.no_number_between hx hf hm hk

theorem Fmt.round_of_fits {mode : Nat} (hmode : mode < 4) (rnd : Nat) (hs : x.sticky = false)
    (fits : f.exceeds (f.rounded mode x).1 (f.rounded mode x).2 = false) : f.WellRounded mode x (f.round mode rnd x) := by
  have value := Fmt.dec_encode hf x.neg (Fmt.rounded_canonical hx hf mode) fits
  have same := Fmt.rounded_rat_eq_iff hf mode x
  have tiny := Exact.abs_rat_lt_two_zpow_iff hx (1 - (f.bias : Int))
  rw [Fmt.round_eq f hmode rnd hx hs, fits, if_neg Bool.false_ne_true]
  refine ⟨?_, fun b hb => ?_, ?_, ?_, ?_⟩
  · rw [value]
    trivial
  · obtain ⟨t, number, gap⟩ := Fmt.number_in_units hf hx hb
    rw [value, number, Fmt.rounded_rat hf, Fmt.rat_eq_inUnits f x, Fmt.encode_even hf, Fmt.rounded, Fmt.carry_even hf]
    exact ((f.cut x).roundsTo x.neg mode gap).scale (two_zpow_pos _)
  · dsimp only
    rw [value, ne_eq, same]
    split
    next exact => exact iff_of_false (by decide) (not_not_intro exact)
    next inexact => split <;> exact iff_of_true (by decide) inexact
  · dsimp only
    rw [value, ne_eq, same, tiny]
    split
    next exact => exact iff_of_false (by decide) fun ⟨inexact, _⟩ => inexact exact
    next inexact =>
      split
      next small => exact iff_of_true (by decide) ⟨inexact, small⟩
      next large => exact iff_of_false (by decide) fun ⟨_, small⟩ => large small
  · dsimp only
    split
    · decide
    · split <;> decide

end

/-- Rounding (06 R103-R105): a number that overflows has the pattern that the mode names; any other is rounded once. -/
theorem Fmt.round_spec {f : Fmt} (hf : f.Regular) {mode : Nat} (hmode : mode < 4) (rnd : Nat) {x : Exact} (hs : x.sticky = false) :
    f.round mode rnd x = (f.overflowPattern mode x.neg, fOF ||| fNX) ∨ f.WellRounded mode x (f.round mode rnd x) := by
  by_cases hx : x.mant = 0
  · exact .inr (Fmt.round_zero hf mode rnd hx)
  · cases fits : f.exceeds (f.rounded mode x).1 (f.rounded mode x).2
    · exact .inr (Fmt.round_of_fits hf hx hmode rnd hs fits)
    · exact .inl (by rw [Fmt.round_eq f hmode rnd hx hs, if_pos fits])

theorem fmtOf_inf_eq_false_iff {et : Nat} (h : et ∈ [8, 9, 10, 11, 12]) : (fmtOf et).inf = false ↔ et = 11 := by
  simp only [List.mem_cons, List.not_mem_nil, or_false] at h
  rcases h with rfl | rfl | rfl | rfl | rfl <;> decide

end Sys2Proof.Machine
end

section
/-! Floating-point sums, products, minima and comparisons (06 R103-R105, R109, R115; 07 R127). -/

namespace Sys2Proof.Machine

/-- Settles O8: the exact operations, then rounding by `round_spec`, then minimum, maximum and comparison. -/
theorem floatRounding : Obligations.FloatRounding := by
  refine ⟨fun et mode a b c _ ha hb hc => ⟨fAdd_isRounding mode ha hb, fSub_isRounding mode ha hb, fMul_isRounding mode ha hb,
      fFma_isRounding mode ha hb hc⟩, fun et mode x het hmode hs => ?_, fun et a b het ha hb => ?_⟩
  · rcases Fmt.round_spec (fmtOf_regular het) hmode 0 hs with overflows | once
    · rw [overflows]
      refine ⟨fun _ => ⟨rfl, ?_⟩, fun noOverflow => absurd noOverflow (by decide : (fOF ||| fNX).getLsbD 2 ≠ false)⟩
      simp only [Fmt.overflowPattern, fmtOf_inf_eq_false_iff het]
      rfl
    · obtain ⟨noInvalid, noDivZero, noOverflow⟩ := once.noOther
      exact ⟨fun overflow => absurd overflow (Bool.eq_false_iff.1 noOverflow), fun _ => ⟨once.finite, fun b _ => once.nearest b,
        once.inexact, once.underflow, noInvalid, noDivZero⟩⟩
  · refine ⟨fun isMax => congrArg Prod.snd (fMinMax_eq ha hb isMax), fMinMax_of_left_nan ha hb, fMinMax_of_right_nan ha hb,
      fMinMax_of_nans ha hb, fun h => ⟨?_, ?_⟩, fun h => ⟨?_, ?_⟩, ?_, ?_, fun cc => rfl, fCompare_of_nan, fCompare_of_numbers⟩
    · exact (fMinMax_of_below ha hb false h).1
    · exact (fMinMax_of_below ha hb true h).1
    · exact (fMinMax_of_below hb ha false h).2
    · exact (fMinMax_of_below hb ha true h).2
    · rintro hx rfl isMax
      exact fMinMax_same ha isMax hx
    · rintro rfl rfl
      exact fMinMax_zeros het ha

end Sys2Proof.Machine
end
